-- ==== Sys2Proof/Word.lean ====
section
/-! DEFINITION. The words of the machine and the closed sets of names its encodings use
(R6, R23, R39, R54, R154, R191, R212, R227), and the plain data that an event of the
module's environment carries. -/

namespace Sys2Proof

/-- A 32-bit register or code word (R21, R32). -/
abbrev Word := BitVec 32
/-- A byte of memory (R6). -/
abbrev Byte := BitVec 8
/-- A register pair, or a code address (R6, R38). -/
abbrev DWord := BitVec 64
/-- A 128-byte line, byte j in bits [8j+7:8j] (R6, R24). -/
abbrev Line := BitVec 1024
/-- A general or uniform register number (R37). -/
abbrev Reg := BitVec 6
/-- A predicate or mask number (R37). -/
abbrev PReg := BitVec 3
/-- A handle number (R37). -/
abbrev HReg := BitVec 4

/-- The conditions of CMP and CMPN (R52, R290). -/
inductive Cond where
  | eq | ne | lt | le | gt | ge
deriving DecidableEq, Repr

/-- The conditions of FCMP (R291). -/
inductive FCond where
  | eq | ne | lt | le | gt | ge | un | ord
deriving DecidableEq, Repr

/-- The conditions of CMPI (R289). -/
inductive ICond where
  | eq | ne | lt | le | gt | ge | ltn | gen
deriving DecidableEq, Repr

/-- The memory formats 0 to 14 (R212). -/
inductive Fmt where
  | b8 | i8 | b16 | i16 | b32 | b64 | b128 | b256 | bf16 | f16 | e4m3 | e5m2
  | bf16x4 | e4m3x4 | i8x4
deriving DecidableEq, Repr

/-- The ord field (R215). -/
inductive MOrd where
  | plain | acq | rel | sc
deriving DecidableEq, Repr

/-- The pol field (R131). -/
inductive Pol where
  | dflt | bypass | stream | dev
deriving DecidableEq, Repr

/-- The five address spaces (R23). -/
inductive Space where
  | slice | scratch | window | wafer | global
deriving DecidableEq, Repr

/-- The atomic operations (R227). -/
inductive AtomOp where
  | addI32 | addF32 | addBf16x2 | minI32 | maxI32 | minN32 | maxN32 | and | or | xor
  | exch | cas32 | addN64 | exch64 | cas64 | incwrap
deriving DecidableEq, Repr

/-- The scopes (R154). -/
inductive Scope where
  | thread | workgroup | cluster | module | pod
deriving DecidableEq, Repr

/-- The kinds of FENCE (R231). -/
inductive FenceKind where
  | acquire | release | full
deriving DecidableEq, Repr

/-- The targets of PREF (R234). -/
inductive PrefTarget where
  | l1 | l1w | l2
deriving DecidableEq, Repr

/-- The types of CVT (R54). -/
inductive CvtType where
  | i32 | n32 | f32 | f16 | bf16 | e4m3 | e5m2 | i8
deriving DecidableEq, Repr

/-- The rounding modes (R54, R191). -/
inductive Rounding where
  | rne | rtz | rdn | rup | sr
deriving DecidableEq, Repr

/-- The conditions of TESTH (R266). -/
inductive HCond where
  | done | ok | can | flt | ref | den
deriving DecidableEq, Repr

/-- The formats an MST stores (R328). -/
inductive MstFmt where
  | f32 | bf16 | e4m3 | e5m2
deriving DecidableEq, Repr

/-- Where a host request goes (R440); through the management mirror also to the carrier flash (R418, R447) and to the
registers of a halted thread (R411). -/
inductive HostTarget where
  | vault | wafer | device | flash
  | regs (core slot : Nat)
deriving DecidableEq, Repr

/-- What a request from another module does to a line of this one (R133, R167). -/
inductive RemoteOp where
  | read (size : Nat)
  | write (data : List Byte)
  | atom (op : AtomOp) (operand : List Byte)
  /-- an L2CLEAN, or an L2EVICT, of the line (R237) -/
  | clean
  | evict
deriving DecidableEq, Repr

/-- A request that arrives over the fabric (R133, R167): its source core and the sequence
number that source gives to its accesses of the line. A device access is one with pol 3. -/
structure RemoteReq where
  srcModule : Nat
  srcCore   : Nat
  seq       : Nat
  addr      : Nat
  op        : RemoteOp
  device    : Bool := false
deriving DecidableEq, Repr

/-- A copy of a vault's remap table as the vault reads it at boot (R83): copy 0, 1 or 2, and whether its ECC check
passes or corrects it. -/
structure TableCopy where
  vault : Nat
  copy  : Nat
  map   : BitVec 512
  cap   : Nat
  gen   : Nat
  good  : Bool
deriving DecidableEq, Repr

/-- What the boot steps of R447 find and load: what self-test, repair, fuses and the carrier
flash supply. `failStep` is 0, or the step that fails. A copy of a remap table that `tables` does not list holds
the map that the bank repair gives. -/
structure BootReport where
  failStep      : Nat
  moduleId      : Nat
  disabledCores : List Nat
  deadLanes     : List (Nat × Nat × Nat)
  deadBanks     : List (Nat × Nat)
  layerTemps    : List (Nat × List Int)
  tables        : List TableCopy
  aliveFields   : List Nat
  bands         : List (Nat × Nat)
  clockSources  : List (Nat × List Nat)
  lasers        : List (Nat × (Word × Word × Word × Word))
  /-- the vendor root key hash in the fuses, and the key that comes with the first-stage code -/
  rootHash      : BitVec 384
  rootKey       : List Byte
  /-- the first-stage code: its segment descriptor, its signature and its bytes (R448) -/
  codeDesc      : List Byte
  codeSig       : List Byte
  code          : List Byte
deriving DecidableEq, Repr

/-- A fixed-width slice of a number, bit `lo` upwards. -/
abbrev bitsNat (x lo n : Nat) : Nat := (x / 2 ^ lo) % 2 ^ n

/-- Sign extension of the n-bit value x as an integer (R10). -/
abbrev sextInt (x n : Nat) : Int := if x % 2 ^ n < 2 ^ (n - 1) then (x % 2 ^ n : Nat) else (x % 2 ^ n : Nat) - (2 ^ n : Nat)

end Sys2Proof
end

