-- ==== Sys2Proof/Machine/Float.lean ====
section
/-! DEFINITION. Number formats and exact arithmetic (R185 to R208, R297 to R302): a value is a NaN, an
infinity or an exact signed dyadic number, and every result is one rounding of an exact value. -/

namespace Sys2Proof.Machine

/-- A floating-point format (R186): its width, mantissa bits, bias, the pattern of its largest
finite value, of its infinity if it has one, and its canonical NaN. -/
structure FFmt where
  width : Nat
  mant  : Nat
  bias  : Int
  max   : Nat
  inf   : Option Nat
  nan   : Nat
deriving DecidableEq, Repr

def f32Fmt : FFmt := ⟨32, 23, 127, 0x7F7FFFFF, some 0x7F800000, 0x7FC00000⟩
def f16Fmt : FFmt := ⟨16, 10, 15, 0x7BFF, some 0x7C00, 0x7E00⟩
def bf16Fmt : FFmt := ⟨16, 7, 127, 0x7F7F, some 0x7F80, 0x7FC0⟩
def e4m3Fmt : FFmt := ⟨8, 3, 7, 0x7E, none, 0x7F⟩
def e5m2Fmt : FFmt := ⟨8, 2, 15, 0x7B, some 0x7C, 0x7E⟩

/-- Exponent of the last place of the subnormals of a format (R186). -/
def FFmt.minUlp (f : FFmt) : Int := 1 - f.bias - f.mant

/-- A floating-point value: (-1)^neg · m · 2^e when finite (R186). -/
inductive FVal where
  | nan
  | inf (neg : Bool)
  | fin (neg : Bool) (m : Nat) (e : Int)
deriving DecidableEq, Repr

/-- The value of a bit pattern (R186). -/
def FFmt.value (f : FFmt) (bits : Nat) : FVal :=
  let neg := bitsNat bits (f.width - 1) 1 == 1
  let body := bits % 2 ^ (f.width - 1)
  if body > f.max then (if f.inf = some body then .inf neg else .nan)
  else
    let ex := body / 2 ^ f.mant
    let fr := body % 2 ^ f.mant
    if ex = 0 then .fin neg fr f.minUlp
    else .fin neg (fr + 2 ^ f.mant) (f.minUlp + ex - 1)

/-- 2^e as a factor, for e at least 0. -/
def pow2 (e : Int) : Nat := 2 ^ e.toNat

/-- Number of bits of a number. -/
def bitLen (n : Nat) : Nat := if n = 0 then 0 else Nat.log2 n + 1

/-- Is the magnitude q (with rem below one unit of size 2^shift, and something more if sticky) rounded
away from zero (R191, R195)? u is the stochastic draw. -/
def roundsUp (mode : Rounding) (neg odd : Bool) (rem shift : Nat) (sticky : Bool) (u : Nat) : Bool :=
  let inexact := rem != 0 || sticky
  let half := 2 ^ (shift - 1)
  match mode with
  | .rne => if shift = 0 then false else rem > half || (rem == half && (sticky || odd))
  | .rtz => false
  | .rdn => neg && inexact
  | .rup => !neg && inexact
  | .sr => decide (u < rem * 2 ^ 32 / 2 ^ shift)

/-- Overflow and saturation (R193): the pattern without sign. -/
def overflowBits (f : FFmt) (mode : Rounding) (sat neg : Bool) : Nat :=
  match f.inf with
  | none => f.max
  | some i =>
    if sat then f.max
    else match mode with
      | .rne | .sr => i
      | .rtz => f.max
      | .rdn => if neg then i else f.max
      | .rup => if neg then f.max else i

/-- A pattern with its sign bit. -/
def FFmt.sign (f : FFmt) (neg : Bool) (body : Nat) : Nat := (if neg then 2 ^ (f.width - 1) else 0) + body

/-- One rounding (R191 to R193) of the magnitude m · 2^e, or of a magnitude strictly between that and
(m + 1) · 2^e if sticky. -/
def roundMag (f : FFmt) (mode : Rounding) (sat neg : Bool) (m : Nat) (e : Int) (sticky : Bool) (u : Nat) : Nat :=
  let ulp : Int := max (e + bitLen m - (f.mant + 1)) f.minUlp
  let t := if ulp ≤ e then m * pow2 (e - ulp) else
    let sh := (ulp - e).toNat
    let q := m / 2 ^ sh
    q + (if roundsUp mode neg (q % 2 == 1) (m % 2 ^ sh) sh sticky u then 1 else 0)
  let body := (ulp - f.minUlp).toNat * 2 ^ f.mant + t
  f.sign neg (if body > f.max then overflowBits f mode sat neg else body)

/-- Rounds an exact value into a format (R189, R191 to R193). -/
def roundVal (f : FFmt) (mode : Rounding) (sat : Bool) (u : Nat) : FVal → Nat
  | .nan => f.nan
  | .inf neg => f.sign neg (match f.inf with
      | some i => if sat then f.max else i
      | none => f.max)
  | .fin neg m e => if m = 0 then f.sign neg 0 else roundMag f mode sat neg m e false u

/-- Signed numerator of m · 2^e over 2^lo. -/
def scaled (neg : Bool) (m : Nat) (e lo : Int) : Int :=
  let n : Int := (m * pow2 (e - lo) : Nat)
  if neg then -n else n

/-- Exact sum with the zero and infinity rules of R299. -/
def FVal.add : FVal → FVal → FVal
  | .nan, _ => .nan
  | _, .nan => .nan
  | .inf a, .inf b => if a = b then .inf a else .nan
  | .inf a, .fin _ _ _ => .inf a
  | .fin _ _ _, .inf b => .inf b
  | .fin n1 m1 e1, .fin n2 m2 e2 =>
    let lo := min e1 e2
    let r := scaled n1 m1 e1 lo + scaled n2 m2 e2 lo
    if r = 0 then .fin (n1 && n2 && m1 == 0 && m2 == 0) 0 lo
    else .fin (decide (r < 0)) r.natAbs lo

def FVal.neg : FVal → FVal
  | .nan => .nan
  | .inf a => .inf (!a)
  | .fin n m e => .fin (!n) m e

/-- Exact product (R299). -/
def FVal.mul : FVal → FVal → FVal
  | .nan, _ => .nan
  | _, .nan => .nan
  | .inf a, .inf b => .inf (a != b)
  | .inf a, .fin b m _ => if m = 0 then .nan else .inf (a != b)
  | .fin a m _, .inf b => if m = 0 then .nan else .inf (a != b)
  | .fin a m e, .fin b n k => .fin (a != b) (m * n) (e + k)

def FVal.isNan (v : FVal) : Bool := v == .nan
def FVal.isZero : FVal → Bool
  | .fin _ m _ => m == 0
  | _ => false

/-- Ordering of two values that are not NaN: -1, 0 or 1; zeros compare equal (R291). -/
def FVal.cmp (a b : FVal) : Int :=
  let key : FVal → Int → Int := fun v lo => match v with
    | .fin n m e => scaled n m e lo
    | _ => 0
  match a, b with
  | .inf x, .inf y => if x = y then 0 else if x then -1 else 1
  | .inf x, _ => if x then -1 else 1
  | _, .inf y => if y then 1 else -1
  | .fin _ _ e1, .fin _ _ e2 =>
    let d := key a (min e1 e2) - key b (min e1 e2)
    if d < 0 then -1 else if d = 0 then 0 else 1
  | _, _ => 0

/-- Sign bit of a value. -/
def FVal.negative : FVal → Bool
  | .nan => false
  | .inf n => n
  | .fin n _ _ => n

/-- A word read as FP32. -/
def fval (w : Word) : FVal := f32Fmt.value w.toNat
/-- An exact value rounded once to FP32 with RNE (R298). -/
def fround (v : FVal) : Word := BitVec.ofNat 32 (roundVal f32Fmt .rne false 0 v)
/-- The canonical NaN of FP32. -/
def nan32 : Word := 0x7FC00000

def fadd (a b : Word) : Word := fround ((fval a).add (fval b))
def fsub (a b : Word) : Word := fround ((fval a).add (fval b).neg)
def fmul (a b : Word) : Word := fround ((fval a).mul (fval b))
/-- a × b + d with one rounding (R299). -/
def ffma (a b d : Word) : Word := fround (((fval a).mul (fval b)).add (fval d))

/-- The smaller or larger pattern, -0 below +0, the canonical NaN for a NaN (R300). -/
def minMaxBits (f : FFmt) (wantMax : Bool) (x y : Nat) : Nat :=
  let a := f.value x
  let b := f.value y
  if a.isNan || b.isNan then f.nan
  else
    let aBelow := a.cmp b < 0 || (a.cmp b = 0 && a.negative && !b.negative)
    if aBelow != wantMax then x else y

def fmin (a b : Word) : Word := BitVec.ofNat 32 (minMaxBits f32Fmt false a.toNat b.toNat)
def fmax (a b : Word) : Word := BitVec.ofNat 32 (minMaxBits f32Fmt true a.toNat b.toNat)
def fabsW (a : Word) : Word := if (fval a).isNan then nan32 else a &&& 0x7FFFFFFF
def fnegW (a : Word) : Word := if (fval a).isNan then nan32 else a ^^^ 0x80000000

/-- a / b (R299, R300): a quotient of 60 more bits than the dividend, and what is left over. -/
def fdiv (a b : Word) : Word :=
  match fval a, fval b with
  | .nan, _ | _, .nan => nan32
  | .inf _, .inf _ => nan32
  | .inf x, .fin y _ _ => fround (.inf (x != y))
  | .fin x _ _, .inf y => fround (.fin (x != y) 0 0)
  | .fin x m e, .fin y n k =>
    if n = 0 then (if m = 0 then nan32 else fround (.inf (x != y)))
    else if m = 0 then fround (.fin (x != y) 0 0)
    else
      let q := m * 2 ^ 60 / n
      BitVec.ofNat 32 (roundMag f32Fmt .rne false (x != y) q (e - k - 60) (m * 2 ^ 60 % n != 0) 0)

/-- Integer square root, bit by bit from bit k - 1 down. -/
def isqrtFrom (n : Nat) : Nat → Nat → Nat
  | 0, r => r
  | k + 1, r => isqrtFrom n k (if (r + 2 ^ k) * (r + 2 ^ k) ≤ n then r + 2 ^ k else r)

/-- Square root (R301). -/
def fsqrt (a : Word) : Word :=
  match fval a with
  | .nan => nan32
  | .inf n => if n then nan32 else a
  | .fin n m e =>
    if m = 0 then a
    else if n then nan32
    else
      let e' := if e % 2 = 0 then e else e - 1
      let x := (if e % 2 = 0 then m else 2 * m) * 2 ^ 80
      let r := isqrtFrom x 60 0
      BitVec.ofNat 32 (roundMag f32Fmt .rne false false r (e' / 2 - 40) (r * r != x) 0)

/-- Reciprocal (R301). -/
def frcp (a : Word) : Word := fdiv 0x3F800000 a

/-- Reciprocal square root (R301). -/
def frsq (a : Word) : Word :=
  match fval a with
  | .nan => nan32
  | .inf n => if n then nan32 else 0
  | .fin n m e =>
    if m = 0 then fround (.inf n)
    else if n then nan32
    else
      let e' := if e % 2 = 0 then e else e - 1
      let x := if e % 2 = 0 then m else 2 * m
      let r := isqrtFrom (2 ^ 120 / x) 62 0
      BitVec.ofNat 32 (roundMag f32Fmt .rne false false r (-(e' / 2) - 60) (r * r * x != 2 ^ 120) 0)

/-- Rounding to an integral value (R302); a zero result keeps the sign. -/
def roundIntegral (mode : Rounding) (a : Word) : Word :=
  match fval a with
  | .nan => nan32
  | .inf _ => a
  | .fin n m e =>
    if 0 ≤ e ∨ m = 0 then a
    else
      let sh := (-e).toNat
      let q := m / 2 ^ sh
      let t := q + (if roundsUp mode n (q % 2 == 1) (m % 2 ^ sh) sh false 0 then 1 else 0)
      fround (.fin n t 0)

/-! The transcendental functions (R298, R301): fixed-point intervals with w fraction bits, narrowed
until both ends round to one pattern. -/

/-- Terms of an odd power series with z squared: t, t·z²/3, … summed as t/(2k+1), signs alternating if alt. -/
def oddSeries (w z2 : Nat) (alt : Bool) : Nat → Nat → Nat → Bool → Int → Int
  | 0, _, _, _, acc => acc
  | n + 1, t, k, minus, acc =>
    if t = 0 then acc
    else
      let v : Int := (t / (2 * k + 1) : Nat)
      oddSeries w z2 alt n (t * z2 / 2 ^ w) (k + 1) (alt && !minus) (if minus then acc - v else acc + v)

/-- atanh z for z in fixed point with w bits. -/
def atanhFix (w z : Nat) : Nat := (oddSeries w (z * z / 2 ^ w) false w z 0 false 0).toNat
/-- ln 2 with w bits: 2 · atanh(1/3). -/
def ln2Fix (w : Nat) : Nat := 2 * atanhFix w (2 ^ w / 3)
/-- arctan of 1/n with w bits. -/
def atanInv (w n : Nat) : Int :=
  oddSeries w (2 ^ w / (n * n)) true w (2 ^ w / n) 0 false 0
/-- π/2 with w bits, by Machin's formula. -/
def halfPi (w : Nat) : Nat := (8 * atanInv w 5 - 2 * atanInv w 239).toNat

/-- exp t for t in fixed point with w bits, 0 ≤ t < 1. -/
def expSeries (w t : Nat) : Nat → Nat → Nat → Nat → Nat
  | 0, _, _, acc => acc
  | n + 1, term, k, acc =>
    if term = 0 then acc else expSeries w t n (term * t / 2 ^ w / (k + 1)) (k + 1) (acc + term)

def expFix (w t : Nat) : Nat := expSeries w t w (2 ^ w) 0 0

/-- Alternating series of sine (first = r, k = 1) or cosine (first = 1, k = 0) in fixed point. -/
def trigSeries (w r2 : Nat) : Nat → Nat → Nat → Bool → Int → Int
  | 0, _, _, _, acc => acc
  | n + 1, term, k, minus, acc =>
    if term = 0 then acc
    else trigSeries w r2 n (term * r2 / 2 ^ w / ((k + 1) * (k + 2))) (k + 2) (!minus)
      (if minus then acc - (term : Int) else acc + (term : Int))

/-- m · 2^e in fixed point with w bits, rounded down. -/
def fixOf (w m : Nat) (e : Int) : Nat :=
  if 0 ≤ e + w then m * pow2 (e + w) else m / pow2 (-(e + w))

/-- An approximation: the magnitude is within slack of mag, both over 2^w, times 2^ex. -/
structure Approx where
  neg : Bool
  mag : Nat
  ex  : Int
deriving DecidableEq, Repr

/-- Slack of every fixed-point computation here, in units of the last place. -/
def slack : Nat := 2 ^ 32

def exp2Approx (w : Nat) (n : Bool) (m : Nat) (e : Int) : Approx :=
  -- x = whole + frac, 0 ≤ frac < 1, exact because e ≥ -149 and w > 149
  let x : Int := if n then -(fixOf w m e : Int) else (fixOf w m e : Int)
  let whole := x / (2 ^ w : Nat)
  let frac := (x % (2 ^ w : Nat)).toNat
  ⟨false, expFix w (frac * ln2Fix w / 2 ^ w), whole⟩

def log2Approx (w m : Nat) (e : Int) : Approx :=
  let k := Nat.log2 m
  let y := m * 2 ^ w / 2 ^ k
  let z := (y - 2 ^ w) * 2 ^ w / (y + 2 ^ w)
  let l : Int := (2 * atanhFix w z * 2 ^ w / ln2Fix w : Nat)
  let v := (e + k) * (2 ^ w : Nat) + l
  ⟨decide (v < 0), v.natAbs, 0⟩

/-- Sine (wantCos false) or cosine of ±m · 2^e. -/
def trigApprox (wantCos : Bool) (w : Nat) (n : Bool) (m : Nat) (e : Int) : Approx :=
  let big := w + 200
  let hp := halfPi big
  let x := fixOf big m e
  let quad := (x / hp + (if wantCos then 1 else 0)) % 4
  let r := x % hp / 2 ^ 200
  let r2 := r * r / 2 ^ w
  let v := if quad % 2 = 0 then trigSeries w r2 w r 1 false 0 else trigSeries w r2 w (2 ^ w) 0 false 0
  let minus := quad / 2 == 1
  ⟨(minus != (n && !wantCos)), v.toNat, 0⟩

/-- tanh of ±m · 2^e, by D = exp(-2|x|) and (1 - D)/(1 + D). -/
def tanhApprox (w : Nat) (n : Bool) (m : Nat) (e : Int) : Approx :=
  let y := fixOf w (2 * m) e
  let l := ln2Fix w
  let k := y / l
  let d := expFix w (l - y % l) / 2 ^ (k + 1)
  ⟨n, (2 ^ w - d) * 2 ^ w / (2 ^ w + d), 0⟩

/-- The first of the precisions at which both ends of the interval round alike (log 20). -/
def zivRound (f : Nat → Approx) : List Nat → Word
  | [] => nan32
  | w :: more =>
    let a := f w
    let r := fun v => roundMag f32Fmt .rne false a.neg v (a.ex - w) true 0
    let lo := r (a.mag - slack)
    match more with
    | [] => BitVec.ofNat 32 lo
    | _ => if slack < a.mag ∧ lo = r (a.mag + slack) then BitVec.ofNat 32 lo else zivRound f more

def precisions : List Nat := [192, 320, 640, 1280, 2560]

/-- 2^x (R301). -/
def fexp2 (a : Word) : Word :=
  match fval a with
  | .nan => nan32
  | .inf n => if n then 0 else a
  | .fin n m e =>
    if m = 0 then 0x3F800000
    else if !n && 8 ≤ e + bitLen m then fround (.inf false)
    else if n && 9 ≤ e + bitLen m then 0
    else if 0 ≤ e ∨ m % pow2 (-e) = 0 then
      -- an integral exponent gives an exact power
      let k : Int := if 0 ≤ e then (m * pow2 e : Nat) else (m / pow2 (-e) : Nat)
      fround (.fin false 1 (if n then -k else k))
    else zivRound (fun w => exp2Approx w n m e) precisions

/-- log2 x (R301). -/
def flog2 (a : Word) : Word :=
  match fval a with
  | .nan => nan32
  | .inf n => if n then nan32 else a
  | .fin n m e =>
    if m = 0 then fround (.inf true)
    else if n then nan32
    else if m = 2 ^ Nat.log2 m then
      let k := e + Nat.log2 m
      fround (.fin (decide (k < 0)) k.natAbs 0)
    else zivRound (fun w => log2Approx w m e) precisions

/-- sin x and cos x, x in radians (R301). -/
def fsin (a : Word) : Word :=
  match fval a with
  | .nan | .inf _ => nan32
  | .fin n m e => if m = 0 then a else zivRound (fun w => trigApprox false w n m e) precisions

def fcos (a : Word) : Word :=
  match fval a with
  | .nan | .inf _ => nan32
  | .fin n m e => if m = 0 then 0x3F800000 else zivRound (fun w => trigApprox true w n m e) precisions

/-- tanh x (R301); from 32 on it lies so near to 1 that it rounds to 1. -/
def ftanh (a : Word) : Word :=
  match fval a with
  | .nan => nan32
  | .inf n => fround (.fin n 1 0)
  | .fin n m e =>
    if m = 0 then a
    else if 6 ≤ e + bitLen m then fround (.fin n 1 0)
    else zivRound (fun w => tanhApprox w n m e) precisions

/-! Stochastic rounding and conversions. -/

/-- One draw of the generator (R195). -/
def rngNext (g : Word) : Word :=
  let g := g ^^^ (g <<< 13)
  let g := g ^^^ (g >>> 17)
  g ^^^ (g <<< 5)

/-- What replaces a zero generator state (R194). -/
def rngFix (g : Word) : Word := if g = 0 then 0x6A09E667 else g

/-- The format of a floating CVT type; none for the integers. -/
def cvtFmt : CvtType → Option FFmt
  | .f32 => some f32Fmt
  | .f16 => some f16Fmt
  | .bf16 => some bf16Fmt
  | .e4m3 => some e4m3Fmt
  | .e5m2 => some e5m2Fmt
  | .i32 | .n32 | .i8 => none

/-- An integer source of CVT (R198, R305). -/
def cvtInt (u : CvtType) (a : Word) : Int :=
  match u with
  | .i32 => a.toInt
  | .i8 => (a.setWidth 8).toInt
  | .n32 | .f32 | .f16 | .bf16 | .e4m3 | .e5m2 => a.toNat

/-- Range of an integer type (R185). -/
def intRange : CvtType → Int × Int
  | .i32 => (-2 ^ 31, 2 ^ 31 - 1)
  | .i8 => (-128, 127)
  | .n32 | .f32 | .f16 | .bf16 | .e4m3 | .e5m2 => (0, 2 ^ 32 - 1)

/-- Bits of an integer in a destination type, higher bits zero (R305). -/
def intBits (t : CvtType) (x : Int) : Word :=
  match t with
  | .i8 => (BitVec.ofInt 8 x).setWidth 32
  | .i32 | .n32 | .f32 | .f16 | .bf16 | .e4m3 | .e5m2 => BitVec.ofInt 32 x

/-- An exact value rounded to an integer (R197). -/
def toIntegral (mode : Rounding) (n : Bool) (m : Nat) (e : Int) : Int :=
  let mag : Nat := if 0 ≤ e then m * pow2 e else
    let sh := (-e).toNat
    let q := m / 2 ^ sh
    q + (if roundsUp mode n (q % 2 == 1) (m % 2 ^ sh) sh false 0 then 1 else 0)
  if n then -(mag : Int) else mag

/-- A floating source to an integer destination (R197). -/
def cvtToInt (sat : Bool) (mode : Rounding) (t : CvtType) (x : FVal) : Word :=
  let lo := (intRange t).1
  let hi := (intRange t).2
  let bad := intBits t (if t = .n32 then hi else lo)
  match x with
  | .nan => if sat then 0 else bad
  | .inf n => if sat then intBits t (if n then lo else hi) else bad
  | .fin n m e =>
    let v := toIntegral mode n m e
    if v < lo then (if sat then intBits t lo else bad)
    else if hi < v then (if sat then intBits t hi else bad)
    else intBits t v

/-- An exact integer as a value. -/
def FVal.ofInt (x : Int) : FVal := .fin (decide (x < 0)) x.natAbs 0

/-- CVT (R305): the result and the generator after it. -/
def cvtWord (sat : Bool) (mode : Rounding) (t u : CvtType) (a g : Word) : Word × Word :=
  let g' := if mode = .sr then rngNext g else g
  let x : FVal := match cvtFmt u with
    | some f => f.value (a.toNat % 2 ^ f.width)
    | none => .ofInt (cvtInt u a)
  match cvtFmt t with
  | some f => (BitVec.ofNat 32 (roundVal f mode sat g'.toNat x), g')
  | none =>
    match cvtFmt u with
    | some _ => (cvtToInt sat mode t x, g')
    | none =>
      let v := cvtInt u a
      let lo := (intRange t).1
      let hi := (intRange t).2
      (intBits t (if sat then max lo (min hi v) else v), g')

/-- A narrow pattern widened exactly to FP32 (R199). -/
def widen (f : FFmt) (bits : Nat) : Word := fround (f.value bits)
/-- FP32 narrowed with RNE and saturation, as typed stores and MST do (R199). -/
def narrow (f : FFmt) (w : Word) : Nat := roundVal f .rne true 0 (fval w)

/-! RB4 (R200 to R203). -/

/-- Integer form of a magnitude index by code type (R202). -/
def rb4Form (type m : Nat) : Nat :=
  match type with
  | 0 => m
  | 1 => [0, 1, 2, 3, 4, 6, 8, 12].getD m 0
  | 2 => [0, 1, 2, 4, 8, 16, 32, 64].getD m 0
  | _ => [0, 1, 2, 3, 4, 6, 8, 12].getD m 0

/-- Offset o of a code type (R202). -/
def rb4Offset (type : Nat) : Int :=
  match type with
  | 1 => -1
  | 2 => -3
  | _ => 0

/-- Signed integer form of a code (R202). -/
def rb4Int (type code : Nat) : Int :=
  if type = 0 then (if code < 8 then (code : Int) else if code = 8 then 0 else (code : Int) - 16)
  else
    let v : Int := rb4Form type (code % 8)
    if code < 8 then v else -v

/-- Scale exponent e - 32 of a scale byte (R201). -/
def scaleExp (c : Nat) : Int := (c % 64 : Nat) - 32

/-- Decoded value of a code as FP32 (R202, R311). -/
def rb4Value (c code : Nat) : Word :=
  let v := rb4Int (c / 64 % 4) code
  if v = 0 then 0 else fround (.fin (decide (v < 0)) v.natAbs (rb4Offset (c / 64 % 4) + scaleExp c))

/-- Index of the magnitude nearest to m · 2^e in integer form units, ties to the even index (R203). -/
def rb4Nearest (type : Nat) (m : Nat) (e : Int) : Nat :=
  -- doubled forms compared with the doubled value: index k + 1 wins above the midpoint of k and k + 1
  let above := fun k =>
    let mid := rb4Form type k + rb4Form type (k + 1)
    let lhs := if 0 ≤ e then 2 * m * pow2 e else 2 * m
    let rhs := if 0 ≤ e then mid else mid * pow2 (-e)
    if k % 2 = 0 then lhs > rhs else lhs ≥ rhs
  (List.range 7).foldl (fun r k => if above k then k + 1 else r) 0

/-- The code of a value in a block with scale byte c (R203). -/
def rb4Encode (c : Nat) (w : Word) : Nat :=
  let type := c / 64 % 4
  let code := fun (n : Bool) (k : Nat) =>
    if k = 0 then 0 else if !n then k else if type = 0 then 16 - k else 8 + k
  match fval w with
  | .nan => 0
  | .inf n => code n 7
  | .fin n m e => code n (rb4Nearest type m (e - scaleExp c - rb4Offset type))

end Sys2Proof.Machine
end

