-- ==== Sys2Proof/Machine/Lane.lean ====
section
/-! DEFINITION. The results of the lane operations as functions of their operands (R277 to R312). -/

namespace Sys2Proof.Machine

/-! Integers (R280 to R283). -/

/-- SHL (R281). -/
def shlW (a c : Word) : Word := if 32 ≤ c.toNat then 0 else a <<< c.toNat
/-- SHR (R281). -/
def shrW (a c : Word) : Word := if 32 ≤ c.toNat then 0 else a >>> c.toNat
/-- SAR (R281). -/
def sarW (a c : Word) : Word :=
  if 32 ≤ c.toNat then (if a.msb then BitVec.allOnes 32 else 0) else a.sshiftRight c.toNat
/-- ROT (R280). -/
def rotW (a b : Word) : Word := a.rotateLeft (b.toNat % 32)
/-- MULH (R280). -/
def mulhW (a b : Word) : Word := ((a.signExtend 64) * (b.signExtend 64)).extractLsb' 32 32
/-- MULHN (R280). -/
def mulhnW (a b : Word) : Word := ((a.setWidth 64) * (b.setWidth 64)).extractLsb' 32 32
/-- MIN (R280). -/
def minW (a b : Word) : Word := if a.sle b then a else b
/-- MAX (R280). -/
def maxW (a b : Word) : Word := if b.sle a then a else b
/-- MINN (R280). -/
def minnW (a b : Word) : Word := if a.ule b then a else b
/-- MAXN (R282). -/
def maxnW (a b : Word) : Word := if b.ule a then a else b
/-- ABS (R282). -/
def absW (a : Word) : Word := if a.msb then 0 - a else a
/-- CLZ (R282). -/
def clzW (a : Word) : Word := BitVec.ofNat 32 (32 - bitLen a.toNat)
/-- Set bits of a number, n bits of it. -/
def popNat (x : Nat) : Nat → Nat
  | 0 => 0
  | n + 1 => x % 2 + popNat (x / 2) n
/-- POPC (R282). -/
def popcW (a : Word) : Word := BitVec.ofNat 32 (popNat a.toNat 32)
/-- BREV (R282). -/
def brevW (a : Word) : Word := a.reverse
/-- DIV (R283). -/
def divW (a b : Word) : Word := if b = 0 then BitVec.allOnes 32 else a.sdiv b
/-- REM (R283). -/
def remW (a b : Word) : Word := if b = 0 then a else a.srem b
/-- DIVN (R283). -/
def divnW (a b : Word) : Word := if b = 0 then BitVec.allOnes 32 else a / b
/-- REMN (R283). -/
def remnW (a b : Word) : Word := if b = 0 then a else a % b
/-- LEA (R285). -/
def leaD (a : DWord) (b : Word) : DWord := a + b.signExtend 64
/-- MAD (R286). -/
def madW (a b d : Word) : Word := a * b + d

/-- Position of a bit field (R287). -/
def fieldPos (b : Word) : Nat := b.toNat % 32
/-- Length of a bit field (R287). -/
def fieldLen (b : Word) : Nat := min (b.toNat / 2 ^ 8 % 64) 32
/-- BFE (R287). -/
def bfeW (a b : Word) : Word :=
  let n := fieldLen b
  let f := a.toNat / 2 ^ fieldPos b % 2 ^ n
  if b.getLsbD 15 && decide (0 < n) then BitVec.ofInt 32 (sextInt f n) else BitVec.ofNat 32 f
/-- BFI (R287). -/
def bfiW (a b d : Word) : Word :=
  let mask : Word := BitVec.ofNat 32 ((2 ^ fieldLen b - 1) * 2 ^ fieldPos b)
  (d &&& ~~~mask) ||| ((a <<< fieldPos b) &&& mask)

/-! The 16-bit forms (R34, R278). -/

/-- Immediate of ops 0 to 6, 10 and 11: signed. -/
def imm16Signed (s : BitVec 5) : Word := s.signExtend 32
/-- Immediate of the shifts: unsigned. -/
def imm16Shift (s : BitVec 5) : Word := s.setWidth 32
/-- Immediate of the FP32 operations: the signed value as FP32. -/
def imm16Float (s : BitVec 5) : Word := fround (.ofInt s.toInt)

/-! Packed 16-bit arithmetic (R306). -/

/-- Applies an operation to the two elements of a, b and d. -/
def packed (f : Nat → Nat → Nat → Nat) (a b d : Word) : Word :=
  let at_ := fun (w : Word) (i : Nat) => bitsNat w.toNat (16 * i) 16
  BitVec.ofNat 32 (f (at_ a 0) (at_ b 0) (at_ d 0) + 2 ^ 16 * f (at_ a 1) (at_ b 1) (at_ d 1))
/-- Element sum in a format, rounded RNE without saturation. -/
def elemAdd (f : FFmt) (a b : Nat) : Nat := roundVal f .rne false 0 ((f.value a).add (f.value b))
/-- Element product. -/
def elemMul (f : FFmt) (a b : Nat) : Nat := roundVal f .rne false 0 ((f.value a).mul (f.value b))
/-- Element product and sum, rounded once. -/
def elemFma (f : FFmt) (a b d : Nat) : Nat :=
  roundVal f .rne false 0 (((f.value a).mul (f.value b)).add (f.value d))

/-! Quantising (R307 to R312). -/

/-- QMAX (R308). -/
def qmaxW (a b d : Word) : Word := fmax (fmax d (fabsW a)) (fabsW b)

/-- Largest magnitude of QSCL's target (R309). -/
def qsclMax (b : Word) : Nat :=
  match b.toNat / 4 % 4 with
  | 0 => (match b.toNat % 4 with
    | 0 => 7
    | 1 => 6
    | 2 => 8
    | _ => 12)
  | 1 => 448
  | 2 => 57344
  | _ => 127

/-- Smallest e, from e on and n tries left, with M · 2^(e - 32) at least the magnitude; 63 if none. -/
def qsclFrom (m : Nat) (x : FVal) (e : Nat) : Nat → Nat
  | 0 => 63
  | n + 1 => if 0 ≤ (FVal.fin false m ((e : Int) - 32)).cmp x then e else qsclFrom m x (e + 1) n

/-- QSCL (R309). -/
def qsclW (a b : Word) : Word :=
  let e := match fval (fabsW a) with
    | .nan => 63
    | .inf _ => 63
    | .fin n m x => qsclFrom (qsclMax b) (.fin n m x) 0 64
  let type := if b.toNat / 4 % 4 = 0 then b.toNat % 4 else 0
  BitVec.ofNat 32 (type * 64 + e)

/-- Codes packed four bits each, the first lowest. -/
def packCodes : List Nat → Nat
  | [] => 0
  | c :: r => c + 16 * packCodes r

/-- QPACK (R310). -/
def qpackW (vs : List Word) (b : Word) : Word :=
  BitVec.ofNat 32 (packCodes (vs.map (rb4Encode (b.toNat % 256))))

/-- QUNPK (R311). -/
def qunpkW (a b : Word) : List Word :=
  (List.range 8).map fun i => rb4Value (b.toNat % 256) (bitsNat a.toNat (4 * i) 4)

/-- Byte i of a word as a signed integer. -/
def sbyte (a : Word) (i : Nat) : Int := (a.extractLsb' (8 * i) 8).toInt
/-- IDP4 (R312). -/
def idp4W (a b d : Word) : Word :=
  d + BitVec.ofInt 32 (sbyte a 0 * sbyte b 0 + sbyte a 1 * sbyte b 1 + sbyte a 2 * sbyte b 2 + sbyte a 3 * sbyte b 3)

end Sys2Proof.Machine
end

