-- ==== Sys2Proof/Syntax.lean ====
section
/-! DEFINITION. The instructions and steps of the part: one constructor for each row of the table of
operations and events (R52 and the file 95_what_each_step_holds.md), the encoded rows first. An encoded row's operands are the fields of its word
(R33, R36, R40, R50) in the table's order, operation codes turned into names; an event's operands
are what the environment supplies or which unit it concerns. -/

namespace Sys2Proof

inductive Instr where
  /-- CLAUSE_HEADER (R41). At a clause boundary the thread fetches the clause whole, checks the header, waits for its flags, and latches setA, setB and clause_end. -/
  | clauseHeader (l : BitVec 5) (b : HReg) (a : HReg) (w : BitVec 12)
  /-- IMMX (R51). Prefix that supplies the full 32-bit immediate of the I-format instruction that follows it. -/
  | immx (x : BitVec 22)
  /-- NOP16 (R34). The 16-bit word 0x0000, MOV g0, g0, which has no effect. -/
  | nop16
  /-- MOV16 (R278). 16-bit form d := v. -/
  | mov16 (i : Bool) (s : BitVec 5) (d : BitVec 5)
  /-- ADD16 (R278). 16-bit form d := wrap(d + v). -/
  | add16 (i : Bool) (s : BitVec 5) (d : BitVec 5)
  /-- SUB16 (R278). 16-bit form d := wrap(d - v). -/
  | sub16 (i : Bool) (s : BitVec 5) (d : BitVec 5)
  /-- MUL16 (R278). 16-bit form d := low 32 bits of d × v. -/
  | mul16 (i : Bool) (s : BitVec 5) (d : BitVec 5)
  /-- AND16 (R278). 16-bit form d := d and v. -/
  | and16 (i : Bool) (s : BitVec 5) (d : BitVec 5)
  /-- OR16 (R278). 16-bit form d := d or v. -/
  | or16 (i : Bool) (s : BitVec 5) (d : BitVec 5)
  /-- XOR16 (R278). 16-bit form d := d xor v. -/
  | xor16 (i : Bool) (s : BitVec 5) (d : BitVec 5)
  /-- SHL16 (R278). 16-bit form: shift d left by the count v. -/
  | shl16 (i : Bool) (s : BitVec 5) (d : BitVec 5)
  /-- SHR16 (R278). 16-bit form: logical shift of d right by the count v. -/
  | shr16 (i : Bool) (s : BitVec 5) (d : BitVec 5)
  /-- SAR16 (R278). 16-bit form: arithmetic shift of d right by the count v. -/
  | sar16 (i : Bool) (s : BitVec 5) (d : BitVec 5)
  /-- MIN16 (R278). 16-bit form: signed minimum of d and v. -/
  | min16 (i : Bool) (s : BitVec 5) (d : BitVec 5)
  /-- MAX16 (R278). 16-bit form: signed maximum of d and v. -/
  | max16 (i : Bool) (s : BitVec 5) (d : BitVec 5)
  /-- FADD16 (R278). 16-bit form of FP32 addition into d. -/
  | fadd16 (i : Bool) (s : BitVec 5) (d : BitVec 5)
  /-- FMUL16 (R278). 16-bit form of FP32 multiplication into d. -/
  | fmul16 (i : Bool) (s : BitVec 5) (d : BitVec 5)
  /-- FMAX16 (R278). 16-bit form of FP32 maximum into d. -/
  | fmax16 (i : Bool) (s : BitVec 5) (d : BitVec 5)
  /-- FMIN16 (R278). 16-bit form of FP32 minimum into d. -/
  | fmin16 (i : Bool) (s : BitVec 5) (d : BitVec 5)
  /-- NOP (R409). 32-bit instruction with no effect. -/
  | nop (p : PReg)
  /-- YIELD (R409). Makes the thread not ready until its row has issued from another troupe, or for 64 cycles. -/
  | yield (p : PReg)
  /-- EXIT (R409). Waits for all flags and the acknowledgement counter to clear, raises any deferred trap that falls due, then ends the thread. -/
  | exit (p : PReg)
  /-- TRAP (R409). Raises SWTRAP with INFO equal to the code n. -/
  | trap (n : Reg) (p : PReg)
  /-- TRET_RETRY (R406). Leaves the handler and re-issues the faulting instruction. -/
  | tretRetry (p : PReg)
  /-- TRET_SKIP (R406). Leaves the handler and resumes after the faulting instruction. -/
  | tretSkip (p : PReg)
  /-- TRET_JMP (R406). Leaves the handler and resumes at the clause header whose address is in a register pair. -/
  | tretJmp (a : Reg) (p : PReg)
  /-- HALT (R411). Stops the thread for good, sets HALT_STAT and interrupts the control node. -/
  | halt (p : PReg)
  /-- SNAPC (R412). Latches the core counters into 256 bytes of scratch, retaking the latch until it is consistent. -/
  | snapc (a : Reg) (d : Reg) (p : PReg)
  /-- SREAD (R410). Reads a special register into d, or into a pair for a 64-bit register. -/
  | sread (a : Reg) (d : Reg) (p : PReg)
  /-- CRRD (R410). Reads a control register; supervisor only; counted on setA. -/
  | crrd (a : Reg) (d : Reg) (p : PReg)
  /-- CRWR (R410). Writes a control register from supervisor context, effective at the next clause boundary. -/
  | crwr (a : Reg) (d : Reg) (p : PReg)
  /-- SWEEP (R116). Sends a sweep to every core to clear matching last-page registers; its handle completes later. -/
  | sweep (b : Reg) (d : HReg) (p : PReg)
  /-- TLBI (R116). Sends a TLB invalidation to every core as one carousel transaction. -/
  | tlbi (b : Reg) (a : Reg) (p : PReg)
  /-- PGREQ (R112). Requests that a page be made resident, completing or allocating a page-request entry behind a handle. -/
  | pgreq (a : Reg) (d : HReg) (p : PReg)
  /-- PGQRY (R111). Writes a predicate telling whether a page is resident and loadable. -/
  | pgqry (a : Reg) (d : PReg) (p : PReg)
  /-- CCTL_L1EVICT (R237). Evicts the issuing core's L1 copy of a line with PUTM or PUTS. -/
  | cctlL1evict (a : Reg) (d : HReg) (p : PReg)
  /-- CCTL_L2CLEAN (R237). Has the home draw the owner's data and write a dirty line to the vault, keeping the tag. -/
  | cctlL2clean (a : Reg) (d : HReg) (p : PReg)
  /-- CCTL_L2EVICT (R237). Has the home invalidate the line, write it back and free the tag. -/
  | cctlL2evict (a : Reg) (d : HReg) (p : PReg)
  /-- CCTL_L1FLUSH (R237). Evicts every line of the issuing core's L1 held or pending at issue; supervisor only. -/
  | cctlL1flush (d : HReg) (p : PReg)
  /-- ADD (R280). d := wrap(a + b). -/
  | add (b : Reg) (a : Reg) (d : Reg) (p : PReg)
  /-- SUB (R280). d := wrap(a - b). -/
  | sub (b : Reg) (a : Reg) (d : Reg) (p : PReg)
  /-- MUL (R280). d := low 32 bits of a × b. -/
  | mul (b : Reg) (a : Reg) (d : Reg) (p : PReg)
  /-- MULH (R280). d := high 32 bits of the signed product. -/
  | mulh (b : Reg) (a : Reg) (d : Reg) (p : PReg)
  /-- MULHN (R280). d := high 32 bits of the unsigned product. -/
  | mulhn (b : Reg) (a : Reg) (d : Reg) (p : PReg)
  /-- AND (R280). d := a and b. -/
  | and (b : Reg) (a : Reg) (d : Reg) (p : PReg)
  /-- OR (R280). d := a or b. -/
  | or (b : Reg) (a : Reg) (d : Reg) (p : PReg)
  /-- XOR (R280). d := a xor b. -/
  | xor (b : Reg) (a : Reg) (d : Reg) (p : PReg)
  /-- ANDN (R280). d := a and not b. -/
  | andn (b : Reg) (a : Reg) (d : Reg) (p : PReg)
  /-- SHL (R281). Shifts a left by b, giving 0 for counts of 32 or more. -/
  | shl (b : Reg) (a : Reg) (d : Reg) (p : PReg)
  /-- SHR (R281). Logical shift of a right by b. -/
  | shr (b : Reg) (a : Reg) (d : Reg) (p : PReg)
  /-- SAR (R281). Arithmetic shift of a right by b. -/
  | sar (b : Reg) (a : Reg) (d : Reg) (p : PReg)
  /-- ROT (R280). Rotates a left by b mod 32. -/
  | rot (b : Reg) (a : Reg) (d : Reg) (p : PReg)
  /-- MIN (R280). Signed minimum of a and b. -/
  | min (b : Reg) (a : Reg) (d : Reg) (p : PReg)
  /-- MAX (R280). Signed maximum of a and b. -/
  | max (b : Reg) (a : Reg) (d : Reg) (p : PReg)
  /-- MINN (R280). Unsigned minimum of a and b. -/
  | minn (b : Reg) (a : Reg) (d : Reg) (p : PReg)
  /-- MAXN (R282). Unsigned maximum of a and b. -/
  | maxn (b : Reg) (a : Reg) (d : Reg) (p : PReg)
  /-- ABS (R282). Wrapped absolute value of a. -/
  | abs (a : Reg) (d : Reg) (p : PReg)
  /-- NEG (R282). d := wrap(0 - a). -/
  | neg (a : Reg) (d : Reg) (p : PReg)
  /-- CLZ (R282). Counts the leading zero bits of a. -/
  | clz (a : Reg) (d : Reg) (p : PReg)
  /-- POPC (R282). Counts the set bits of a. -/
  | popc (a : Reg) (d : Reg) (p : PReg)
  /-- BREV (R282). Reverses the bits of a. -/
  | brev (a : Reg) (d : Reg) (p : PReg)
  /-- DIV (R283). Signed division truncating towards zero, with fixed results for division by zero and overflow; counted on setA. -/
  | div (b : Reg) (a : Reg) (d : Reg) (p : PReg)
  /-- REM (R283). Signed remainder with the sign of a; counted on setA. -/
  | rem (b : Reg) (a : Reg) (d : Reg) (p : PReg)
  /-- DIVN (R283). Unsigned division; counted on setA. -/
  | divn (b : Reg) (a : Reg) (d : Reg) (p : PReg)
  /-- REMN (R283). Unsigned remainder; counted on setA. -/
  | remn (b : Reg) (a : Reg) (d : Reg) (p : PReg)
  /-- SEL (R284). Writes a where the selector predicate is true and b elsewhere; always executes. -/
  | sel (b : Reg) (a : Reg) (d : Reg) (q : PReg)
  /-- MOV (R282). 32-bit form d := a. -/
  | mov (a : Reg) (d : Reg) (p : PReg)
  /-- LEA (R285). Computes the 64-bit address pair a + sext(b). -/
  | lea (b : Reg) (a : Reg) (d : Reg) (p : PReg)
  /-- MAD (R286). d := wrap(a × b + d). -/
  | mad (b : Reg) (a : Reg) (d : Reg) (p : PReg)
  /-- BFE (R287). Extracts the bit field of a that b describes, with optional sign extension. -/
  | bfe (b : Reg) (a : Reg) (d : Reg) (p : PReg)
  /-- BFI (R287). Inserts the low bits of a into the field of d that b describes. -/
  | bfi (b : Reg) (a : Reg) (d : Reg) (p : PReg)
  /-- CMP (R290). Signed compare of a and b into a predicate. -/
  | cmp (b : Reg) (a : Reg) (d : PReg) (c : Cond) (p : PReg)
  /-- CMPN (R290). Unsigned compare of a and b into a predicate. -/
  | cmpn (b : Reg) (a : Reg) (d : PReg) (c : Cond) (p : PReg)
  /-- FCMP (R291). FP32 compare of a and b into a predicate, with the stated treatment of unordered pairs. -/
  | fcmp (b : Reg) (a : Reg) (d : PReg) (c : FCond) (p : PReg)
  /-- ADDI (R288). d := wrap(a + imm). -/
  | addi (i : BitVec 10) (a : Reg) (d : Reg) (p : PReg)
  /-- ANDI (R288). d := a and imm. -/
  | andi (i : BitVec 10) (a : Reg) (d : Reg) (p : PReg)
  /-- ORI (R288). d := a or imm. -/
  | ori (i : BitVec 10) (a : Reg) (d : Reg) (p : PReg)
  /-- XORI (R288). d := a xor imm. -/
  | xori (i : BitVec 10) (a : Reg) (d : Reg) (p : PReg)
  /-- SHLI (R288). Shifts a left by an immediate from 0 to 31. -/
  | shli (i : BitVec 10) (a : Reg) (d : Reg) (p : PReg)
  /-- SHRI (R288). Logical shift right by an immediate. -/
  | shri (i : BitVec 10) (a : Reg) (d : Reg) (p : PReg)
  /-- SARI (R288). Arithmetic shift right by an immediate. -/
  | sari (i : BitVec 10) (a : Reg) (d : Reg) (p : PReg)
  /-- MOVI (R288). d := imm; field a must be zero. -/
  | movi (i : BitVec 10) (d : Reg) (p : PReg)
  /-- CMPI (R289). Compares a with an immediate into the predicate named by d[2:0], under the condition in d[5:3]. -/
  | cmpi (i : BitVec 10) (a : Reg) (c : ICond) (t : PReg) (p : PReg)
  /-- PAND (R292). p[d] := p[a] and p[b]. -/
  | pand (b : PReg) (a : PReg) (d : PReg) (p : PReg)
  /-- POR (R292). p[d] := p[a] or p[b]. -/
  | por (b : PReg) (a : PReg) (d : PReg) (p : PReg)
  /-- PXOR (R292). p[d] := p[a] xor p[b]. -/
  | pxor (b : PReg) (a : PReg) (d : PReg) (p : PReg)
  /-- PNOT (R292). p[d] := not p[a]. -/
  | pnot (a : PReg) (d : PReg) (p : PReg)
  /-- PMOV (R292). p[d] := p[a]. -/
  | pmov (a : PReg) (d : PReg) (p : PReg)
  /-- P2G (R292). Packs the predicates into a general register. -/
  | p2g (d : Reg) (p : PReg)
  /-- G2P (R292). Writes p0 to p6 from g[a], where g[b] sets the bit. -/
  | g2p (b : Reg) (a : Reg) (p : PReg)
  /-- MAND (R292). m[d] := m[a] and g[b][7:0]. -/
  | mand (b : Reg) (a : PReg) (d : PReg) (p : PReg)
  /-- MOR (R292). m[d] := m[a] or g[b][7:0]. -/
  | mor (b : Reg) (a : PReg) (d : PReg) (p : PReg)
  /-- MPOP (R292). g[d] := m[a] × 256 + popcount(m[a]). -/
  | mpop (a : PReg) (d : Reg) (p : PReg)
  /-- MTST (R292). p[d] := bit n of m[a]. -/
  | mtst (n : PReg) (a : PReg) (d : PReg) (p : PReg)
  /-- U_ADD (R294). Uniform ADD on s registers, once per troupe. -/
  | uAdd (b : Reg) (a : Reg) (d : Reg) (p : PReg)
  /-- U_SUB (R294). Uniform SUB. -/
  | uSub (b : Reg) (a : Reg) (d : Reg) (p : PReg)
  /-- U_MUL (R294). Uniform MUL. -/
  | uMul (b : Reg) (a : Reg) (d : Reg) (p : PReg)
  /-- U_MULH (R294). Uniform MULH. -/
  | uMulh (b : Reg) (a : Reg) (d : Reg) (p : PReg)
  /-- U_MULHN (R294). Uniform MULHN. -/
  | uMulhn (b : Reg) (a : Reg) (d : Reg) (p : PReg)
  /-- U_AND (R294). Uniform AND. -/
  | uAnd (b : Reg) (a : Reg) (d : Reg) (p : PReg)
  /-- U_OR (R294). Uniform OR. -/
  | uOr (b : Reg) (a : Reg) (d : Reg) (p : PReg)
  /-- U_XOR (R294). Uniform XOR. -/
  | uXor (b : Reg) (a : Reg) (d : Reg) (p : PReg)
  /-- U_ANDN (R294). Uniform ANDN. -/
  | uAndn (b : Reg) (a : Reg) (d : Reg) (p : PReg)
  /-- U_SHL (R294). Uniform SHL. -/
  | uShl (b : Reg) (a : Reg) (d : Reg) (p : PReg)
  /-- U_SHR (R294). Uniform SHR. -/
  | uShr (b : Reg) (a : Reg) (d : Reg) (p : PReg)
  /-- U_SAR (R294). Uniform SAR. -/
  | uSar (b : Reg) (a : Reg) (d : Reg) (p : PReg)
  /-- U_ROT (R294). Uniform ROT. -/
  | uRot (b : Reg) (a : Reg) (d : Reg) (p : PReg)
  /-- U_MIN (R294). Uniform MIN. -/
  | uMin (b : Reg) (a : Reg) (d : Reg) (p : PReg)
  /-- U_MAX (R294). Uniform MAX. -/
  | uMax (b : Reg) (a : Reg) (d : Reg) (p : PReg)
  /-- U_MINN (R294). Uniform MINN. -/
  | uMinn (b : Reg) (a : Reg) (d : Reg) (p : PReg)
  /-- U_MAXN (R294). Uniform MAXN. -/
  | uMaxn (b : Reg) (a : Reg) (d : Reg) (p : PReg)
  /-- U_ABS (R294). Uniform ABS. -/
  | uAbs (a : Reg) (d : Reg) (p : PReg)
  /-- U_NEG (R294). Uniform NEG. -/
  | uNeg (a : Reg) (d : Reg) (p : PReg)
  /-- U_CLZ (R294). Uniform CLZ. -/
  | uClz (a : Reg) (d : Reg) (p : PReg)
  /-- U_POPC (R294). Uniform POPC. -/
  | uPopc (a : Reg) (d : Reg) (p : PReg)
  /-- U_BREV (R294). Uniform BREV. -/
  | uBrev (a : Reg) (d : Reg) (p : PReg)
  /-- USEL (R295). Uniform SEL, once per troupe, with the selector taken from the member in the lowest thread slot. -/
  | usel (b : Reg) (a : Reg) (d : Reg) (q : PReg)
  /-- U_MOV (R294). s[d] := s[a]. -/
  | uMov (a : Reg) (d : Reg) (p : PReg)
  /-- U_LEA (R294). Uniform LEA on s pairs. -/
  | uLea (b : Reg) (a : Reg) (d : Reg) (p : PReg)
  /-- S2G (R294). Per thread, g[d] := s[a]. -/
  | s2g (a : Reg) (d : Reg) (p : PReg)
  /-- G2S (R294). Per thread, s[d] := g[a], one written value remaining. -/
  | g2s (a : Reg) (d : Reg) (p : PReg)
  /-- FADD (R300). FP32 a + b, rounded RNE. -/
  | fadd (b : Reg) (a : Reg) (d : Reg) (p : PReg)
  /-- FSUB (R300). FP32 a - b. -/
  | fsub (b : Reg) (a : Reg) (d : Reg) (p : PReg)
  /-- FMUL (R300). FP32 a × b. -/
  | fmul (b : Reg) (a : Reg) (d : Reg) (p : PReg)
  /-- FMIN (R300). FP32 minimum, with -0 below +0. -/
  | fmin (b : Reg) (a : Reg) (d : Reg) (p : PReg)
  /-- FMAX (R300). FP32 maximum, with -0 below +0. -/
  | fmax (b : Reg) (a : Reg) (d : Reg) (p : PReg)
  /-- FABS (R300). Clears the sign bit of a. -/
  | fabs (a : Reg) (d : Reg) (p : PReg)
  /-- FNEG (R300). Inverts the sign bit of a. -/
  | fneg (a : Reg) (d : Reg) (p : PReg)
  /-- FDIV (R300). FP32 a / b, correctly rounded; counted on setA. -/
  | fdiv (b : Reg) (a : Reg) (d : Reg) (p : PReg)
  /-- FSQRT (R301). Correctly rounded square root; counted on setA. -/
  | fsqrt (a : Reg) (d : Reg) (p : PReg)
  /-- FRCP (R301). Correctly rounded reciprocal; counted on setA. -/
  | frcp (a : Reg) (d : Reg) (p : PReg)
  /-- FRSQ (R301). Correctly rounded reciprocal square root; counted on setA. -/
  | frsq (a : Reg) (d : Reg) (p : PReg)
  /-- FEXP2 (R301). Correctly rounded 2^x; counted on setA. -/
  | fexp2 (a : Reg) (d : Reg) (p : PReg)
  /-- FLOG2 (R301). Correctly rounded log2 x; counted on setA. -/
  | flog2 (a : Reg) (d : Reg) (p : PReg)
  /-- FSIN (R301). Correctly rounded sin x; counted on setA. -/
  | fsin (a : Reg) (d : Reg) (p : PReg)
  /-- FCOS (R301). Correctly rounded cos x; counted on setA. -/
  | fcos (a : Reg) (d : Reg) (p : PReg)
  /-- FTANH (R301). Correctly rounded tanh x; counted on setA. -/
  | ftanh (a : Reg) (d : Reg) (p : PReg)
  /-- FFMA (R299). d := a × b + d with one rounding. -/
  | ffma (b : Reg) (a : Reg) (d : Reg) (p : PReg)
  /-- FFLR (R302). Rounds a to an integral value towards -∞. -/
  | fflr (a : Reg) (d : Reg) (p : PReg)
  /-- FCEIL (R302). Rounds a to an integral value towards +∞. -/
  | fceil (a : Reg) (d : Reg) (p : PReg)
  /-- FRND (R302). Rounds a to the nearest integral value, ties to even. -/
  | frnd (a : Reg) (d : Reg) (p : PReg)
  /-- FTRC (R302). Truncates a towards zero. -/
  | ftrc (a : Reg) (d : Reg) (p : PReg)
  /-- RAND_SEED (R303). Returns the generator G and sets it from a. -/
  | randSeed (a : Reg) (d : Reg) (p : PReg)
  /-- RAND_DRAW (R303). Advances G by one draw and returns the new value. -/
  | randDraw (d : Reg) (p : PReg)
  /-- CVT (R305). Converts between types with the given rounding and saturation, drawing from G in SR mode. -/
  | cvt (z : Bool) (r : Rounding) (t : CvtType) (u : CvtType) (a : Reg) (d : Reg) (p : PReg)
  /-- HADD2 (R306). Packed FP16 addition. -/
  | hadd2 (b : Reg) (a : Reg) (d : Reg) (p : PReg)
  /-- HMUL2 (R306). Packed FP16 multiplication. -/
  | hmul2 (b : Reg) (a : Reg) (d : Reg) (p : PReg)
  /-- HFMA2 (R306). Packed FP16 fused multiply-add. -/
  | hfma2 (b : Reg) (a : Reg) (d : Reg) (p : PReg)
  /-- HMAX2 (R306). Packed FP16 maximum. -/
  | hmax2 (b : Reg) (a : Reg) (d : Reg) (p : PReg)
  /-- HMIN2 (R306). Packed FP16 minimum. -/
  | hmin2 (b : Reg) (a : Reg) (d : Reg) (p : PReg)
  /-- BADD2 (R306). Packed BF16 addition. -/
  | badd2 (b : Reg) (a : Reg) (d : Reg) (p : PReg)
  /-- BMUL2 (R306). Packed BF16 multiplication. -/
  | bmul2 (b : Reg) (a : Reg) (d : Reg) (p : PReg)
  /-- BFMA2 (R306). Packed BF16 fused multiply-add. -/
  | bfma2 (b : Reg) (a : Reg) (d : Reg) (p : PReg)
  /-- QMAX (R308). Running absolute maximum of d, |a| and |b|. -/
  | qmax (b : Reg) (a : Reg) (d : Reg) (p : PReg)
  /-- QSCL (R309). Chooses a scale byte for a block from its absolute maximum and a target selector. -/
  | qscl (b : Reg) (a : Reg) (d : Reg) (p : PReg)
  /-- QPACK (R310). Encodes eight FP32 values into RB4 codes with a scale byte. -/
  | qpack (b : Reg) (a : Reg) (d : Reg) (p : PReg)
  /-- QUNPK (R311). Decodes eight RB4 codes into FP32 registers. -/
  | qunpk (b : Reg) (a : Reg) (d : Reg) (p : PReg)
  /-- IDP4 (R312). Adds a four-way signed-byte dot product to d. -/
  | idp4 (b : Reg) (a : Reg) (d : Reg) (p : PReg)
  /-- BRA (R353). Branches to the clause header + 4 × off22 where the predicate holds. -/
  | bra (o : BitVec 22) (p : PReg)
  /-- BRA_U (R354). Branch that declares a uniform predicate; divergence splits the troupe, counts, and may raise DIV_HINT. -/
  | braU (o : BitVec 22) (p : PReg)
  /-- CALL (R353). Writes clause_end to a pair and branches by off16. -/
  | call (o : BitVec 16) (d : Reg) (p : PReg)
  /-- JMPR (R353). Jumps to the address in a register pair. -/
  | jmpr (a : Reg) (p : PReg)
  /-- CALLR (R353). Calls the address in a register pair, writing the return address. -/
  | callr (a : Reg) (d : Reg) (p : PReg)
  /-- RET (R353). Returns to the address in a register pair. -/
  | ret (a : Reg) (p : PReg)
  /-- MEET (R356). Sets the meeting register to an address. -/
  | meet (a : Reg) (p : PReg)
  /-- MEET_CLR (R356). Empties the meeting register. -/
  | meetClr (p : PReg)
  /-- LD_P (R217). Loads from the private slice. -/
  | ldP (o : MOrd) (f : Fmt) (b : Reg) (d : Reg) (p : PReg)
  /-- LD_S (R217). Loads from core scratchpad. -/
  | ldS (o : MOrd) (f : Fmt) (b : Reg) (d : Reg) (p : PReg)
  /-- LD_C (R217). Loads from a cluster window. -/
  | ldC (o : MOrd) (f : Fmt) (b : Reg) (d : Reg) (p : PReg)
  /-- LD_W (R217). Loads from wafer scratchpad. -/
  | ldW (o : MOrd) (f : Fmt) (b : Reg) (d : Reg) (p : PReg)
  /-- LD_G (R217). Loads from global memory through translation, optionally non-faulting with an m7 shift. -/
  | ldG (o : MOrd) (l : Pol) (f : Fmt) (b : Reg) (d : Reg) (n : Bool) (p : PReg)
  /-- ST_P (R218). Stores to the private slice. -/
  | stP (o : MOrd) (f : Fmt) (b : Reg) (d : Reg) (p : PReg)
  /-- ST_S (R218). Stores to core scratchpad. -/
  | stS (o : MOrd) (f : Fmt) (b : Reg) (d : Reg) (p : PReg)
  /-- ST_C (R218). Stores to a cluster window. -/
  | stC (o : MOrd) (f : Fmt) (b : Reg) (d : Reg) (p : PReg)
  /-- ST_W (R218). Stores to wafer scratchpad. -/
  | stW (o : MOrd) (f : Fmt) (b : Reg) (d : Reg) (p : PReg)
  /-- ST_G (R218). Stores to global memory at the place its pol selects. -/
  | stG (o : MOrd) (l : Pol) (f : Fmt) (b : Reg) (d : Reg) (p : PReg)
  /-- LDB (R224). Reads core scratchpad through a buffer entry, waiting while the entry fills. -/
  | ldb (e : Reg) (a : Reg) (d : Reg) (f : Fmt) (p : PReg)
  /-- ATOM (R230). Indivisible read-modify-write that returns the old value. -/
  | atom (b : Reg) (d : Reg) (o : MOrd) (s : Space) (c : AtomOp) (p : PReg)
  /-- RED (R230). Indivisible read-modify-write that returns nothing. -/
  | red (b : Reg) (d : Reg) (o : MOrd) (s : Space) (c : AtomOp) (p : PReg)
  /-- FENCE (R232). Holds the thread's later memory instructions until the conditions of its kind and scope are met. -/
  | fence (s : Scope) (k : FenceKind) (p : PReg)
  /-- PREF (R235). Prefetches a line into L1 or L2 without any event or trap. -/
  | pref (a : Reg) (t : PrefTarget) (p : PReg)
  /-- TSLD (R250). Loads and checks a 64-byte shape record into a slot. -/
  | tsld (b : BitVec 5) (a : Reg) (q : Space) (p : PReg)
  /-- TSEV (R250). Empties a shape slot. -/
  | tsev (b : BitVec 5) (p : PReg)
  /-- TSQ (R250). Reads a record word or the status of a shape slot. -/
  | tsq (b : BitVec 5) (a : Reg) (h : HReg) (q : Bool) (p : PReg)
  /-- CPY (R259). Issues a linear copy job between spaces. -/
  | cpy (a : Reg) (h : HReg) (s : Scope) (p : PReg)
  /-- CPYT (R260). Issues a job that reads a dense tensor box into a buffer entry's region. -/
  | cpyt (b : Reg) (a : Reg) (h : HReg) (s : Scope) (p : PReg)
  /-- CPYS (R260). Issues a job that expands a sparse tile into a buffer entry's region. -/
  | cpys (b : Reg) (a : Reg) (h : HReg) (s : Scope) (p : PReg)
  /-- CPYO (R262). Issues a job that writes a box from a buffer entry out to a tensor. -/
  | cpyo (b : Reg) (a : Reg) (h : HReg) (s : Scope) (p : PReg)
  /-- CPYR (R261). Issues a job that reads a box and combines it into an entry's region. -/
  | cpyr (b : Reg) (a : Reg) (h : HReg) (s : Scope) (p : PReg)
  /-- JOB (R264). Reads a 128-byte job card and issues its COPY, REDUCE, FILL or ARM job. -/
  | job (a : Reg) (h : HReg) (s : Scope) (p : PReg)
  /-- WAITH (R267). Waits for a handle's job to complete, then returns its status or raises its fault. -/
  | waith (a : Reg) (h : HReg) (p : PReg)
  /-- TESTH (R267). Tests a handle's status against a condition without waiting. -/
  | testh (b : PReg) (h : HReg) (c : HCond) (p : PReg)
  /-- MOVH (R268). Copies a handle token between handle registers. -/
  | movh (a : HReg) (h : HReg) (p : PReg)
  /-- CANCEL (R268). Stops a pending copy or card job at its next piece. -/
  | cancel (h : HReg) (p : PReg)
  /-- HSAVE (R268). Stores a handle token with the workgroup's context tag. -/
  | hsave (a : Reg) (h : HReg) (s : Space) (p : PReg)
  /-- HREST (R268). Loads a handle token, checking the context tag. -/
  | hrest (a : Reg) (h : HReg) (s : Space) (p : PReg)
  /-- BUFQ (R252). Reads a buffer entry's state, ownership and extent. -/
  | bufq (b : Reg) (a : Reg) (p : PReg)
  /-- BUFREL (R251). Releases a full buffer entry, or marks a draining one release-pending. -/
  | bufrel (b : Reg) (p : PReg)
  /-- BARINIT (R364). Initialises a barrier object if INIT is 0 or FORCE is set. -/
  | barinit (b : Reg) (a : Reg) (p : PReg)
  /-- BARARV (R364). Returns the phase, counts an arrival and applies the completion test. -/
  | bararv (a : Reg) (d : Reg) (p : PReg)
  /-- BAREXP (R364). Adds expected bytes to PEND. -/
  | barexp (b : Reg) (a : Reg) (p : PReg)
  /-- BARWAIT (R366). Waits until the phase named by the token has completed. -/
  | barwait (b : Reg) (a : Reg) (p : PReg)
  /-- BARTEST (R366). Tests without blocking whether the token's phase has completed. -/
  | bartest (b : Reg) (a : Reg) (d : PReg) (p : PReg)
  /-- BARDROP (R364). Lowers EXP by one and applies the completion test. -/
  | bardrop (a : Reg) (p : PReg)
  /-- SSTEP (R369). Advances the superstep count and waits for the grid or its neighbours to reach the phase. -/
  | sstep (d : Reg) (p : PReg)
  /-- RDV (R371). Posts a value and waits for the partner's RDV, exchanging values. -/
  | rdv (b : Reg) (a : Reg) (d : Reg) (p : PReg)
  /-- LAUNCH (R372). Appends a launch record to the binding's device launch queue, or returns 1. -/
  | launch (a : Reg) (d : Reg) (p : PReg)
  /-- MRSV (R318). Takes the core's matrix engine for the workgroup if it is free and cleared. -/
  | mrsv (d : PReg) (p : PReg)
  /-- MREL (R319). Releases the engine once its accepted items are performed and the tiles are cleared. -/
  | mrel (p : PReg)
  /-- MZERO (R320). Queues an item that writes +0 to a band or a whole tile. -/
  | mzero (w : Bool) (n : PReg) (d : HReg) (p : PReg)
  /-- MSTAT (R330). Reads engine state or a workgroup matrix counter. -/
  | mstat (n : Reg) (d : Reg) (p : PReg)
  /-- MMA_H_BF16 (R324). Checks and accepts a BF16 multiply of an 8-row A strip by a B tile into a band, joining a pass. -/
  | mmaHBf16 (b : Reg) (a : Reg) (n : PReg) (c : HReg) (p : PReg)
  /-- MMA_H_F16 (R324). FP16 form of the matrix multiply. -/
  | mmaHF16 (b : Reg) (a : Reg) (n : PReg) (c : HReg) (p : PReg)
  /-- MMA_Q_E4M3 (R324). Scaled E4M3 form of the matrix multiply. -/
  | mmaQE4m3 (b : Reg) (a : Reg) (s : Bool) (n : PReg) (c : HReg) (p : PReg)
  /-- MMA_Q_E5M2 (R324). Scaled E5M2 form of the matrix multiply. -/
  | mmaQE5m2 (b : Reg) (a : Reg) (s : Bool) (n : PReg) (c : HReg) (p : PReg)
  /-- MMA_N_RB4 (R324). RB4 form of the matrix multiply, with K of 192. -/
  | mmaNRb4 (b : Reg) (a : Reg) (n : PReg) (c : HReg) (p : PReg)
  /-- MMA_N_I8 (R324). Scaled INT8 form of the matrix multiply. -/
  | mmaNI8 (b : Reg) (a : Reg) (s : Bool) (n : PReg) (c : HReg) (p : PReg)
  /-- MLD (R329). Queues an item that loads FP32 values from scratchpad into a band. -/
  | mld (a : Reg) (n : PReg) (c : HReg) (p : PReg)
  /-- MST (R329). Queues an item that stores a band, converted to a chosen format. -/
  | mst (a : Reg) (s : MstFmt) (n : PReg) (c : HReg) (p : PReg)
  /-- COUNTED_OPERATION_COMPLETION (R45). A counted operation writes its last result or is ended by a trap, and its flag decrements, releasing waiting clauses. -/
  | countedOperationCompletion (core slot index : Nat)
  /-- AGE_RULE_WIN (R350). An instruction that has been ready for more than 4,096 cycles wins its row and counts in AGE_WINS. -/
  | ageRuleWin (core slot : Nat)
  /-- LANE_FAILURE (R22). The lane checker detects an in-service lane error. -/
  | laneFailure (core row lane : Nat)
  /-- LANE_REMAP (R22). At the row's next clause boundary, the failed lane maps onto its spare and the lane-remap generation increments. -/
  | laneRemap (core row : Nat)
  /-- PATROL_SCRUB (R79). A patrol-scrub pass reads every line of a vault once every 4 s. -/
  | patrolScrub (vault : Nat) (corrected : List (Nat × Nat)) (lost : List Nat)
  /-- VAULT_REMAP_GO (R81). A write of 1 starts a remap step, or is rejected with GO_REJ. -/
  | vaultRemapGo (vault : Nat) (value : Word)
  /-- REMAP_STEP_COMPLETION (R81). The remap step finishes moving lines, updates the map, capacity and GEN, sets REMAP_DONE and sends message 2. -/
  | remapStepCompletion (vault : Nat)
  /-- HELD_REQUEST_RELEASE (R82). A request held during a remap step is performed under the new map. -/
  | heldRequestRelease (vault : Nat)
  /-- VAULT_TEMP_SAMPLE (R86). Every 10 µs the vault samples its temperature and sets its refresh multiplier with hysteresis. -/
  | vaultTempSample (vault : Nat) (layers : List Int)
  /-- VAULT_FLOOR (R92). A write sets the minimum data share, unless the written field exceeds 100. -/
  | vaultFloor (value : Word)
  /-- PRQ_RECORD_WRITE (R113). A waiting page-request entry takes an identifier and writes its 32-byte record into the queue, advancing PRQ_HEAD. -/
  | prqRecordWrite (core entry : Nat)
  /-- PRQ_RESP_DONE (R113). The control node answers a request DONE, completing the entry's handles. -/
  | prqRespDone (request : BitVec 16)
  /-- PRQ_RESP_DENIED (R113). The control node answers a request DENIED, completing the entry's handles. -/
  | prqRespDenied (request : BitVec 16)
  /-- PAGE_REQUEST_ENGINE (R114). The hardware engine walks afresh and completes, installs a backing page, or forwards the entry. -/
  | pageRequestEngine (core entry : Nat)
  /-- SWEEP_COMPLETION (R116). A sweep handle completes once registers are cleared and every affected access is performed and acknowledged. -/
  | sweepCompletion (sweep : Nat)
  /-- XINV_GO (R120). A host write of GO starts an invalidation, with a sweep if SWP is set, or sets REJ while busy. -/
  | xinvGo (value : Word)
  /-- XINV_DONE (R120). The host invalidation completes, clearing BUSY and setting DONE. -/
  | xinvDone
  /-- CAROUSEL_SLOT (R125). In each 4 ns slot, every snoop agent writes up to eight queued records per carousel in its wavelength group. -/
  | carouselSlot
  /-- GETS (R127). A GETS record is applied at its visibility slot by the home and the snoop agents. -/
  | gets (carousel : Nat)
  /-- GETM (R127). A GETM record is applied: it supplies, raises GEN, and sets the owner. -/
  | getm (carousel : Nat)
  /-- UPG (R127). An UPG record is applied, or acts as GETM if stale. -/
  | upg (carousel : Nat)
  /-- PUTM (R127). A PUTM record is applied: it lowers the holder count if current. -/
  | putm (carousel : Nat)
  /-- PUTS (R127). A PUTS record is applied: it lowers the holder count if current. -/
  | puts (carousel : Nat)
  /-- BYPR (R127). A bypass read is performed at the home after any owner supply. -/
  | bypr (carousel : Nat)
  /-- BYPW (R127). A bypass write is performed at the home, invalidating every L1 copy. -/
  | bypw (carousel : Nat)
  /-- INV (R130). An INV record takes every L1 copy to I for a home eviction. -/
  | inv (carousel : Nat)
  /-- TLBI_RECORD (R116). Each core applies a TLBI transaction at its visibility slot. -/
  | tlbiRecord
  /-- SWEEP_RECORD (R116). Each core applies a SWEEP transaction, clearing matching lane registers. -/
  | sweepRecord
  /-- BADREC (R122). A record with KIND 10 to 15 is discarded and sets CO_STAT.BADREC. -/
  | badrec (cluster : Nat) (kind : BitVec 4)
  /-- WINDOW_DATA (R135). A window-data frame is applied at its visibility slot to every mirror. -/
  | windowData (carousel : Nat)
  /-- SUPPLY_ARRIVAL (R128). A supplied line arrives over the mesh, pending accesses are performed, and held records are served. -/
  | supplyArrival (message : Nat)
  /-- OWNER_NOTICE (R127). An owner's retained or released notice reaches the home, which releases requests it held. -/
  | ownerNotice (message : Nat)
  /-- WRITEBACK_ARRIVAL (R129). Write-back data reaches the home, which clears the owner flag and serves held records. -/
  | writebackArrival (message : Nat)
  /-- L2_FILL (R140). A line's full content enters a tag and is hallmarked, assayed and shared or given a new entry. -/
  | l2Fill (line : Nat)
  /-- DEDUP_CLR (R147). A write of 1 clears DEDUP_COLL and DEDUP_SAT. -/
  | dedupClr (slice : Nat) (value : Word)
  /-- HD_KEY3 (R148). A write commits the selected domain's key to every slice, removing that domain's index entries. -/
  | hdKey3 (value : Word)
  /-- REMOTE_REQUEST (R167). An access from another module reaches the home and is applied in per-line sequence, then acknowledged. -/
  | remoteRequest (request : RemoteReq)
  /-- REMOTE_ACK (R165). A remote acknowledgement or load value returns, decrementing the counter or completing the load. -/
  | remoteAck (access : Nat) (value : List Byte)
  /-- REMOTE_TIMEOUT (R166). An acknowledgement or remote value not returned within FAB_TMO raises a deferred REMOTE_TIMEOUT. -/
  | remoteTimeout (access : Nat)
  /-- COPY_ENGINE_CYCLE (R241). The copy engine moves up to 128 bytes of its jobs' pieces in a cycle. -/
  | copyEngineCycle (core : Nat)
  /-- JOB_COMPLETION (R243). A job completes with its final status, settling counts and buffer-entry transitions. -/
  | jobCompletion (core entry : Nat)
  /-- BARRIER_BYTE_COUNT (R365). A counted byte subtracts from PEND, clamping with OVF, then the completion test runs. -/
  | barrierByteCount (core entry count : Nat)
  /-- JOB_DRAIN_TIMEOUT (R270). 3,200 cycles after a pre-emption begins, the group's unfinished jobs are recorded with their progress. -/
  | jobDrainTimeout (group : Nat)
  /-- PASS_CLOSE_TIMEOUT (R326). A forming pass closes 32 cycles after opening and joins the queue. -/
  | passCloseTimeout (core : Nat)
  /-- TILE_FETCH_STAGED (R327). The tile fetch unit finishes staging a pass's operands, pinning lines; operand reads take their place. -/
  | tileFetchStaged (core : Nat)
  /-- PASS_START_TEST (R334). A ready pass is tested every 8 cycles against droop, current limit and heat tokens, charging bubbles. -/
  | passStartTest (core : Nat)
  /-- PASS_COMPLETION (R324). A pass writes its members' rows, decrements their setB flags and releases pins. -/
  | passCompletion (core : Nat)
  /-- ENGINE_ITEM_COMPLETION (R316). An MZERO, MLD or MST item finishes its step, decrementing setB where counted. -/
  | engineItemCompletion (core : Nat)
  /-- ENGINE_CLEAR_COMPLETE (R319). After a release, the engine finishes writing +0 to its 16 tiles and becomes free. -/
  | engineClearComplete (core : Nat)
  /-- HEAT_REFILL (R331). At every 100 ns boundary each column adds HEAT_RATE tokens, up to HEAT_CAP. -/
  | heatRefill
  /-- CURRENT_LIMIT_STEP (R332). A 200 ns step boundary rolls over each region's pass-start count. -/
  | currentLimitStep
  /-- CURLIM_STEP (R336). A write sets RISE, and a write of 0 is discarded. -/
  | curlimStep (region : Nat) (value : Word)
  /-- DROOP_ALARM (R333). A region's supply monitor raises an alarm, imposing the 192-cycle pass spacing for 2 µs. -/
  | droopAlarm (region : Nat)
  /-- DROOP_EXPIRY (R333). The droop hold ends 2 µs after the last alarm. -/
  | droopExpiry (region : Nat)
  /-- MEET_HOLD_RELEASE (R357). A hold group is released when no thread of the workgroup outside it holds M. -/
  | meetHoldRelease (workgroup : Nat) (address : DWord)
  /-- MHOLD_EXPIRY (R357). A hold group is released when MHOLD cycles have passed, counting in MEET_EXPIRE. -/
  | mholdExpiry (workgroup : Nat) (address : DWord)
  /-- PHASE_EXCHANGE (R368). Cores exchange workgroup phases over mesh channel 3, releasing waiting SSTEPs. -/
  | phaseExchange (workgroup : Nat)
  /-- THR_CLR (R373). A write of 1 clears the core's four thread counters. -/
  | thrClr (core : Nat) (value : Word)
  /-- LAUNCH_RECORD_TAKE (R381). The launch unit takes a record from an enabled queue, checks it, and accepts or refuses it. -/
  | launchRecordTake (queue : Nat)
  /-- WORKGROUP_PLACEMENT (R388). A ready workgroup is tried on the cores of its allowed set under residency and vault checks. -/
  | workgroupPlacement (launch : Nat)
  /-- WORKGROUP_START (R389). At the core's stagger time, a placed workgroup starts with the initial context of R383. -/
  | workgroupStart (workgroup : Nat)
  /-- CONTEXT_SAVE_COMPLETE (R414). A pre-empted group's image is written to the save pool and its core resources are freed. -/
  | contextSaveComplete (group : Nat)
  /-- GROUP_RESUME (R416). A saved group is restored on allowed cores, with %migr incremented. -/
  | groupResume (group : Nat)
  /-- WORKGROUP_EXIT (R272). When all its threads have exited and its jobs have completed, a workgroup releases its scratch, slots, entries and engine. -/
  | workgroupExit (workgroup : Nat)
  /-- LAUNCH_END (R397). The launch unit writes the completion record, STATUS last, and notifies if asked. -/
  | launchEnd (launch : Nat)
  /-- BACKOFF_EXPIRY (R407). A containment retry's backoff wait ends and the instruction is retried. -/
  | backoffExpiry (core slot : Nat)
  /-- WATCHDOG (R413). A thread blocked for WDOG_LIM µs raises WATCHDOG. -/
  | watchdog (core slot : Nat)
  /-- LIFETIME_RECORD (R418). Every LIFE_PERIOD hours or at orderly shutdown, the module starts writing a lifetime record to flash. -/
  | lifetimeRecord (shutdown : Bool)
  /-- LIFETIME_RECORD_COMPLETE (R418). The lifetime record write ends, sending message 13 or setting WERR. -/
  | lifetimeRecordComplete (written : Bool)
  /-- BEACON (R420). A field receives the Ringmaster's beacon, measures TIME_OFS and slews its counter. -/
  | beacon (field : Nat) (offset : Int)
  /-- BEACON_LOSS (R421). No beacon arrives in 8 slots, and the field enters FROZEN. -/
  | beaconLoss (field : Nat)
  /-- CLAIM (R421). A ranked field's claim time, or the unranked lowest bidder's, is reached and it writes a claim record. -/
  | claim (field : Nat)
  /-- BID (R421). At t0 + 16 µs, unranked fields that have heard no claim send bids over channel 3. -/
  | bid (field : Nat)
  /-- CLAIM_RECORD (R421). A claim is applied on carousel 0, fixing the claimant as master or master elect. -/
  | claimRecord
  /-- MASTER_TAKEOVER (R421). 16 slots after its claim is applied, the claimant becomes MASTER and EPOCH increments. -/
  | masterTakeover (field : Nat)
  /-- NEW_MASTER_BEACON (R423). The new master's first beacon steps every field's slot counter forward. -/
  | newMasterBeacon (field : Nat)
  /-- RM_FORCE (R424). A write with GO makes the named field claim. -/
  | rmForce (value : Word)
  /-- DRIFT_CHECK (R422). Every 256 slots under the frozen schedule, neighbours compare slot marks and may enter STALL. -/
  | driftCheck (field : Nat) (skews : List Int)
  /-- STALL_NOTICE (R422). A received stall notice puts the field in STALL at its next slot. -/
  | stallNotice (field : Nat)
  /-- PTP_SYNC (R426). A PTP exchange disciplines the Ringmaster by slewing, or steps module time forward at first lock. -/
  | ptpSync (offset : Int)
  /-- CLOCK_SOURCE_LOSS (R427). A field's clock monitor detects the loss of its source and stops the field. -/
  | clockSourceLoss (field : Nat) (source : Nat)
  /-- CLOCK_SWITCH_COMPLETE (R427). The field restarts on the next source, applies buffered frames and re-measures its bands. -/
  | clockSwitchComplete (field : Nat) (bands : List Nat)
  /-- RING_SWEEP_END (R432). A ring's sweep finds resonance and goes to ACQ, or finds none and is masked. -/
  | ringSweepEnd (ring : Nat) (found : Option Nat)
  /-- RING_LOCK (R432). A ring's error stays below threshold for 1 µs and it enters LOCK. -/
  | ringLock (ring : Nat) (heater : Nat)
  /-- RING_LOCK_LOSS (R432). A locked ring's error exceeds threshold for 100 ns; it goes LOST and notifies. -/
  | ringLockLoss (ring : Nat)
  /-- RING_RETUNE (R432). RING_CMD RETUNE sends the selected ring to SWEEP. -/
  | ringRetune
  /-- RING_MASK (R432). RING_CMD MASK masks the selected ring, replacing its wavelength from a spare. -/
  | ringMask
  /-- RING_UNMASK (R432). RING_CMD UNMASK sends a masked ring to SWEEP. -/
  | ringUnmask
  /-- XBAR (R431). A write sets a lane's laser channel, or is discarded with XREJ for an enabled lane. -/
  | xbar (lane : Nat) (value : Word)
  /-- FRAME_CRC_FAILURE (R434). A receiver fails a frame and reports it, and no later frame of that carousel is applied. -/
  | frameCrcFailure (carousel slot : Nat)
  /-- CAROUSEL_REPLAY (R434). The Ringmaster orders a replay; agents discard and writers rewrite frames in order. -/
  | carouselReplay (carousel : Nat)
  /-- CODEWORD_REPLAY (R437). An uncorrectable codeword is refused and the sender replays from it. -/
  | codewordReplay (port lane : Nat)
  /-- LANE_FAILOVER (R437). A failing port lane is dropped and a spare taken in, or the port narrows or goes down. -/
  | laneFailover (port lane : Nat)
  /-- HOST_WRITE (R440). A host write to a vault address, a W offset or a device register is performed and acknowledged. -/
  | hostWrite (link : Nat) (target : HostTarget) (addr : Nat) (data : List Byte)
  /-- HOST_READ (R440). A host read is performed after the link's earlier writes. -/
  | hostRead (link : Nat) (target : HostTarget) (addr size : Nat)
  /-- HOST_LINK_DOWN (R440). A host link goes down and traffic moves to the other link. -/
  | hostLinkDown (link : Nat)
  /-- HW_PAGE_RETIREMENT (R443). For a pending bank, the engine clears frames, returns logged pages to backing, and writes VAULT_REMAP_GO. -/
  | hwPageRetirement (vault : Nat)
  /-- POWER_GOOD (R447). Power becomes good and boot runs its six steps, stopping with ERR on a failure. -/
  | powerGood (report : BootReport)
  /-- POWER_LOSS (R445). Module power is removed and all state on the module is lost. -/
  | powerLoss
  /-- LOADER_GO (R449). LOAD_CTL.GO starts the loader on the container at LOAD_ADDR in LOAD_ASID. -/
  | loaderGo (value : Word)
  /-- LOADER_COMPLETE (R449). The loader finishes with DONE or FAIL and sends message 12. -/
  | loaderComplete
  /-- LOAD_UNMARK (R449). LOAD_CTL.UNMARK releases the executable marks of a physical range. -/
  | loadUnmark (value : Word)
  /-- QUOTE_GO (R450). QUOTE_CTL.GO starts writing a signed attestation quote. -/
  | quoteGo
  /-- QUOTE_COMPLETE (R450). The quote and its signature are written, and BUSY clears. -/
  | quoteComplete
  /-- REGISTER_WRITE (R7). A write to a device register with no row of its own acts by its access codes. -/
  | registerWrite (addr : Nat) (value : Word)
  /-- CLOCK_SOURCE_RETURN (R428). A reference source becomes live again for a field running on its free oscillator, which starts a switch back to 1.6 GHz. -/
  | clockSourceReturn (field : Nat) (source : Nat)
  /-- YIELD_WAIT_EXPIRY (R409). 64 cycles after a YIELD with no other ready troupe, the thread becomes ready again. -/
  | yieldWaitExpiry (core slot : Nat)
  /-- LASER_AGE_REPORT (R435). Each second the laser shelf reports drive current, optical power, its change and hours lit into LASER_AGE. -/
  | laserAgeReport (channel : Nat) (current power change hours : Word)
  /-- VAULT_WRITE_PERFORMED (R237). The home's write of a dirty line to the vault is performed, completing an L2CLEAN handle or letting an L2EVICT free the tag. -/
  | vaultWritePerformed (line : Nat)
deriving DecidableEq, Repr

end Sys2Proof
end

