-- ==== Sys2Proof/WellFormed.lean ====
section
/-! DEFINITION. Which instructions are well formed: the register spans of R38 and the reserved
operand values of R41, R51, R54 to R58, R214, R215, R226, R231, R249 and R317. What depends on the state (the
declared register count, setA, the immediate prefix) is checked at issue. -/

namespace Sys2Proof

/-- Registers a memory format names (R212). -/
def Fmt.regs : Fmt → Nat
  | .b64 => 2
  | .b128 | .bf16x4 | .e4m3x4 | .i8x4 => 4
  | .b256 => 8
  | .b8 | .i8 | .b16 | .i16 | .b32 | .bf16 | .f16 | .e4m3 | .e5m2 => 1

/-- Registers the operand of an atomic occupies (R227). -/
def AtomOp.regs : AtomOp → Nat
  | .cas64 => 4
  | .cas32 | .addN64 | .exch64 => 2
  | .addI32 | .addF32 | .addBf16x2 | .minI32 | .maxI32 | .minN32 | .maxN32 | .and | .or | .xor
  | .exch | .incwrap => 1

/-- What the first operand register of an atomic is a multiple of (R38, R227). -/
def AtomOp.align (c : AtomOp) : Nat := if c.regs = 1 then 1 else 2

/-- Registers a base operand occupies: a pair for G (R209). -/
def Space.baseRegs : Space → Nat
  | .global => 2
  | .slice | .scratch | .window | .wafer => 1

/-- Registers the destination of SREAD occupies, by register number (R57). -/
def sregRegs (a : Reg) : Nat := if 16 ≤ a.toNat then 2 else 1

/-- Registers a control register occupies: TRAPVEC, TRAPCAUSE, TRAPADDR and PTBASE are pairs (R58). -/
def cregRegs (n : Reg) : Nat := if n = 0 ∨ n = 2 ∨ n = 3 ∨ n = 7 then 2 else 1

/-- An operand in general registers: its first register, what that is a multiple of, and how many
registers it spans (R38). -/
structure GOperand where
  reg   : Reg
  align : Nat
  count : Nat
deriving DecidableEq, Repr

/-- A single general register. -/
abbrev one (r : Reg) : GOperand := ⟨r, 1, 1⟩

/-- The general registers an instruction names (R26, R38). -/
def Instr.gOperands (i : Instr) : List GOperand :=
  match i with
  | .mov16 i s d | .add16 i s d | .sub16 i s d | .mul16 i s d | .and16 i s d | .or16 i s d
  | .xor16 i s d | .shl16 i s d | .shr16 i s d | .sar16 i s d | .min16 i s d | .max16 i s d
  | .fadd16 i s d | .fmul16 i s d | .fmax16 i s d | .fmin16 i s d => [one (d.setWidth 6)] ++ (if i then [] else [one (s.setWidth 6)])
  | .tretJmp a _ | .pgreq a _ _ | .pgqry a _ _ | .cctlL1evict a _ _ | .cctlL2clean a _ _
  | .cctlL2evict a _ _ | .jmpr a _ | .ret a _ | .meet a _ | .pref a _ _ | .bardrop a _
  | .mmaHBf16 _ a _ _ _ | .mmaHF16 _ a _ _ _ | .mmaQE4m3 _ a _ _ _ _ | .mmaQE5m2 _ a _ _ _ _
  | .mmaNRb4 _ a _ _ _ | .mmaNI8 _ a _ _ _ _ | .mld a _ _ _ | .mst a _ _ _ _ => [⟨a, 2, 2⟩]
  | .snapc a d _ | .abs a d _ | .neg a d _ | .clz a d _ | .popc a d _ | .brev a d _ | .mov a d _
  | .addi _ a d _ | .andi _ a d _ | .ori _ a d _ | .xori _ a d _ | .shli _ a d _ | .shri _ a d _
  | .sari _ a d _ | .fabs a d _ | .fneg a d _ | .fsqrt a d _ | .frcp a d _ | .frsq a d _
  | .fexp2 a d _ | .flog2 a d _ | .fsin a d _ | .fcos a d _ | .ftanh a d _ | .fflr a d _
  | .fceil a d _ | .frnd a d _ | .ftrc a d _ | .randSeed a d _ | .cvt _ _ _ _ a d _ => [one a, one d]
  | .sread a d _ => [⟨d, sregRegs a, sregRegs a⟩]
  | .crrd a d _ => [⟨d, cregRegs a, cregRegs a⟩]
  | .crwr a d _ => [⟨a, cregRegs d, cregRegs d⟩]
  | .sweep b _ _ | .mand b _ _ _ | .mor b _ _ _ => [one b]
  | .tlbi b a _ | .barinit b a _ | .barexp b a _ | .barwait b a _ | .bartest b a _ _ => [one b, ⟨a, 2, 2⟩]
  | .add b a d _ | .sub b a d _ | .mul b a d _ | .mulh b a d _ | .mulhn b a d _ | .and b a d _
  | .or b a d _ | .xor b a d _ | .andn b a d _ | .shl b a d _ | .shr b a d _ | .sar b a d _
  | .rot b a d _ | .min b a d _ | .max b a d _ | .minn b a d _ | .maxn b a d _ | .div b a d _
  | .rem b a d _ | .divn b a d _ | .remn b a d _ | .sel b a d _ | .mad b a d _ | .bfe b a d _
  | .bfi b a d _ | .fadd b a d _ | .fsub b a d _ | .fmul b a d _ | .fmin b a d _ | .fmax b a d _
  | .fdiv b a d _ | .ffma b a d _ | .hadd2 b a d _ | .hmul2 b a d _ | .hfma2 b a d _
  | .hmax2 b a d _ | .hmin2 b a d _ | .badd2 b a d _ | .bmul2 b a d _ | .bfma2 b a d _
  | .qmax b a d _ | .qscl b a d _ | .idp4 b a d _ | .rdv b a d _ => [one b, one a, one d]
  | .lea b a d _ => [one b, ⟨a, 2, 2⟩, ⟨d, 2, 2⟩]
  | .cmp b a _ _ _ | .cmpn b a _ _ _ | .fcmp b a _ _ _ | .g2p b a _ => [one b, one a]
  | .movi _ d _ | .p2g d _ | .mpop _ d _ | .s2g _ d _ | .randDraw d _ | .sstep d _ | .mstat _ d _ => [one d]
  | .cmpi _ a _ _ _ | .g2s a _ _ | .tsq _ a _ _ _ | .job a _ _ _ | .waith a _ _ | .bufq _ a _ => [one a]
  | .qpack b a d _ => [one b, ⟨a, 8, 8⟩, one d]
  | .qunpk b a d _ => [one b, one a, ⟨d, 8, 8⟩]
  | .call _ d _ => [⟨d, 2, 2⟩]
  | .callr a d _ => [⟨a, 2, 2⟩, ⟨d, 2, 2⟩]
  | .ldP _ f b d _ | .ldS _ f b d _ | .ldC _ f b d _ | .ldW _ f b d _ | .stP _ f b d _
  | .stS _ f b d _ | .stC _ f b d _ | .stW _ f b d _ => [one b, ⟨d, f.regs, f.regs⟩]
  | .ldG _ _ f b d _ _ | .stG _ _ f b d _ => [⟨b, 2, 2⟩, ⟨d, f.regs, f.regs⟩]
  | .ldb _ a d f _ => [one a, ⟨d, f.regs, f.regs⟩]
  | .atom b d _ s c _ | .red b d _ s c _ => [⟨b, s.baseRegs, s.baseRegs⟩, ⟨d, c.align, c.regs⟩]
  | .tsld _ a q _ => [⟨a, q.baseRegs, q.baseRegs⟩]
  | .cpy a _ _ _ | .cpyt _ a _ _ _ | .cpys _ a _ _ _ | .cpyo _ a _ _ _ | .cpyr _ a _ _ _ => [⟨a, 8, 8⟩]
  | .hsave a _ s _ | .hrest a _ s _ => [⟨a, s.baseRegs, s.baseRegs⟩]
  | .bararv a d _ | .launch a d _ => [⟨a, 2, 2⟩, one d]
  | _ => []

/-- The spans of R38, in the general registers and in the uniform registers of LEA and of MMA. -/
def Instr.spansOk (i : Instr) : Bool :=
  i.gOperands.all (fun o => o.reg.toNat % o.align == 0) &&
  match i with
  | .uLea _ a d _ => a.toNat % 2 == 0 && d.toNat % 2 == 0
  | .mmaHBf16 b _ _ _ _ | .mmaHF16 b _ _ _ _ | .mmaQE4m3 b _ _ _ _ _ | .mmaQE5m2 b _ _ _ _ _
  | .mmaNRb4 b _ _ _ _ | .mmaNI8 b _ _ _ _ _ => b.toNat % 2 == 0
  | _ => true

/-- A completion flag number of a header: 12 to 14 are reserved (R41). -/
def headerFlagOk (f : HReg) : Bool := f.toNat < 12 || f == 15

/-- The order a load may carry (R215). -/
def loadOrdOk (o : MOrd) : Bool := o != .rel
/-- The order a store may carry (R215). -/
def storeOrdOk (o : MOrd) : Bool := o != .acq

/-- The operations RED accepts (R56). -/
def redOpOk (c : AtomOp) : Bool := !(c == .exch || c == .cas32 || c == .exch64 || c == .cas64)

/-- The type and rounding rules of CVT (R54). -/
def cvtOk (r : Rounding) (t u : CvtType) : Bool :=
  t != u && (r != .sr || (u == .f32 && (t == .f16 || t == .bf16 || t == .e4m3 || t == .e5m2)))

/-- The operand values that are reserved for an instruction. -/
def Instr.valuesOk (i : Instr) : Bool :=
  match i with
  | .clauseHeader l b a _ => l != 0 && headerFlagOk a && headerFlagOk b
  | .mov16 i s d => !(i == false && s == 0 && d == 0)
  | .shli i _ _ _ | .shri i _ _ _ | .sari i _ _ _ => i.toNat ≤ 31
  | .sread a _ _ => a.toNat ≤ 18
  | .crrd a _ _ => a.toNat ≤ 11
  | .crwr _ d _ => d.toNat ≤ 11
  | .cvt _ r t u _ _ _ => cvtOk r t u
  | .ldP o _ _ _ _ | .ldS o _ _ _ _ | .ldC o _ _ _ _ | .ldW o _ _ _ _ => loadOrdOk o
  | .ldG o _ _ _ _ _ _ => loadOrdOk o
  | .stP o _ _ _ _ | .stS o _ _ _ _ | .stC o _ _ _ _ | .stW o _ _ _ _ => storeOrdOk o
  | .stG o _ _ _ _ _ => storeOrdOk o
  | .red _ _ o _ c _ => storeOrdOk o && redOpOk c
  | .tsld _ _ q _ => q == .scratch || q == .global
  | .tsq _ _ h q _ => !q || h == 0
  | .mstat n _ _ => n.toNat ≤ 5
  | _ => true

/-- Is the instruction one the decoder can answer. -/
def Instr.wf (i : Instr) : Bool := i.spansOk && i.valuesOk

end Sys2Proof
end

