-- ==== Sys2Proof/Decode.lean ====
section
/-! DEFINITION. The decoder of code bytes (R32 to R59), total and refusing by name, then the encoder,
written from the same tables. Every refusal raises ILLEGAL_OP at issue (R9, R59). -/

namespace Sys2Proof

/-- Why bytes are no instruction. -/
inductive DecodeError where
  /-- The bytes end before the instruction does. -/
  | tooShort
  /-- A reserved major opcode (R52). -/
  | reservedMajor
  /-- A reserved sub-operation (R52). -/
  | reservedSub
  /-- A reserved condition, type, rounding, qualifier or mode value (R59). -/
  | reservedValue
  /-- A must-be-zero bit or field that is not zero (R9, R37, R59). -/
  | mustBeZero
  /-- An operand that the instruction does not accept (R38, R54 to R58, R215, R317). -/
  | badOperand
deriving DecidableEq, Repr

/-- An instruction, or the reason there is none. -/
abbrev Decoded := Except DecodeError Instr

/-- The instruction, if its must-be-zero fields are as R9 wants them. -/
def whenZero (ok : Bool) (i : Decoded) : Decoded := if ok then i else .error .mustBeZero

/-- The instruction built from a coded operand, unless its code is reserved. -/
def onCode {α : Type} (x : Option α) (f : α → Decoded) : Decoded :=
  match x with
  | some v => f v
  | none => .error .reservedValue

/-- Field [31:26] of the R, A, E, L and X formats (R36). -/
def fB (w : Word) : BitVec 6 := w.extractLsb' 26 6

/-- Field [25:20] of the R, A, E, L and X formats (R36). -/
def fA (w : Word) : BitVec 6 := w.extractLsb' 20 6

/-- Field [19:14] of the R and L formats (R36). -/
def fD (w : Word) : BitVec 6 := w.extractLsb' 14 6

/-- Field [13:10]: sub of R, fmt of L, acc of X (R36). -/
def fS4 (w : Word) : BitVec 4 := w.extractLsb' 10 4

/-- Field [31:22], imm10 (R36). -/
def fImm (w : Word) : BitVec 10 := w.extractLsb' 22 10

/-- Field [21:16], a of the I and CVT formats (R36). -/
def fIA (w : Word) : BitVec 6 := w.extractLsb' 16 6

/-- Field [15:10], d of the I, CVT and J formats (R36). -/
def fID (w : Word) : BitVec 6 := w.extractLsb' 10 6

/-- Field bit 31 (R36). -/
def fTop (w : Word) : BitVec 1 := w.extractLsb' 31 1

/-- Field [30:29], ord of M (R36). -/
def fOrd (w : Word) : BitVec 2 := w.extractLsb' 29 2

/-- Field [28:27], pol of M (R36). -/
def fPol (w : Word) : BitVec 2 := w.extractLsb' 27 2

/-- Field [26:23], fmt of M (R36). -/
def fFmt (w : Word) : BitVec 4 := w.extractLsb' 23 4

/-- Field [22:17], base of M (R36). -/
def fMB (w : Word) : BitVec 6 := w.extractLsb' 17 6

/-- Field [16:11], d of M (R36). -/
def fMD (w : Word) : BitVec 6 := w.extractLsb' 11 6

/-- Field bit 10 of M and A (R36). -/
def fN (w : Word) : BitVec 1 := w.extractLsb' 10 1

/-- Field [19:18], ord of A (R36). -/
def fAOrd (w : Word) : BitVec 2 := w.extractLsb' 18 2

/-- Field [17:15], space of A (R36). -/
def fASp (w : Word) : BitVec 3 := w.extractLsb' 15 3

/-- Field [14:11], op of A (R36). -/
def fAOp (w : Word) : BitVec 4 := w.extractLsb' 11 4

/-- Field [19:16], h of E (R36). -/
def fH (w : Word) : BitVec 4 := w.extractLsb' 16 4

/-- Field [15:13], qualifier of E (R36). -/
def fQ (w : Word) : BitVec 3 := w.extractLsb' 13 3

/-- Field [12:10], sub of E (R36). -/
def fS3 (w : Word) : BitVec 3 := w.extractLsb' 10 3

/-- Field [19:18], bsel of X (R36). -/
def fBsel (w : Word) : BitVec 2 := w.extractLsb' 18 2

/-- Field bit 17, sub of X (R36). -/
def fXS (w : Word) : BitVec 1 := w.extractLsb' 17 1

/-- Field [16:14], band of X (R36). -/
def fBand (w : Word) : BitVec 3 := w.extractLsb' 14 3

/-- Field [30:28], rounding of CVT (R36). -/
def fRnd (w : Word) : BitVec 3 := w.extractLsb' 28 3

/-- Field [27:25], destination type (R36). -/
def fT1 (w : Word) : BitVec 3 := w.extractLsb' 25 3

/-- Field [24:22], source type (R36). -/
def fT2 (w : Word) : BitVec 3 := w.extractLsb' 22 3

/-- Field [31:10], off22 (R36). -/
def fO22 (w : Word) : BitVec 22 := w.extractLsb' 10 22

/-- Field [31:16], off16 (R36). -/
def fO16 (w : Word) : BitVec 16 := w.extractLsb' 16 16

/-- Field [9:7], the predicate field (R36). -/
def fP (w : Word) : BitVec 3 := w.extractLsb' 7 3

/-- Field [6:1], the major opcode (R36). -/
def fMaj (w : Word) : BitVec 6 := w.extractLsb' 1 6

/-- Code of the conditions of CMP and CMPN (R52). -/
def condOfCode (x : BitVec 4) : Option Cond :=
  match x.toNat with
  | 0 => some .eq
  | 1 => some .ne
  | 2 => some .lt
  | 3 => some .le
  | 4 => some .gt
  | 5 => some .ge
  | _ => none

/-- The inverse of condOfCode. -/
def condCode : Cond → BitVec 4
  | .eq => 0
  | .ne => 1
  | .lt => 2
  | .le => 3
  | .gt => 4
  | .ge => 5

/-- Code of the conditions of FCMP (R52). -/
def fcondOfCode (x : BitVec 4) : Option FCond :=
  match x.toNat with
  | 0 => some .eq
  | 1 => some .ne
  | 2 => some .lt
  | 3 => some .le
  | 4 => some .gt
  | 5 => some .ge
  | 6 => some .un
  | 7 => some .ord
  | _ => none

/-- The inverse of fcondOfCode. -/
def fcondCode : FCond → BitVec 4
  | .eq => 0
  | .ne => 1
  | .lt => 2
  | .le => 3
  | .gt => 4
  | .ge => 5
  | .un => 6
  | .ord => 7

/-- Code of the conditions of CMPI (R52). -/
def icondOfCode (x : BitVec 3) : Option ICond :=
  match x.toNat with
  | 0 => some .eq
  | 1 => some .ne
  | 2 => some .lt
  | 3 => some .le
  | 4 => some .gt
  | 5 => some .ge
  | 6 => some .ltn
  | 7 => some .gen
  | _ => none

/-- The inverse of icondOfCode. -/
def icondCode : ICond → BitVec 3
  | .eq => 0
  | .ne => 1
  | .lt => 2
  | .le => 3
  | .gt => 4
  | .ge => 5
  | .ltn => 6
  | .gen => 7

/-- Code of the memory formats; 15 is reserved (R56, R212). -/
def fmtOfCode (x : BitVec 4) : Option Fmt :=
  match x.toNat with
  | 0 => some .b8
  | 1 => some .i8
  | 2 => some .b16
  | 3 => some .i16
  | 4 => some .b32
  | 5 => some .b64
  | 6 => some .b128
  | 7 => some .b256
  | 8 => some .bf16
  | 9 => some .f16
  | 10 => some .e4m3
  | 11 => some .e5m2
  | 12 => some .bf16x4
  | 13 => some .e4m3x4
  | 14 => some .i8x4
  | _ => none

/-- The inverse of fmtOfCode. -/
def fmtCode : Fmt → BitVec 4
  | .b8 => 0
  | .i8 => 1
  | .b16 => 2
  | .i16 => 3
  | .b32 => 4
  | .b64 => 5
  | .b128 => 6
  | .b256 => 7
  | .bf16 => 8
  | .f16 => 9
  | .e4m3 => 10
  | .e5m2 => 11
  | .bf16x4 => 12
  | .e4m3x4 => 13
  | .i8x4 => 14

/-- Code of the ord field (R215). -/
def ordOfCode (x : BitVec 2) : Option MOrd :=
  match x.toNat with
  | 0 => some .plain
  | 1 => some .acq
  | 2 => some .rel
  | 3 => some .sc
  | _ => none

/-- The inverse of ordOfCode. -/
def ordCode : MOrd → BitVec 2
  | .plain => 0
  | .acq => 1
  | .rel => 2
  | .sc => 3

/-- Code of the pol field (R131). -/
def polOfCode (x : BitVec 2) : Option Pol :=
  match x.toNat with
  | 0 => some .dflt
  | 1 => some .bypass
  | 2 => some .stream
  | 3 => some .dev
  | _ => none

/-- The inverse of polOfCode. -/
def polCode : Pol → BitVec 2
  | .dflt => 0
  | .bypass => 1
  | .stream => 2
  | .dev => 3

/-- Code of the space codes; 5 to 7 are reserved (R23). -/
def spaceOfCode (x : BitVec 3) : Option Space :=
  match x.toNat with
  | 0 => some .slice
  | 1 => some .scratch
  | 2 => some .window
  | 3 => some .wafer
  | 4 => some .global
  | _ => none

/-- The inverse of spaceOfCode. -/
def spaceCode : Space → BitVec 3
  | .slice => 0
  | .scratch => 1
  | .window => 2
  | .wafer => 3
  | .global => 4

/-- Code of the atomic operations (R227). -/
def atomOpOfCode (x : BitVec 4) : Option AtomOp :=
  match x.toNat with
  | 0 => some .addI32
  | 1 => some .addF32
  | 2 => some .addBf16x2
  | 3 => some .minI32
  | 4 => some .maxI32
  | 5 => some .minN32
  | 6 => some .maxN32
  | 7 => some .and
  | 8 => some .or
  | 9 => some .xor
  | 10 => some .exch
  | 11 => some .cas32
  | 12 => some .addN64
  | 13 => some .exch64
  | 14 => some .cas64
  | 15 => some .incwrap
  | _ => none

/-- The inverse of atomOpOfCode. -/
def atomOpCode : AtomOp → BitVec 4
  | .addI32 => 0
  | .addF32 => 1
  | .addBf16x2 => 2
  | .minI32 => 3
  | .maxI32 => 4
  | .minN32 => 5
  | .maxN32 => 6
  | .and => 7
  | .or => 8
  | .xor => 9
  | .exch => 10
  | .cas32 => 11
  | .addN64 => 12
  | .exch64 => 13
  | .cas64 => 14
  | .incwrap => 15

/-- Code of the scopes; 5 to 7 are reserved (R231, R257). -/
def scopeOfCode (x : BitVec 3) : Option Scope :=
  match x.toNat with
  | 0 => some .thread
  | 1 => some .workgroup
  | 2 => some .cluster
  | 3 => some .module
  | 4 => some .pod
  | _ => none

/-- The inverse of scopeOfCode. -/
def scopeCode : Scope → BitVec 3
  | .thread => 0
  | .workgroup => 1
  | .cluster => 2
  | .module => 3
  | .pod => 4

/-- Code of the kinds of FENCE; 0 is reserved (R231). -/
def fenceKindOfCode (x : BitVec 2) : Option FenceKind :=
  match x.toNat with
  | 1 => some .acquire
  | 2 => some .release
  | 3 => some .full
  | _ => none

/-- The inverse of fenceKindOfCode. -/
def fenceKindCode : FenceKind → BitVec 2
  | .acquire => 1
  | .release => 2
  | .full => 3

/-- Code of the targets of PREF; 3 is reserved (R234). -/
def prefTargetOfCode (x : BitVec 2) : Option PrefTarget :=
  match x.toNat with
  | 0 => some .l1
  | 1 => some .l1w
  | 2 => some .l2
  | _ => none

/-- The inverse of prefTargetOfCode. -/
def prefTargetCode : PrefTarget → BitVec 2
  | .l1 => 0
  | .l1w => 1
  | .l2 => 2

/-- Code of the types of CVT (R54). -/
def cvtTypeOfCode (x : BitVec 3) : Option CvtType :=
  match x.toNat with
  | 0 => some .i32
  | 1 => some .n32
  | 2 => some .f32
  | 3 => some .f16
  | 4 => some .bf16
  | 5 => some .e4m3
  | 6 => some .e5m2
  | 7 => some .i8
  | _ => none

/-- The inverse of cvtTypeOfCode. -/
def cvtTypeCode : CvtType → BitVec 3
  | .i32 => 0
  | .n32 => 1
  | .f32 => 2
  | .f16 => 3
  | .bf16 => 4
  | .e4m3 => 5
  | .e5m2 => 6
  | .i8 => 7

/-- Code of the rounding modes; 5 to 7 are reserved (R54). -/
def roundingOfCode (x : BitVec 3) : Option Rounding :=
  match x.toNat with
  | 0 => some .rne
  | 1 => some .rtz
  | 2 => some .rdn
  | 3 => some .rup
  | 4 => some .sr
  | _ => none

/-- The inverse of roundingOfCode. -/
def roundingCode : Rounding → BitVec 3
  | .rne => 0
  | .rtz => 1
  | .rdn => 2
  | .rup => 3
  | .sr => 4

/-- Code of the conditions of TESTH; 6 and 7 are reserved (R266). -/
def hcondOfCode (x : BitVec 3) : Option HCond :=
  match x.toNat with
  | 0 => some .done
  | 1 => some .ok
  | 2 => some .can
  | 3 => some .flt
  | 4 => some .ref
  | 5 => some .den
  | _ => none

/-- The inverse of hcondOfCode. -/
def hcondCode : HCond → BitVec 3
  | .done => 0
  | .ok => 1
  | .can => 2
  | .flt => 3
  | .ref => 4
  | .den => 5

/-- Code of the stored formats of MST (R55). -/
def mstFmtOfCode (x : BitVec 2) : Option MstFmt :=
  match x.toNat with
  | 0 => some .f32
  | 1 => some .bf16
  | 2 => some .e4m3
  | 3 => some .e5m2
  | _ => none

/-- The inverse of mstFmtOfCode. -/
def mstFmtCode : MstFmt → BitVec 2
  | .f32 => 0
  | .bf16 => 1
  | .e4m3 => 2
  | .e5m2 => 3

/-- The SYS group, major 0x02, by its sub field (R52). -/
def decodeSys (w : Word) : Decoded :=
  match (fS4 w).toNat with
  | 0 => whenZero (fB w == 0#6 && fA w == 0#6 && fD w == 0#6) (.ok (.nop (fP w)))
  | 1 => whenZero (fB w == 0#6 && fA w == 0#6 && fD w == 0#6) (.ok (.yield (fP w)))
  | 2 => whenZero (fB w == 0#6 && fA w == 0#6 && fD w == 0#6) (.ok (.exit (fP w)))
  | 3 => whenZero (fA w == 0#6 && fD w == 0#6) (.ok (.trap (fB w) (fP w)))
  | 4 =>
    match (fB w).toNat with
    | 0 => whenZero (fA w == 0#6 && fD w == 0#6) (.ok (.tretRetry (fP w)))
    | 1 => whenZero (fA w == 0#6 && fD w == 0#6) (.ok (.tretSkip (fP w)))
    | 2 => whenZero (fD w == 0#6) (.ok (.tretJmp (fA w) (fP w)))
    | _ => .error .reservedValue
  | 5 => whenZero (fB w == 0#6 && fA w == 0#6 && fD w == 0#6) (.ok (.halt (fP w)))
  | 6 => whenZero (fB w == 0#6) (.ok (.snapc (fA w) (fD w) (fP w)))
  | 7 => whenZero (fB w == 0#6) (.ok (.sread (fA w) (fD w) (fP w)))
  | 8 => whenZero (fB w == 0#6) (.ok (.crrd (fA w) (fD w) (fP w)))
  | 9 => whenZero (fB w == 0#6) (.ok (.crwr (fA w) (fD w) (fP w)))
  | 10 => whenZero (fA w == 0#6 && (fD w).toNat < 16) (.ok (.sweep (fB w) ((fD w).setWidth 4) (fP w)))
  | 11 => whenZero (fD w == 0#6) (.ok (.tlbi (fB w) (fA w) (fP w)))
  | 12 => whenZero (fB w == 0#6 && (fD w).toNat < 16) (.ok (.pgreq (fA w) ((fD w).setWidth 4) (fP w)))
  | 13 => whenZero (fB w == 0#6 && (fD w).toNat < 8) (.ok (.pgqry (fA w) ((fD w).setWidth 3) (fP w)))
  | 14 =>
    match (fB w).toNat with
    | 0 => whenZero ((fD w).toNat < 16) (.ok (.cctlL1evict (fA w) ((fD w).setWidth 4) (fP w)))
    | 1 => whenZero ((fD w).toNat < 16) (.ok (.cctlL2clean (fA w) ((fD w).setWidth 4) (fP w)))
    | 2 => whenZero ((fD w).toNat < 16) (.ok (.cctlL2evict (fA w) ((fD w).setWidth 4) (fP w)))
    | 3 => whenZero (fA w == 0#6 && (fD w).toNat < 16) (.ok (.cctlL1flush ((fD w).setWidth 4) (fP w)))
    | _ => .error .reservedValue
  | _ => .error .reservedSub

/-- The ALU group, major 0x03, by its sub field (R52). -/
def decodeAlu (w : Word) : Decoded :=
  match (fS4 w).toNat with
  | 0 => .ok (.add (fB w) (fA w) (fD w) (fP w))
  | 1 => .ok (.sub (fB w) (fA w) (fD w) (fP w))
  | 2 => .ok (.mul (fB w) (fA w) (fD w) (fP w))
  | 3 => .ok (.mulh (fB w) (fA w) (fD w) (fP w))
  | 4 => .ok (.mulhn (fB w) (fA w) (fD w) (fP w))
  | 5 => .ok (.and (fB w) (fA w) (fD w) (fP w))
  | 6 => .ok (.or (fB w) (fA w) (fD w) (fP w))
  | 7 => .ok (.xor (fB w) (fA w) (fD w) (fP w))
  | 8 => .ok (.andn (fB w) (fA w) (fD w) (fP w))
  | 9 => .ok (.shl (fB w) (fA w) (fD w) (fP w))
  | 10 => .ok (.shr (fB w) (fA w) (fD w) (fP w))
  | 11 => .ok (.sar (fB w) (fA w) (fD w) (fP w))
  | 12 => .ok (.rot (fB w) (fA w) (fD w) (fP w))
  | 13 => .ok (.min (fB w) (fA w) (fD w) (fP w))
  | 14 => .ok (.max (fB w) (fA w) (fD w) (fP w))
  | 15 => .ok (.minn (fB w) (fA w) (fD w) (fP w))
  | _ => .error .reservedSub

/-- The ALU2 group, major 0x04, by its sub field (R52). -/
def decodeAlu2 (w : Word) : Decoded :=
  match (fS4 w).toNat with
  | 0 => .ok (.maxn (fB w) (fA w) (fD w) (fP w))
  | 1 => whenZero (fB w == 0#6) (.ok (.abs (fA w) (fD w) (fP w)))
  | 2 => whenZero (fB w == 0#6) (.ok (.neg (fA w) (fD w) (fP w)))
  | 3 => whenZero (fB w == 0#6) (.ok (.clz (fA w) (fD w) (fP w)))
  | 4 => whenZero (fB w == 0#6) (.ok (.popc (fA w) (fD w) (fP w)))
  | 5 => whenZero (fB w == 0#6) (.ok (.brev (fA w) (fD w) (fP w)))
  | 6 => .ok (.div (fB w) (fA w) (fD w) (fP w))
  | 7 => .ok (.rem (fB w) (fA w) (fD w) (fP w))
  | 8 => .ok (.divn (fB w) (fA w) (fD w) (fP w))
  | 9 => .ok (.remn (fB w) (fA w) (fD w) (fP w))
  | 10 => .ok (.sel (fB w) (fA w) (fD w) (fP w))
  | 11 => whenZero (fB w == 0#6) (.ok (.mov (fA w) (fD w) (fP w)))
  | 12 => .ok (.lea (fB w) (fA w) (fD w) (fP w))
  | _ => .error .reservedSub

/-- The MAD group, major 0x05, by its sub field (R52). -/
def decodeMad (w : Word) : Decoded :=
  match (fS4 w).toNat with
  | 0 => .ok (.mad (fB w) (fA w) (fD w) (fP w))
  | _ => .error .reservedSub

/-- The BFE and BFI group, major 0x06, by its sub field (R52). -/
def decodeBf (w : Word) : Decoded :=
  match (fS4 w).toNat with
  | 0 => .ok (.bfe (fB w) (fA w) (fD w) (fP w))
  | 1 => .ok (.bfi (fB w) (fA w) (fD w) (fP w))
  | _ => .error .reservedSub

/-- The PRED group, major 0x13, by its sub field (R52). -/
def decodePred (w : Word) : Decoded :=
  match (fS4 w).toNat with
  | 0 => whenZero ((fB w).toNat < 8 && (fA w).toNat < 8 && (fD w).toNat < 8) (.ok (.pand ((fB w).setWidth 3) ((fA w).setWidth 3) ((fD w).setWidth 3) (fP w)))
  | 1 => whenZero ((fB w).toNat < 8 && (fA w).toNat < 8 && (fD w).toNat < 8) (.ok (.por ((fB w).setWidth 3) ((fA w).setWidth 3) ((fD w).setWidth 3) (fP w)))
  | 2 => whenZero ((fB w).toNat < 8 && (fA w).toNat < 8 && (fD w).toNat < 8) (.ok (.pxor ((fB w).setWidth 3) ((fA w).setWidth 3) ((fD w).setWidth 3) (fP w)))
  | 3 => whenZero (fB w == 0#6 && (fA w).toNat < 8 && (fD w).toNat < 8) (.ok (.pnot ((fA w).setWidth 3) ((fD w).setWidth 3) (fP w)))
  | 4 => whenZero (fB w == 0#6 && (fA w).toNat < 8 && (fD w).toNat < 8) (.ok (.pmov ((fA w).setWidth 3) ((fD w).setWidth 3) (fP w)))
  | 5 => whenZero (fB w == 0#6 && fA w == 0#6) (.ok (.p2g (fD w) (fP w)))
  | 6 => whenZero (fD w == 0#6) (.ok (.g2p (fB w) (fA w) (fP w)))
  | 7 => whenZero ((fA w).toNat < 8 && (fD w).toNat < 8) (.ok (.mand (fB w) ((fA w).setWidth 3) ((fD w).setWidth 3) (fP w)))
  | 8 => whenZero ((fA w).toNat < 8 && (fD w).toNat < 8) (.ok (.mor (fB w) ((fA w).setWidth 3) ((fD w).setWidth 3) (fP w)))
  | 9 => whenZero (fB w == 0#6 && (fA w).toNat < 8) (.ok (.mpop ((fA w).setWidth 3) (fD w) (fP w)))
  | 10 => whenZero ((fB w).toNat < 8 && (fA w).toNat < 8 && (fD w).toNat < 8) (.ok (.mtst ((fB w).setWidth 3) ((fA w).setWidth 3) ((fD w).setWidth 3) (fP w)))
  | _ => .error .reservedSub

/-- The UALU group, major 0x14, by its sub field (R52). -/
def decodeUalu (w : Word) : Decoded :=
  match (fS4 w).toNat with
  | 0 => .ok (.uAdd (fB w) (fA w) (fD w) (fP w))
  | 1 => .ok (.uSub (fB w) (fA w) (fD w) (fP w))
  | 2 => .ok (.uMul (fB w) (fA w) (fD w) (fP w))
  | 3 => .ok (.uMulh (fB w) (fA w) (fD w) (fP w))
  | 4 => .ok (.uMulhn (fB w) (fA w) (fD w) (fP w))
  | 5 => .ok (.uAnd (fB w) (fA w) (fD w) (fP w))
  | 6 => .ok (.uOr (fB w) (fA w) (fD w) (fP w))
  | 7 => .ok (.uXor (fB w) (fA w) (fD w) (fP w))
  | 8 => .ok (.uAndn (fB w) (fA w) (fD w) (fP w))
  | 9 => .ok (.uShl (fB w) (fA w) (fD w) (fP w))
  | 10 => .ok (.uShr (fB w) (fA w) (fD w) (fP w))
  | 11 => .ok (.uSar (fB w) (fA w) (fD w) (fP w))
  | 12 => .ok (.uRot (fB w) (fA w) (fD w) (fP w))
  | 13 => .ok (.uMin (fB w) (fA w) (fD w) (fP w))
  | 14 => .ok (.uMax (fB w) (fA w) (fD w) (fP w))
  | 15 => .ok (.uMinn (fB w) (fA w) (fD w) (fP w))
  | _ => .error .reservedSub

/-- The UALU2 group, major 0x15, by its sub field (R52). -/
def decodeUalu2 (w : Word) : Decoded :=
  match (fS4 w).toNat with
  | 0 => .ok (.uMaxn (fB w) (fA w) (fD w) (fP w))
  | 1 => whenZero (fB w == 0#6) (.ok (.uAbs (fA w) (fD w) (fP w)))
  | 2 => whenZero (fB w == 0#6) (.ok (.uNeg (fA w) (fD w) (fP w)))
  | 3 => whenZero (fB w == 0#6) (.ok (.uClz (fA w) (fD w) (fP w)))
  | 4 => whenZero (fB w == 0#6) (.ok (.uPopc (fA w) (fD w) (fP w)))
  | 5 => whenZero (fB w == 0#6) (.ok (.uBrev (fA w) (fD w) (fP w)))
  | 10 => .ok (.usel (fB w) (fA w) (fD w) (fP w))
  | 11 => whenZero (fB w == 0#6) (.ok (.uMov (fA w) (fD w) (fP w)))
  | 12 => .ok (.uLea (fB w) (fA w) (fD w) (fP w))
  | 13 => whenZero (fB w == 0#6) (.ok (.s2g (fA w) (fD w) (fP w)))
  | 14 => whenZero (fB w == 0#6) (.ok (.g2s (fA w) (fD w) (fP w)))
  | _ => .error .reservedSub

/-- The FPU group, major 0x16, by its sub field (R52). -/
def decodeFpu (w : Word) : Decoded :=
  match (fS4 w).toNat with
  | 0 => .ok (.fadd (fB w) (fA w) (fD w) (fP w))
  | 1 => .ok (.fsub (fB w) (fA w) (fD w) (fP w))
  | 2 => .ok (.fmul (fB w) (fA w) (fD w) (fP w))
  | 3 => .ok (.fmin (fB w) (fA w) (fD w) (fP w))
  | 4 => .ok (.fmax (fB w) (fA w) (fD w) (fP w))
  | 5 => whenZero (fB w == 0#6) (.ok (.fabs (fA w) (fD w) (fP w)))
  | 6 => whenZero (fB w == 0#6) (.ok (.fneg (fA w) (fD w) (fP w)))
  | 7 => .ok (.fdiv (fB w) (fA w) (fD w) (fP w))
  | 8 => whenZero (fB w == 0#6) (.ok (.fsqrt (fA w) (fD w) (fP w)))
  | 9 => whenZero (fB w == 0#6) (.ok (.frcp (fA w) (fD w) (fP w)))
  | 10 => whenZero (fB w == 0#6) (.ok (.frsq (fA w) (fD w) (fP w)))
  | 11 => whenZero (fB w == 0#6) (.ok (.fexp2 (fA w) (fD w) (fP w)))
  | 12 => whenZero (fB w == 0#6) (.ok (.flog2 (fA w) (fD w) (fP w)))
  | 13 => whenZero (fB w == 0#6) (.ok (.fsin (fA w) (fD w) (fP w)))
  | 14 => whenZero (fB w == 0#6) (.ok (.fcos (fA w) (fD w) (fP w)))
  | 15 => whenZero (fB w == 0#6) (.ok (.ftanh (fA w) (fD w) (fP w)))
  | _ => .error .reservedSub

/-- The FFMA group, major 0x17, by its sub field (R52). -/
def decodeFfma (w : Word) : Decoded :=
  match (fS4 w).toNat with
  | 0 => .ok (.ffma (fB w) (fA w) (fD w) (fP w))
  | _ => .error .reservedSub

/-- The FPU2 group, major 0x18, by its sub field (R52). -/
def decodeFpu2 (w : Word) : Decoded :=
  match (fS4 w).toNat with
  | 0 => whenZero (fB w == 0#6) (.ok (.fflr (fA w) (fD w) (fP w)))
  | 1 => whenZero (fB w == 0#6) (.ok (.fceil (fA w) (fD w) (fP w)))
  | 2 => whenZero (fB w == 0#6) (.ok (.frnd (fA w) (fD w) (fP w)))
  | 3 => whenZero (fB w == 0#6) (.ok (.ftrc (fA w) (fD w) (fP w)))
  | 4 =>
    match (fB w).toNat with
    | 0 => .ok (.randSeed (fA w) (fD w) (fP w))
    | 1 => whenZero (fA w == 0#6) (.ok (.randDraw (fD w) (fP w)))
    | _ => .error .reservedValue
  | _ => .error .reservedSub

/-- The PK16 group, major 0x1A, by its sub field (R52). -/
def decodePk16 (w : Word) : Decoded :=
  match (fS4 w).toNat with
  | 0 => .ok (.hadd2 (fB w) (fA w) (fD w) (fP w))
  | 1 => .ok (.hmul2 (fB w) (fA w) (fD w) (fP w))
  | 2 => .ok (.hfma2 (fB w) (fA w) (fD w) (fP w))
  | 3 => .ok (.hmax2 (fB w) (fA w) (fD w) (fP w))
  | 4 => .ok (.hmin2 (fB w) (fA w) (fD w) (fP w))
  | 5 => .ok (.badd2 (fB w) (fA w) (fD w) (fP w))
  | 6 => .ok (.bmul2 (fB w) (fA w) (fD w) (fP w))
  | 7 => .ok (.bfma2 (fB w) (fA w) (fD w) (fP w))
  | _ => .error .reservedSub

/-- The QNT group, major 0x1B, by its sub field (R52). -/
def decodeQnt (w : Word) : Decoded :=
  match (fS4 w).toNat with
  | 0 => .ok (.qmax (fB w) (fA w) (fD w) (fP w))
  | 1 => .ok (.qscl (fB w) (fA w) (fD w) (fP w))
  | 2 => .ok (.qpack (fB w) (fA w) (fD w) (fP w))
  | 3 => .ok (.qunpk (fB w) (fA w) (fD w) (fP w))
  | 4 => .ok (.idp4 (fB w) (fA w) (fD w) (fP w))
  | _ => .error .reservedSub

/-- The control transfer and MEET group, major 0x1F, by its sub field (R52). -/
def decodeCtl (w : Word) : Decoded :=
  match (fS4 w).toNat with
  | 0 => whenZero (fB w == 0#6 && fD w == 0#6) (.ok (.jmpr (fA w) (fP w)))
  | 1 => whenZero (fB w == 0#6) (.ok (.callr (fA w) (fD w) (fP w)))
  | 2 => whenZero (fB w == 0#6 && fD w == 0#6) (.ok (.ret (fA w) (fP w)))
  | 3 =>
    match (fB w).toNat with
    | 0 => whenZero (fD w == 0#6) (.ok (.meet (fA w) (fP w)))
    | 1 => whenZero (fA w == 0#6 && fD w == 0#6) (.ok (.meetClr (fP w)))
    | _ => .error .reservedValue
  | _ => .error .reservedSub

/-- The FENCE and PREF group, major 0x2D, by its sub field (R52). -/
def decodeFence (w : Word) : Decoded :=
  match (fS4 w).toNat with
  | 0 => whenZero (fB w == 0#6 && (fA w).toNat < 8 && (fD w).toNat < 4) ((onCode (scopeOfCode ((fA w).setWidth 3)) fun s => (onCode (fenceKindOfCode ((fD w).setWidth 2)) fun k => .ok (.fence s k (fP w)))))
  | 1 => whenZero (fB w == 0#6 && (fD w).toNat < 4) ((onCode (prefTargetOfCode ((fD w).setWidth 2)) fun t => .ok (.pref (fA w) t (fP w))))
  | _ => .error .reservedSub

/-- The shape slot group, major 0x2E, by its sub field (R52). -/
def decodeShape (w : Word) : Decoded :=
  match (fS3 w).toNat with
  | 0 => whenZero ((fB w).toNat < 32 && fH w == 0#4) ((onCode (spaceOfCode (fQ w)) fun q => .ok (.tsld ((fB w).setWidth 5) (fA w) q (fP w))))
  | 1 => whenZero ((fB w).toNat < 32 && fA w == 0#6 && fH w == 0#4 && fQ w == 0#3) (.ok (.tsev ((fB w).setWidth 5) (fP w)))
  | 2 => whenZero ((fB w).toNat < 32 && (fQ w).toNat < 2) (.ok (.tsq ((fB w).setWidth 5) (fA w) (fH w) (((fQ w).setWidth 1) == 1#1) (fP w)))
  | _ => .error .reservedSub

/-- The copy group, major 0x2F, by its sub field (R52). -/
def decodeCopy (w : Word) : Decoded :=
  match (fS3 w).toNat with
  | 0 => whenZero (fB w == 0#6) ((onCode (scopeOfCode (fQ w)) fun s => .ok (.cpy (fA w) (fH w) s (fP w))))
  | 1 => (onCode (scopeOfCode (fQ w)) fun s => .ok (.cpyt (fB w) (fA w) (fH w) s (fP w)))
  | 2 => (onCode (scopeOfCode (fQ w)) fun s => .ok (.cpys (fB w) (fA w) (fH w) s (fP w)))
  | 3 => (onCode (scopeOfCode (fQ w)) fun s => .ok (.cpyo (fB w) (fA w) (fH w) s (fP w)))
  | 4 => (onCode (scopeOfCode (fQ w)) fun s => .ok (.cpyr (fB w) (fA w) (fH w) s (fP w)))
  | 5 => whenZero (fB w == 0#6) ((onCode (scopeOfCode (fQ w)) fun s => .ok (.job (fA w) (fH w) s (fP w))))
  | _ => .error .reservedSub

/-- The handle and buffer entry group, major 0x30, by its sub field (R52). -/
def decodeHandle (w : Word) : Decoded :=
  match (fS3 w).toNat with
  | 0 => whenZero (fB w == 0#6 && fQ w == 0#3) (.ok (.waith (fA w) (fH w) (fP w)))
  | 1 => whenZero ((fB w).toNat < 8 && fA w == 0#6) ((onCode (hcondOfCode (fQ w)) fun c => .ok (.testh ((fB w).setWidth 3) (fH w) c (fP w))))
  | 2 => whenZero (fB w == 0#6 && (fA w).toNat < 16 && fQ w == 0#3) (.ok (.movh ((fA w).setWidth 4) (fH w) (fP w)))
  | 3 => whenZero (fB w == 0#6 && fA w == 0#6 && fQ w == 0#3) (.ok (.cancel (fH w) (fP w)))
  | 4 => whenZero (fB w == 0#6) ((onCode (spaceOfCode (fQ w)) fun s => .ok (.hsave (fA w) (fH w) s (fP w))))
  | 5 => whenZero (fB w == 0#6) ((onCode (spaceOfCode (fQ w)) fun s => .ok (.hrest (fA w) (fH w) s (fP w))))
  | 6 => whenZero (fH w == 0#4 && fQ w == 0#3) (.ok (.bufq (fB w) (fA w) (fP w)))
  | 7 => whenZero (fA w == 0#6 && fH w == 0#4 && fQ w == 0#3) (.ok (.bufrel (fB w) (fP w)))
  | _ => .error .reservedSub

/-- The barrier, SSTEP and RDV group, major 0x31, by its sub field (R52). -/
def decodeBarrier (w : Word) : Decoded :=
  match (fS4 w).toNat with
  | 0 => whenZero (fD w == 0#6) (.ok (.barinit (fB w) (fA w) (fP w)))
  | 1 => whenZero (fB w == 0#6) (.ok (.bararv (fA w) (fD w) (fP w)))
  | 2 => whenZero (fD w == 0#6) (.ok (.barexp (fB w) (fA w) (fP w)))
  | 3 => whenZero (fD w == 0#6) (.ok (.barwait (fB w) (fA w) (fP w)))
  | 4 => whenZero ((fD w).toNat < 8) (.ok (.bartest (fB w) (fA w) ((fD w).setWidth 3) (fP w)))
  | 5 => whenZero (fB w == 0#6 && fD w == 0#6) (.ok (.bardrop (fA w) (fP w)))
  | 6 => whenZero (fB w == 0#6 && fA w == 0#6) (.ok (.sstep (fD w) (fP w)))
  | 7 => .ok (.rdv (fB w) (fA w) (fD w) (fP w))
  | _ => .error .reservedSub

/-- The LAUNCH group, major 0x32, by its sub field (R52). -/
def decodeLaunch (w : Word) : Decoded :=
  match (fS4 w).toNat with
  | 0 => whenZero (fB w == 0#6) (.ok (.launch (fA w) (fD w) (fP w)))
  | _ => .error .reservedSub

/-- The matrix reservation group, major 0x33, by its sub field (R52). -/
def decodeMres (w : Word) : Decoded :=
  match (fS4 w).toNat with
  | 0 => whenZero (fB w == 0#6 && fA w == 0#6 && (fD w).toNat < 8) (.ok (.mrsv ((fD w).setWidth 3) (fP w)))
  | 1 => whenZero (fB w == 0#6 && fA w == 0#6 && fD w == 0#6) (.ok (.mrel (fP w)))
  | 2 => whenZero ((fB w).toNat < 16 && fA w == 0#6 && (fD w).toNat < 16) (.ok (.mzero ((fB w).extractLsb' 3 1 == 1#1) ((fB w).setWidth 3) ((fD w).setWidth 4) (fP w)))
  | 3 => whenZero (fA w == 0#6) (.ok (.mstat (fB w) (fD w) (fP w)))
  | _ => .error .reservedSub

/-- The MMA.H group, major 0x34, by its sub field (R52). -/
def decodeMmaH (w : Word) : Decoded :=
  match (fXS w).toNat with
  | 0 => whenZero (fBsel w == 0#2) (.ok (.mmaHBf16 (fB w) (fA w) (fBand w) (fS4 w) (fP w)))
  | 1 => whenZero (fBsel w == 0#2) (.ok (.mmaHF16 (fB w) (fA w) (fBand w) (fS4 w) (fP w)))
  | _ => .error .reservedSub

/-- The MMA.Q group, major 0x35, by its sub field (R52). -/
def decodeMmaQ (w : Word) : Decoded :=
  match (fXS w).toNat with
  | 0 => whenZero ((fBsel w).toNat < 2) (.ok (.mmaQE4m3 (fB w) (fA w) (((fBsel w).setWidth 1) == 1#1) (fBand w) (fS4 w) (fP w)))
  | 1 => whenZero ((fBsel w).toNat < 2) (.ok (.mmaQE5m2 (fB w) (fA w) (((fBsel w).setWidth 1) == 1#1) (fBand w) (fS4 w) (fP w)))
  | _ => .error .reservedSub

/-- The MMA.N group, major 0x36, by its sub field (R52). -/
def decodeMmaN (w : Word) : Decoded :=
  match (fXS w).toNat with
  | 0 => whenZero (fBsel w == 0#2) (.ok (.mmaNRb4 (fB w) (fA w) (fBand w) (fS4 w) (fP w)))
  | 1 => whenZero ((fBsel w).toNat < 2) (.ok (.mmaNI8 (fB w) (fA w) (((fBsel w).setWidth 1) == 1#1) (fBand w) (fS4 w) (fP w)))
  | _ => .error .reservedSub

/-- The MLD and MST group, major 0x37, by its sub field (R52). -/
def decodeMmem (w : Word) : Decoded :=
  match (fXS w).toNat with
  | 0 => whenZero (fB w == 0#6 && fBsel w == 0#2) (.ok (.mld (fA w) (fBand w) (fS4 w) (fP w)))
  | 1 => whenZero (fB w == 0#6) ((onCode (mstFmtOfCode (fBsel w)) fun s => .ok (.mst (fA w) s (fBand w) (fS4 w) (fP w))))
  | _ => .error .reservedSub

/-- A 32-bit word by its major opcode (R40, R50, R52), before the operand checks. -/
def decodeRow (w : Word) : Decoded :=
  match (fMaj w).toNat with
  | 0x00 => .ok (.clauseHeader (w.extractLsb' 27 5) (w.extractLsb' 23 4) (w.extractLsb' 19 4) (w.extractLsb' 7 12))
  | 0x01 => whenZero (w.extractLsb' 29 3 == 0) (.ok (.immx (w.extractLsb' 7 22)))
  | 0x02 => decodeSys w
  | 0x03 => decodeAlu w
  | 0x04 => decodeAlu2 w
  | 0x05 => decodeMad w
  | 0x06 => decodeBf w
  | 0x07 => whenZero ((fD w).toNat < 8) ((onCode (condOfCode (fS4 w)) fun c => .ok (.cmp (fB w) (fA w) ((fD w).setWidth 3) c (fP w))))
  | 0x08 => whenZero ((fD w).toNat < 8) ((onCode (condOfCode (fS4 w)) fun c => .ok (.cmpn (fB w) (fA w) ((fD w).setWidth 3) c (fP w))))
  | 0x09 => whenZero ((fD w).toNat < 8) ((onCode (fcondOfCode (fS4 w)) fun c => .ok (.fcmp (fB w) (fA w) ((fD w).setWidth 3) c (fP w))))
  | 0x0a => .ok (.addi (fImm w) (fIA w) (fID w) (fP w))
  | 0x0b => .ok (.andi (fImm w) (fIA w) (fID w) (fP w))
  | 0x0c => .ok (.ori (fImm w) (fIA w) (fID w) (fP w))
  | 0x0d => .ok (.xori (fImm w) (fIA w) (fID w) (fP w))
  | 0x0e => .ok (.shli (fImm w) (fIA w) (fID w) (fP w))
  | 0x0f => .ok (.shri (fImm w) (fIA w) (fID w) (fP w))
  | 0x10 => .ok (.sari (fImm w) (fIA w) (fID w) (fP w))
  | 0x11 => whenZero (fIA w == 0#6) (.ok (.movi (fImm w) (fID w) (fP w)))
  | 0x12 => (onCode (icondOfCode ((fID w).extractLsb' 3 3)) fun c => .ok (.cmpi (fImm w) (fIA w) c ((fID w).setWidth 3) (fP w)))
  | 0x13 => decodePred w
  | 0x14 => decodeUalu w
  | 0x15 => decodeUalu2 w
  | 0x16 => decodeFpu w
  | 0x17 => decodeFfma w
  | 0x18 => decodeFpu2 w
  | 0x19 => (onCode (roundingOfCode (fRnd w)) fun r => (onCode (cvtTypeOfCode (fT1 w)) fun t => (onCode (cvtTypeOfCode (fT2 w)) fun u => .ok (.cvt ((fTop w) == 1#1) r t u (fIA w) (fID w) (fP w)))))
  | 0x1a => decodePk16 w
  | 0x1b => decodeQnt w
  | 0x1c => .ok (.bra (fO22 w) (fP w))
  | 0x1d => .ok (.braU (fO22 w) (fP w))
  | 0x1e => .ok (.call (fO16 w) (fID w) (fP w))
  | 0x1f => decodeCtl w
  | 0x20 => whenZero (fTop w == 0#1 && fPol w == 0#2 && fN w == 0#1) ((onCode (ordOfCode (fOrd w)) fun o => (onCode (fmtOfCode (fFmt w)) fun f => .ok (.ldP o f (fMB w) (fMD w) (fP w)))))
  | 0x21 => whenZero (fTop w == 0#1 && fPol w == 0#2 && fN w == 0#1) ((onCode (ordOfCode (fOrd w)) fun o => (onCode (fmtOfCode (fFmt w)) fun f => .ok (.ldS o f (fMB w) (fMD w) (fP w)))))
  | 0x22 => whenZero (fTop w == 0#1 && fPol w == 0#2 && fN w == 0#1) ((onCode (ordOfCode (fOrd w)) fun o => (onCode (fmtOfCode (fFmt w)) fun f => .ok (.ldC o f (fMB w) (fMD w) (fP w)))))
  | 0x23 => whenZero (fTop w == 0#1 && fPol w == 0#2 && fN w == 0#1) ((onCode (ordOfCode (fOrd w)) fun o => (onCode (fmtOfCode (fFmt w)) fun f => .ok (.ldW o f (fMB w) (fMD w) (fP w)))))
  | 0x24 => whenZero (fTop w == 0#1) ((onCode (ordOfCode (fOrd w)) fun o => (onCode (polOfCode (fPol w)) fun l => (onCode (fmtOfCode (fFmt w)) fun f => .ok (.ldG o l f (fMB w) (fMD w) ((fN w) == 1#1) (fP w))))))
  | 0x25 => whenZero (fTop w == 0#1 && fPol w == 0#2 && fN w == 0#1) ((onCode (ordOfCode (fOrd w)) fun o => (onCode (fmtOfCode (fFmt w)) fun f => .ok (.stP o f (fMB w) (fMD w) (fP w)))))
  | 0x26 => whenZero (fTop w == 0#1 && fPol w == 0#2 && fN w == 0#1) ((onCode (ordOfCode (fOrd w)) fun o => (onCode (fmtOfCode (fFmt w)) fun f => .ok (.stS o f (fMB w) (fMD w) (fP w)))))
  | 0x27 => whenZero (fTop w == 0#1 && fPol w == 0#2 && fN w == 0#1) ((onCode (ordOfCode (fOrd w)) fun o => (onCode (fmtOfCode (fFmt w)) fun f => .ok (.stC o f (fMB w) (fMD w) (fP w)))))
  | 0x28 => whenZero (fTop w == 0#1 && fPol w == 0#2 && fN w == 0#1) ((onCode (ordOfCode (fOrd w)) fun o => (onCode (fmtOfCode (fFmt w)) fun f => .ok (.stW o f (fMB w) (fMD w) (fP w)))))
  | 0x29 => whenZero (fTop w == 0#1 && fN w == 0#1) ((onCode (ordOfCode (fOrd w)) fun o => (onCode (polOfCode (fPol w)) fun l => (onCode (fmtOfCode (fFmt w)) fun f => .ok (.stG o l f (fMB w) (fMD w) (fP w))))))
  | 0x2a => (onCode (fmtOfCode (fS4 w)) fun f => .ok (.ldb (fB w) (fA w) (fD w) f (fP w)))
  | 0x2b => whenZero (fN w == 0#1) ((onCode (ordOfCode (fAOrd w)) fun o => (onCode (spaceOfCode (fASp w)) fun s => (onCode (atomOpOfCode (fAOp w)) fun c => .ok (.atom (fB w) (fA w) o s c (fP w))))))
  | 0x2c => whenZero (fN w == 0#1) ((onCode (ordOfCode (fAOrd w)) fun o => (onCode (spaceOfCode (fASp w)) fun s => (onCode (atomOpOfCode (fAOp w)) fun c => .ok (.red (fB w) (fA w) o s c (fP w))))))
  | 0x2d => decodeFence w
  | 0x2e => decodeShape w
  | 0x2f => decodeCopy w
  | 0x30 => decodeHandle w
  | 0x31 => decodeBarrier w
  | 0x32 => decodeLaunch w
  | 0x33 => decodeMres w
  | 0x34 => decodeMmaH w
  | 0x35 => decodeMmaQ w
  | 0x36 => decodeMmaN w
  | 0x37 => decodeMmem w
  | _ => .error .reservedMajor

/-- A 16-bit word (R33, R34); 0x0000 is NOP16. -/
def decodeRow16 (h : BitVec 16) : Instr :=
  let i := h.getLsbD 15
  let s := h.extractLsb' 10 5
  let d := h.extractLsb' 5 5
  if h == 0 then .nop16 else
  match (h.extractLsb' 1 4).toNat with
  | 0 => .mov16 i s d
  | 1 => .add16 i s d
  | 2 => .sub16 i s d
  | 3 => .mul16 i s d
  | 4 => .and16 i s d
  | 5 => .or16 i s d
  | 6 => .xor16 i s d
  | 7 => .shl16 i s d
  | 8 => .shr16 i s d
  | 9 => .sar16 i s d
  | 10 => .min16 i s d
  | 11 => .max16 i s d
  | 12 => .fadd16 i s d
  | 13 => .fmul16 i s d
  | 14 => .fmax16 i s d
  | _ => .fmin16 i s d

/-- A decoded row whose operands the instruction accepts. -/
def checkOperands (r : Decoded) : Decoded :=
  match r with
  | .ok i => if i.wf then .ok i else .error .badOperand
  | .error e => .error e

/-- A 32-bit word. -/
def decodeWord (w : Word) : Decoded := checkOperands (decodeRow w)

/-- A 16-bit word. -/
def decodeHalf (h : BitVec 16) : Decoded := checkOperands (.ok (decodeRow16 h))

/-- The first instruction of a list of code bytes and the bytes after it: halfwords are
little-endian, the first halfword holds bits 15 to 0, and bit 0 tells the length (R32). -/
def decode (bytes : List Byte) : Except DecodeError (Instr × List Byte) :=
  match bytes with
  | b0 :: b1 :: rest =>
    if b0.getLsbD 0 then
      match rest with
      | b2 :: b3 :: rest => (decodeWord (b3 ++ b2 ++ b1 ++ b0)).map (·, rest)
      | _ => .error .tooShort
    else (decodeHalf (b1 ++ b0)).map (·, rest)
  | _ => .error .tooShort

/-- Length in bytes of the instruction whose first byte is b (R32). -/
def lengthOf (b : Byte) : Nat := if b.getLsbD 0 then 4 else 2

/-- n bytes of a number, the least significant first. -/
def bytesOfNat (w : Nat) : Nat → List Byte
  | 0 => []
  | n + 1 => BitVec.ofNat 8 w :: bytesOfNat (w / 256) n

/-- The instruction the decoder reads from a word numbered as the opcode table numbers its bits. -/
def decodeTableWord (nbits w : Nat) : Option Instr :=
  match decode (bytesOfNat (w % 2 ^ nbits) (Nat.max 4 (nbits / 8))) with
  | .ok (i, _) => some i
  | .error _ => none

/-- A word of the R format, its fields from bit 31 down (R35, R36). -/
def encR (maj : BitVec 6) (bx : BitVec 6) (ax : BitVec 6) (dx : BitVec 6) (s4x : BitVec 4) (p : PReg) : Word :=
  BitVec.ofNat 32 (1 + maj.toNat * 2 + p.toNat * 2 ^ 7 + s4x.toNat * 2 ^ 10 + dx.toNat * 2 ^ 14 + ax.toNat * 2 ^ 20 + bx.toNat * 2 ^ 26)

/-- A word of the I format, its fields from bit 31 down (R35, R36). -/
def encI (maj : BitVec 6) (immx : BitVec 10) (iax : BitVec 6) (idx : BitVec 6) (p : PReg) : Word :=
  BitVec.ofNat 32 (1 + maj.toNat * 2 + p.toNat * 2 ^ 7 + idx.toNat * 2 ^ 10 + iax.toNat * 2 ^ 16 + immx.toNat * 2 ^ 22)

/-- A word of the M format, its fields from bit 31 down (R35, R36). -/
def encM (maj : BitVec 6) (topx : BitVec 1) (ordx : BitVec 2) (polx : BitVec 2) (fmtx : BitVec 4) (mbx : BitVec 6) (mdx : BitVec 6) (nx : BitVec 1) (p : PReg) : Word :=
  BitVec.ofNat 32 (1 + maj.toNat * 2 + p.toNat * 2 ^ 7 + nx.toNat * 2 ^ 10 + mdx.toNat * 2 ^ 11 + mbx.toNat * 2 ^ 17 + fmtx.toNat * 2 ^ 23 + polx.toNat * 2 ^ 27 + ordx.toNat * 2 ^ 29 + topx.toNat * 2 ^ 31)

/-- A word of the A format, its fields from bit 31 down (R35, R36). -/
def encA (maj : BitVec 6) (bx : BitVec 6) (ax : BitVec 6) (aordx : BitVec 2) (aspx : BitVec 3) (aopx : BitVec 4) (nx : BitVec 1) (p : PReg) : Word :=
  BitVec.ofNat 32 (1 + maj.toNat * 2 + p.toNat * 2 ^ 7 + nx.toNat * 2 ^ 10 + aopx.toNat * 2 ^ 11 + aspx.toNat * 2 ^ 15 + aordx.toNat * 2 ^ 18 + ax.toNat * 2 ^ 20 + bx.toNat * 2 ^ 26)

/-- A word of the E format, its fields from bit 31 down (R35, R36). -/
def encE (maj : BitVec 6) (bx : BitVec 6) (ax : BitVec 6) (hx : BitVec 4) (qx : BitVec 3) (s3x : BitVec 3) (p : PReg) : Word :=
  BitVec.ofNat 32 (1 + maj.toNat * 2 + p.toNat * 2 ^ 7 + s3x.toNat * 2 ^ 10 + qx.toNat * 2 ^ 13 + hx.toNat * 2 ^ 16 + ax.toNat * 2 ^ 20 + bx.toNat * 2 ^ 26)

/-- A word of the X format, its fields from bit 31 down (R35, R36). -/
def encX (maj : BitVec 6) (bx : BitVec 6) (ax : BitVec 6) (bselx : BitVec 2) (xsx : BitVec 1) (bandx : BitVec 3) (s4x : BitVec 4) (p : PReg) : Word :=
  BitVec.ofNat 32 (1 + maj.toNat * 2 + p.toNat * 2 ^ 7 + s4x.toNat * 2 ^ 10 + bandx.toNat * 2 ^ 14 + xsx.toNat * 2 ^ 17 + bselx.toNat * 2 ^ 18 + ax.toNat * 2 ^ 20 + bx.toNat * 2 ^ 26)

/-- A word of the CVT format, its fields from bit 31 down (R35, R36). -/
def encCVT (maj : BitVec 6) (topx : BitVec 1) (rndx : BitVec 3) (t1x : BitVec 3) (t2x : BitVec 3) (iax : BitVec 6) (idx : BitVec 6) (p : PReg) : Word :=
  BitVec.ofNat 32 (1 + maj.toNat * 2 + p.toNat * 2 ^ 7 + idx.toNat * 2 ^ 10 + iax.toNat * 2 ^ 16 + t2x.toNat * 2 ^ 22 + t1x.toNat * 2 ^ 25 + rndx.toNat * 2 ^ 28 + topx.toNat * 2 ^ 31)

/-- A word of the B format, its fields from bit 31 down (R35, R36). -/
def encB (maj : BitVec 6) (o22x : BitVec 22) (p : PReg) : Word :=
  BitVec.ofNat 32 (1 + maj.toNat * 2 + p.toNat * 2 ^ 7 + o22x.toNat * 2 ^ 10)

/-- A word of the J format, its fields from bit 31 down (R35, R36). -/
def encJ (maj : BitVec 6) (o16x : BitVec 16) (idx : BitVec 6) (p : PReg) : Word :=
  BitVec.ofNat 32 (1 + maj.toNat * 2 + p.toNat * 2 ^ 7 + idx.toNat * 2 ^ 10 + o16x.toNat * 2 ^ 16)

/-- A word of the L format (R36). -/
def encL (maj : BitVec 6) (bx : BitVec 6) (ax : BitVec 6) (dx : BitVec 6) (s4x : BitVec 4) (p : PReg) : Word :=
  encR maj bx ax dx s4x p

/-- A clause header (R40). -/
def encHeader (l : BitVec 5) (b a : HReg) (w : BitVec 12) : Word :=
  BitVec.ofNat 32 (1 + w.toNat * 2 ^ 7 + a.toNat * 2 ^ 19 + b.toNat * 2 ^ 23 + l.toNat * 2 ^ 27)

/-- An immediate prefix (R50). -/
def encImmx (x : BitVec 22) : Word := BitVec.ofNat 32 (3 + x.toNat * 2 ^ 7)

/-- A 16-bit word (R33). -/
def enc16 (op : BitVec 4) (i : Bool) (s d : BitVec 5) : BitVec 16 :=
  BitVec.ofNat 16 (op.toNat * 2 + d.toNat * 2 ^ 5 + s.toNat * 2 ^ 10 + i.toNat * 2 ^ 15)

/-- The bytes of a 32-bit word, halfword by halfword, little-endian (R32). -/
def bytes32 (w : Word) : List Byte :=
  [w.extractLsb' 0 8, w.extractLsb' 8 8, w.extractLsb' 16 8, w.extractLsb' 24 8]

/-- The bytes of a 16-bit word (R32). -/
def bytes16 (h : BitVec 16) : List Byte := [h.extractLsb' 0 8, h.extractLsb' 8 8]

/-- The code bytes of an encoded instruction; an event of another agent has none. -/
def encode (i : Instr) : List Byte :=
  match i with
  | .clauseHeader l b a w => bytes32 (encHeader l b a w)
  | .immx x => bytes32 (encImmx x)
  | .nop16 => bytes16 (enc16 0#4 false 0#5 0#5)
  | .mov16 i s d => bytes16 (enc16 0#4 i s d)
  | .add16 i s d => bytes16 (enc16 1#4 i s d)
  | .sub16 i s d => bytes16 (enc16 2#4 i s d)
  | .mul16 i s d => bytes16 (enc16 3#4 i s d)
  | .and16 i s d => bytes16 (enc16 4#4 i s d)
  | .or16 i s d => bytes16 (enc16 5#4 i s d)
  | .xor16 i s d => bytes16 (enc16 6#4 i s d)
  | .shl16 i s d => bytes16 (enc16 7#4 i s d)
  | .shr16 i s d => bytes16 (enc16 8#4 i s d)
  | .sar16 i s d => bytes16 (enc16 9#4 i s d)
  | .min16 i s d => bytes16 (enc16 10#4 i s d)
  | .max16 i s d => bytes16 (enc16 11#4 i s d)
  | .fadd16 i s d => bytes16 (enc16 12#4 i s d)
  | .fmul16 i s d => bytes16 (enc16 13#4 i s d)
  | .fmax16 i s d => bytes16 (enc16 14#4 i s d)
  | .fmin16 i s d => bytes16 (enc16 15#4 i s d)
  | .nop p => bytes32 (encR 0x02#6 0#6 0#6 0#6 0#4 p)
  | .yield p => bytes32 (encR 0x02#6 0#6 0#6 0#6 1#4 p)
  | .exit p => bytes32 (encR 0x02#6 0#6 0#6 0#6 2#4 p)
  | .trap n p => bytes32 (encR 0x02#6 n 0#6 0#6 3#4 p)
  | .tretRetry p => bytes32 (encR 0x02#6 0#6 0#6 0#6 4#4 p)
  | .tretSkip p => bytes32 (encR 0x02#6 1#6 0#6 0#6 4#4 p)
  | .tretJmp a p => bytes32 (encR 0x02#6 2#6 a 0#6 4#4 p)
  | .halt p => bytes32 (encR 0x02#6 0#6 0#6 0#6 5#4 p)
  | .snapc a d p => bytes32 (encR 0x02#6 0#6 a d 6#4 p)
  | .sread a d p => bytes32 (encR 0x02#6 0#6 a d 7#4 p)
  | .crrd a d p => bytes32 (encR 0x02#6 0#6 a d 8#4 p)
  | .crwr a d p => bytes32 (encR 0x02#6 0#6 a d 9#4 p)
  | .sweep b d p => bytes32 (encR 0x02#6 b 0#6 (d.setWidth 6) 10#4 p)
  | .tlbi b a p => bytes32 (encR 0x02#6 b a 0#6 11#4 p)
  | .pgreq a d p => bytes32 (encR 0x02#6 0#6 a (d.setWidth 6) 12#4 p)
  | .pgqry a d p => bytes32 (encR 0x02#6 0#6 a (d.setWidth 6) 13#4 p)
  | .cctlL1evict a d p => bytes32 (encR 0x02#6 0#6 a (d.setWidth 6) 14#4 p)
  | .cctlL2clean a d p => bytes32 (encR 0x02#6 1#6 a (d.setWidth 6) 14#4 p)
  | .cctlL2evict a d p => bytes32 (encR 0x02#6 2#6 a (d.setWidth 6) 14#4 p)
  | .cctlL1flush d p => bytes32 (encR 0x02#6 3#6 0#6 (d.setWidth 6) 14#4 p)
  | .add b a d p => bytes32 (encR 0x03#6 b a d 0#4 p)
  | .sub b a d p => bytes32 (encR 0x03#6 b a d 1#4 p)
  | .mul b a d p => bytes32 (encR 0x03#6 b a d 2#4 p)
  | .mulh b a d p => bytes32 (encR 0x03#6 b a d 3#4 p)
  | .mulhn b a d p => bytes32 (encR 0x03#6 b a d 4#4 p)
  | .and b a d p => bytes32 (encR 0x03#6 b a d 5#4 p)
  | .or b a d p => bytes32 (encR 0x03#6 b a d 6#4 p)
  | .xor b a d p => bytes32 (encR 0x03#6 b a d 7#4 p)
  | .andn b a d p => bytes32 (encR 0x03#6 b a d 8#4 p)
  | .shl b a d p => bytes32 (encR 0x03#6 b a d 9#4 p)
  | .shr b a d p => bytes32 (encR 0x03#6 b a d 10#4 p)
  | .sar b a d p => bytes32 (encR 0x03#6 b a d 11#4 p)
  | .rot b a d p => bytes32 (encR 0x03#6 b a d 12#4 p)
  | .min b a d p => bytes32 (encR 0x03#6 b a d 13#4 p)
  | .max b a d p => bytes32 (encR 0x03#6 b a d 14#4 p)
  | .minn b a d p => bytes32 (encR 0x03#6 b a d 15#4 p)
  | .maxn b a d p => bytes32 (encR 0x04#6 b a d 0#4 p)
  | .abs a d p => bytes32 (encR 0x04#6 0#6 a d 1#4 p)
  | .neg a d p => bytes32 (encR 0x04#6 0#6 a d 2#4 p)
  | .clz a d p => bytes32 (encR 0x04#6 0#6 a d 3#4 p)
  | .popc a d p => bytes32 (encR 0x04#6 0#6 a d 4#4 p)
  | .brev a d p => bytes32 (encR 0x04#6 0#6 a d 5#4 p)
  | .div b a d p => bytes32 (encR 0x04#6 b a d 6#4 p)
  | .rem b a d p => bytes32 (encR 0x04#6 b a d 7#4 p)
  | .divn b a d p => bytes32 (encR 0x04#6 b a d 8#4 p)
  | .remn b a d p => bytes32 (encR 0x04#6 b a d 9#4 p)
  | .sel b a d q => bytes32 (encR 0x04#6 b a d 10#4 q)
  | .mov a d p => bytes32 (encR 0x04#6 0#6 a d 11#4 p)
  | .lea b a d p => bytes32 (encR 0x04#6 b a d 12#4 p)
  | .mad b a d p => bytes32 (encR 0x05#6 b a d 0#4 p)
  | .bfe b a d p => bytes32 (encR 0x06#6 b a d 0#4 p)
  | .bfi b a d p => bytes32 (encR 0x06#6 b a d 1#4 p)
  | .cmp b a d c p => bytes32 (encR 0x07#6 b a (d.setWidth 6) (condCode c) p)
  | .cmpn b a d c p => bytes32 (encR 0x08#6 b a (d.setWidth 6) (condCode c) p)
  | .fcmp b a d c p => bytes32 (encR 0x09#6 b a (d.setWidth 6) (fcondCode c) p)
  | .addi i a d p => bytes32 (encI 0x0a#6 i a d p)
  | .andi i a d p => bytes32 (encI 0x0b#6 i a d p)
  | .ori i a d p => bytes32 (encI 0x0c#6 i a d p)
  | .xori i a d p => bytes32 (encI 0x0d#6 i a d p)
  | .shli i a d p => bytes32 (encI 0x0e#6 i a d p)
  | .shri i a d p => bytes32 (encI 0x0f#6 i a d p)
  | .sari i a d p => bytes32 (encI 0x10#6 i a d p)
  | .movi i d p => bytes32 (encI 0x11#6 i 0#6 d p)
  | .cmpi i a c t p => bytes32 (encI 0x12#6 i a (icondCode c ++ t) p)
  | .pand b a d p => bytes32 (encR 0x13#6 (b.setWidth 6) (a.setWidth 6) (d.setWidth 6) 0#4 p)
  | .por b a d p => bytes32 (encR 0x13#6 (b.setWidth 6) (a.setWidth 6) (d.setWidth 6) 1#4 p)
  | .pxor b a d p => bytes32 (encR 0x13#6 (b.setWidth 6) (a.setWidth 6) (d.setWidth 6) 2#4 p)
  | .pnot a d p => bytes32 (encR 0x13#6 0#6 (a.setWidth 6) (d.setWidth 6) 3#4 p)
  | .pmov a d p => bytes32 (encR 0x13#6 0#6 (a.setWidth 6) (d.setWidth 6) 4#4 p)
  | .p2g d p => bytes32 (encR 0x13#6 0#6 0#6 d 5#4 p)
  | .g2p b a p => bytes32 (encR 0x13#6 b a 0#6 6#4 p)
  | .mand b a d p => bytes32 (encR 0x13#6 b (a.setWidth 6) (d.setWidth 6) 7#4 p)
  | .mor b a d p => bytes32 (encR 0x13#6 b (a.setWidth 6) (d.setWidth 6) 8#4 p)
  | .mpop a d p => bytes32 (encR 0x13#6 0#6 (a.setWidth 6) d 9#4 p)
  | .mtst n a d p => bytes32 (encR 0x13#6 (n.setWidth 6) (a.setWidth 6) (d.setWidth 6) 10#4 p)
  | .uAdd b a d p => bytes32 (encR 0x14#6 b a d 0#4 p)
  | .uSub b a d p => bytes32 (encR 0x14#6 b a d 1#4 p)
  | .uMul b a d p => bytes32 (encR 0x14#6 b a d 2#4 p)
  | .uMulh b a d p => bytes32 (encR 0x14#6 b a d 3#4 p)
  | .uMulhn b a d p => bytes32 (encR 0x14#6 b a d 4#4 p)
  | .uAnd b a d p => bytes32 (encR 0x14#6 b a d 5#4 p)
  | .uOr b a d p => bytes32 (encR 0x14#6 b a d 6#4 p)
  | .uXor b a d p => bytes32 (encR 0x14#6 b a d 7#4 p)
  | .uAndn b a d p => bytes32 (encR 0x14#6 b a d 8#4 p)
  | .uShl b a d p => bytes32 (encR 0x14#6 b a d 9#4 p)
  | .uShr b a d p => bytes32 (encR 0x14#6 b a d 10#4 p)
  | .uSar b a d p => bytes32 (encR 0x14#6 b a d 11#4 p)
  | .uRot b a d p => bytes32 (encR 0x14#6 b a d 12#4 p)
  | .uMin b a d p => bytes32 (encR 0x14#6 b a d 13#4 p)
  | .uMax b a d p => bytes32 (encR 0x14#6 b a d 14#4 p)
  | .uMinn b a d p => bytes32 (encR 0x14#6 b a d 15#4 p)
  | .uMaxn b a d p => bytes32 (encR 0x15#6 b a d 0#4 p)
  | .uAbs a d p => bytes32 (encR 0x15#6 0#6 a d 1#4 p)
  | .uNeg a d p => bytes32 (encR 0x15#6 0#6 a d 2#4 p)
  | .uClz a d p => bytes32 (encR 0x15#6 0#6 a d 3#4 p)
  | .uPopc a d p => bytes32 (encR 0x15#6 0#6 a d 4#4 p)
  | .uBrev a d p => bytes32 (encR 0x15#6 0#6 a d 5#4 p)
  | .usel b a d q => bytes32 (encR 0x15#6 b a d 10#4 q)
  | .uMov a d p => bytes32 (encR 0x15#6 0#6 a d 11#4 p)
  | .uLea b a d p => bytes32 (encR 0x15#6 b a d 12#4 p)
  | .s2g a d p => bytes32 (encR 0x15#6 0#6 a d 13#4 p)
  | .g2s a d p => bytes32 (encR 0x15#6 0#6 a d 14#4 p)
  | .fadd b a d p => bytes32 (encR 0x16#6 b a d 0#4 p)
  | .fsub b a d p => bytes32 (encR 0x16#6 b a d 1#4 p)
  | .fmul b a d p => bytes32 (encR 0x16#6 b a d 2#4 p)
  | .fmin b a d p => bytes32 (encR 0x16#6 b a d 3#4 p)
  | .fmax b a d p => bytes32 (encR 0x16#6 b a d 4#4 p)
  | .fabs a d p => bytes32 (encR 0x16#6 0#6 a d 5#4 p)
  | .fneg a d p => bytes32 (encR 0x16#6 0#6 a d 6#4 p)
  | .fdiv b a d p => bytes32 (encR 0x16#6 b a d 7#4 p)
  | .fsqrt a d p => bytes32 (encR 0x16#6 0#6 a d 8#4 p)
  | .frcp a d p => bytes32 (encR 0x16#6 0#6 a d 9#4 p)
  | .frsq a d p => bytes32 (encR 0x16#6 0#6 a d 10#4 p)
  | .fexp2 a d p => bytes32 (encR 0x16#6 0#6 a d 11#4 p)
  | .flog2 a d p => bytes32 (encR 0x16#6 0#6 a d 12#4 p)
  | .fsin a d p => bytes32 (encR 0x16#6 0#6 a d 13#4 p)
  | .fcos a d p => bytes32 (encR 0x16#6 0#6 a d 14#4 p)
  | .ftanh a d p => bytes32 (encR 0x16#6 0#6 a d 15#4 p)
  | .ffma b a d p => bytes32 (encR 0x17#6 b a d 0#4 p)
  | .fflr a d p => bytes32 (encR 0x18#6 0#6 a d 0#4 p)
  | .fceil a d p => bytes32 (encR 0x18#6 0#6 a d 1#4 p)
  | .frnd a d p => bytes32 (encR 0x18#6 0#6 a d 2#4 p)
  | .ftrc a d p => bytes32 (encR 0x18#6 0#6 a d 3#4 p)
  | .randSeed a d p => bytes32 (encR 0x18#6 0#6 a d 4#4 p)
  | .randDraw d p => bytes32 (encR 0x18#6 1#6 0#6 d 4#4 p)
  | .cvt z r t u a d p => bytes32 (encCVT 0x19#6 (BitVec.ofBool z) (roundingCode r) (cvtTypeCode t) (cvtTypeCode u) a d p)
  | .hadd2 b a d p => bytes32 (encR 0x1a#6 b a d 0#4 p)
  | .hmul2 b a d p => bytes32 (encR 0x1a#6 b a d 1#4 p)
  | .hfma2 b a d p => bytes32 (encR 0x1a#6 b a d 2#4 p)
  | .hmax2 b a d p => bytes32 (encR 0x1a#6 b a d 3#4 p)
  | .hmin2 b a d p => bytes32 (encR 0x1a#6 b a d 4#4 p)
  | .badd2 b a d p => bytes32 (encR 0x1a#6 b a d 5#4 p)
  | .bmul2 b a d p => bytes32 (encR 0x1a#6 b a d 6#4 p)
  | .bfma2 b a d p => bytes32 (encR 0x1a#6 b a d 7#4 p)
  | .qmax b a d p => bytes32 (encR 0x1b#6 b a d 0#4 p)
  | .qscl b a d p => bytes32 (encR 0x1b#6 b a d 1#4 p)
  | .qpack b a d p => bytes32 (encR 0x1b#6 b a d 2#4 p)
  | .qunpk b a d p => bytes32 (encR 0x1b#6 b a d 3#4 p)
  | .idp4 b a d p => bytes32 (encR 0x1b#6 b a d 4#4 p)
  | .bra o p => bytes32 (encB 0x1c#6 o p)
  | .braU o p => bytes32 (encB 0x1d#6 o p)
  | .call o d p => bytes32 (encJ 0x1e#6 o d p)
  | .jmpr a p => bytes32 (encR 0x1f#6 0#6 a 0#6 0#4 p)
  | .callr a d p => bytes32 (encR 0x1f#6 0#6 a d 1#4 p)
  | .ret a p => bytes32 (encR 0x1f#6 0#6 a 0#6 2#4 p)
  | .meet a p => bytes32 (encR 0x1f#6 0#6 a 0#6 3#4 p)
  | .meetClr p => bytes32 (encR 0x1f#6 1#6 0#6 0#6 3#4 p)
  | .ldP o f b d p => bytes32 (encM 0x20#6 0#1 (ordCode o) 0#2 (fmtCode f) b d 0#1 p)
  | .ldS o f b d p => bytes32 (encM 0x21#6 0#1 (ordCode o) 0#2 (fmtCode f) b d 0#1 p)
  | .ldC o f b d p => bytes32 (encM 0x22#6 0#1 (ordCode o) 0#2 (fmtCode f) b d 0#1 p)
  | .ldW o f b d p => bytes32 (encM 0x23#6 0#1 (ordCode o) 0#2 (fmtCode f) b d 0#1 p)
  | .ldG o l f b d n p => bytes32 (encM 0x24#6 0#1 (ordCode o) (polCode l) (fmtCode f) b d (BitVec.ofBool n) p)
  | .stP o f b d p => bytes32 (encM 0x25#6 0#1 (ordCode o) 0#2 (fmtCode f) b d 0#1 p)
  | .stS o f b d p => bytes32 (encM 0x26#6 0#1 (ordCode o) 0#2 (fmtCode f) b d 0#1 p)
  | .stC o f b d p => bytes32 (encM 0x27#6 0#1 (ordCode o) 0#2 (fmtCode f) b d 0#1 p)
  | .stW o f b d p => bytes32 (encM 0x28#6 0#1 (ordCode o) 0#2 (fmtCode f) b d 0#1 p)
  | .stG o l f b d p => bytes32 (encM 0x29#6 0#1 (ordCode o) (polCode l) (fmtCode f) b d 0#1 p)
  | .ldb e a d f p => bytes32 (encL 0x2a#6 e a d (fmtCode f) p)
  | .atom b d o s c p => bytes32 (encA 0x2b#6 b d (ordCode o) (spaceCode s) (atomOpCode c) 0#1 p)
  | .red b d o s c p => bytes32 (encA 0x2c#6 b d (ordCode o) (spaceCode s) (atomOpCode c) 0#1 p)
  | .fence s k p => bytes32 (encR 0x2d#6 0#6 ((scopeCode s).setWidth 6) ((fenceKindCode k).setWidth 6) 0#4 p)
  | .pref a t p => bytes32 (encR 0x2d#6 0#6 a ((prefTargetCode t).setWidth 6) 1#4 p)
  | .tsld b a q p => bytes32 (encE 0x2e#6 (b.setWidth 6) a 0#4 (spaceCode q) 0#3 p)
  | .tsev b p => bytes32 (encE 0x2e#6 (b.setWidth 6) 0#6 0#4 0#3 1#3 p)
  | .tsq b a h q p => bytes32 (encE 0x2e#6 (b.setWidth 6) a h ((BitVec.ofBool q).setWidth 3) 2#3 p)
  | .cpy a h s p => bytes32 (encE 0x2f#6 0#6 a h (scopeCode s) 0#3 p)
  | .cpyt b a h s p => bytes32 (encE 0x2f#6 b a h (scopeCode s) 1#3 p)
  | .cpys b a h s p => bytes32 (encE 0x2f#6 b a h (scopeCode s) 2#3 p)
  | .cpyo b a h s p => bytes32 (encE 0x2f#6 b a h (scopeCode s) 3#3 p)
  | .cpyr b a h s p => bytes32 (encE 0x2f#6 b a h (scopeCode s) 4#3 p)
  | .job a h s p => bytes32 (encE 0x2f#6 0#6 a h (scopeCode s) 5#3 p)
  | .waith a h p => bytes32 (encE 0x30#6 0#6 a h 0#3 0#3 p)
  | .testh b h c p => bytes32 (encE 0x30#6 (b.setWidth 6) 0#6 h (hcondCode c) 1#3 p)
  | .movh a h p => bytes32 (encE 0x30#6 0#6 (a.setWidth 6) h 0#3 2#3 p)
  | .cancel h p => bytes32 (encE 0x30#6 0#6 0#6 h 0#3 3#3 p)
  | .hsave a h s p => bytes32 (encE 0x30#6 0#6 a h (spaceCode s) 4#3 p)
  | .hrest a h s p => bytes32 (encE 0x30#6 0#6 a h (spaceCode s) 5#3 p)
  | .bufq b a p => bytes32 (encE 0x30#6 b a 0#4 0#3 6#3 p)
  | .bufrel b p => bytes32 (encE 0x30#6 b 0#6 0#4 0#3 7#3 p)
  | .barinit b a p => bytes32 (encR 0x31#6 b a 0#6 0#4 p)
  | .bararv a d p => bytes32 (encR 0x31#6 0#6 a d 1#4 p)
  | .barexp b a p => bytes32 (encR 0x31#6 b a 0#6 2#4 p)
  | .barwait b a p => bytes32 (encR 0x31#6 b a 0#6 3#4 p)
  | .bartest b a d p => bytes32 (encR 0x31#6 b a (d.setWidth 6) 4#4 p)
  | .bardrop a p => bytes32 (encR 0x31#6 0#6 a 0#6 5#4 p)
  | .sstep d p => bytes32 (encR 0x31#6 0#6 0#6 d 6#4 p)
  | .rdv b a d p => bytes32 (encR 0x31#6 b a d 7#4 p)
  | .launch a d p => bytes32 (encR 0x32#6 0#6 a d 0#4 p)
  | .mrsv d p => bytes32 (encR 0x33#6 0#6 0#6 (d.setWidth 6) 0#4 p)
  | .mrel p => bytes32 (encR 0x33#6 0#6 0#6 0#6 1#4 p)
  | .mzero w n d p => bytes32 (encR 0x33#6 ((BitVec.ofBool w ++ n).setWidth 6) 0#6 (d.setWidth 6) 2#4 p)
  | .mstat n d p => bytes32 (encR 0x33#6 n 0#6 d 3#4 p)
  | .mmaHBf16 b a n c p => bytes32 (encX 0x34#6 b a 0#2 0#1 n c p)
  | .mmaHF16 b a n c p => bytes32 (encX 0x34#6 b a 0#2 1#1 n c p)
  | .mmaQE4m3 b a s n c p => bytes32 (encX 0x35#6 b a ((BitVec.ofBool s).setWidth 2) 0#1 n c p)
  | .mmaQE5m2 b a s n c p => bytes32 (encX 0x35#6 b a ((BitVec.ofBool s).setWidth 2) 1#1 n c p)
  | .mmaNRb4 b a n c p => bytes32 (encX 0x36#6 b a 0#2 0#1 n c p)
  | .mmaNI8 b a s n c p => bytes32 (encX 0x36#6 b a ((BitVec.ofBool s).setWidth 2) 1#1 n c p)
  | .mld a n c p => bytes32 (encX 0x37#6 0#6 a 0#2 0#1 n c p)
  | .mst a s n c p => bytes32 (encX 0x37#6 0#6 a (mstFmtCode s) 1#1 n c p)
  | _ => []

/-- Has the instruction an encoding: the rows of R52; the other rows are steps of other agents. -/
def Instr.encoded (i : Instr) : Bool := encode i != []

end Sys2Proof
end

