-- ==== Sys2Proof/Config.lean ====
section
/-! DEFINITION. What the spec leaves free: constants with no body, so that no proof sees their value
(logs 9, 10, 19), and the fixed figures of the part (R3, R15 to R18, R342). -/

namespace Sys2Proof.Config

/-- Free choice number n: which of several candidates the module takes (log 9). -/
opaque freeNat : Nat → Nat
/-- Free bytes number n: what memory holds where the spec leaves its content open (log 9). -/
opaque freeByte : Nat → Byte
/-- The bytes of a lifetime record's header before its signature, by their place: they give SEQ, the boot count, the
power-on hours and GOODCORE_HASH (R418, log 9). -/
opaque lifeHeader : Nat → Nat → Nat → BitVec 384 → Nat → Byte
/-- Hash of a physical line address that chooses a port (R438, log 9). -/
opaque portHash : Nat → Nat
/-- The hallmark key that the module draws at boot for each domain (R149, log 19). -/
opaque domainKey : Nat → Nat → BitVec 128
/-- The ML-DSA-65 signature of a message under a key (R418, R448, R450, log 19). -/
opaque mlDsaSign : Nat → List Byte → List Byte
/-- Is a signature the ML-DSA-65 signature of a message under a public key (R448, log 19). -/
opaque mlDsaVerify : List Byte → List Byte → List Byte → Bool

/-- Ticks of 125 ps in one core cycle of 0.625 ns (R3). -/
def cycle : Nat := 5
/-- Ticks in one nanosecond (R3). -/
def nano : Nat := 8
/-- Ticks in one carousel slot of 4 ns (R3). -/
def slotTime : Nat := 32
/-- Thread slots of a core (R342). -/
def threadSlots : Nat := 2048
/-- Cores built on the module (R18). -/
def coreCount : Nat := 8192
/-- Clusters, vaults, L2 slices and banks (R17). -/
def clusterCount : Nat := 256

end Sys2Proof.Config
end

