-- ==== Sys2Proof/Machine/State.lean ====
section
/-! DEFINITION. The state of the module as plain data, and the state right after power-on. -/

namespace Sys2Proof.Machine

/-- Bytes of memory by address, addresses rising, no entry zero (log 5). -/
abbrev Memory := List (Nat × Byte)

/-- Records by number, numbers rising. -/
abbrev SMap (α : Type) := List (Nat × α)

/-- The causes of R400. -/
inductive Cause where
  | illegalOp | priv | align | pageAbsent | perm | eccUncorr | handleBad | bufState
  | barOverflow | mrsvNone | divHint | watchdog | remoteTimeout | swtrap
deriving DecidableEq, Repr

/-- What a raised trap reports besides the instruction (R403). -/
structure TrapInfo where
  cause : Cause
  info  : Nat := 0
  addr  : Option Nat := none
  space : Option Space := none
  write : Bool := false
  defer : Bool := false
deriving DecidableEq, Repr

/-- A clause the thread is in (R40, R41): the header's address, its end, its flags, and the body. -/
structure Clause where
  header : DWord
  stop   : DWord
  setA   : HReg
  setB   : HReg
  body   : List Byte
deriving DecidableEq, Repr

/-- A byte position in a thread's private slice, in a workgroup's scratch allocation or in wafer scratchpad
(R209). A thread is named by its workgroup and linear index. -/
inductive Local where
  | slice (wg lin off : Nat)
  | scratch (wg off : Nat)
  | wafer (off : Nat)
deriving DecidableEq, Repr

/-- The kinds of instruction R406 tells apart. -/
inductive ResumeKind where
  | body | transfer | header | deferred | divHint
deriving DecidableEq, Repr

/-- T.resume (R404): the clause the trap interrupted and where retry and skip go on. -/
structure Resume where
  kind    : ResumeKind
  clause  : Option Clause
  retryPc : DWord
  skipPc  : DWord
deriving DecidableEq, Repr

/-- Why a thread does not go on (R349): busy is a table walk, a fetch or a home that is not ready; step is an SSTEP that has
yet to count. -/
inductive WaitReason where
  | mask | handle | entry | barrier | step | superstep | rendezvous | engineQueue | backoff
  | busy | flagFull | jobTable | recordQueue | acks | fence | order | tret | exitFlags | pinLimit
deriving DecidableEq, Repr

/-- A register a counted operation writes when it completes (R45). -/
inductive RegWrite where
  | g (r : Reg) (v : Word)
  | p (r : PReg) (v : Bool)
deriving DecidableEq, Repr

/-- A counted operation in flight (R45, R48). -/
structure Flight where
  /-- the flag it counts on -/
  flag    : Nat
  /-- the results once they are known -/
  result  : Option (List RegWrite)
  /-- the pending accesses that still have to supply them, and the bytes that the others have, by offset (R152) -/
  access  : List Nat := []
  got     : SMap (List Byte) := []
  /-- the bit it shifts into m7, for a non-faulting load (R221) -/
  shift   : Option Bool := none
  /-- it is a non-faulting load, whose shifts keep issue order (R222) -/
  nf      : Bool := false
  /-- the buffer entry an LDB reads (R224) -/
  entry   : Option Nat := none
  /-- a trap ends it instead of a result (R45, R438) -/
  trap    : Option TrapInfo := none
  /-- where that trap resumes: at the instruction (R406); none for a deferred trap, which resumes where it is taken -/
  resume  : Option Resume := none
  /-- the instruction that issued it -/
  pc      : DWord := 0
  /-- it was issued while TA was 1 (R406) -/
  inTrap  : Bool := false
deriving DecidableEq, Repr

/-- Who has a home read or write bytes, apart from a thread's loads and stores and a job's pieces: a thread or a job
whose translation walks the tables, or a thread whose instruction reads bytes whole (R104, R109); an entry of a core's
page-request table (R114); the launch unit's reads (R381), its writes of a completion record that it waits for, by queue
for a refusal or by 64 + launch (R381, R397), and those that it does not wait for (R397); the loader (R449); page
retirement (R443); the host over a link (R440); and another module (R133). -/
inductive Asker where
  | thread (k : Nat)
  | job (core entry : Nat)
  | request (core entry : Nat)
  | unit
  | record (key : Nat)
  | posted
  | loader
  | retire (vault : Nat)
  | host (link : Nat)
  | other (module core : Nat)
deriving DecidableEq, Repr

/-- What an access that an asker has made gave: the bytes read or replaced, or the error that it met. -/
structure Reply where
  who   : Asker
  asid  : Nat
  pa    : Nat
  size  : Nat
  write : Bool
  err   : Option (Cause × Nat)
  bytes : List Byte
deriving DecidableEq, Repr

/-- An access that has issued and is not yet performed (R126, R131, R133, R158). -/
inductive AccessOp where
  | load (f : Fmt) (d : Reg)
  | store (data : List Byte)
  | atom (c : AtomOp) (d : Reg) (operand : List Word)
  | red (c : AtomOp) (operand : List Word)
  /-- the read of a piece of a job (R255), or of an operand line of an engine item (R327) -/
  | piece (index : Nat)
  /-- an L2CLEAN or L2EVICT of a remote line (R237) -/
  | cctl (service : Nat)
  /-- an asker's read, its write, and its write of new bytes in place of old ones (R114) -/
  | read (who : Asker)
  | write (who : Asker) (data : List Byte)
  | swap (who : Asker) (old new : List Byte)
  /-- a job's store of one 4-bit code in its byte (R247, R262) -/
  | code (high : Bool) (v : Byte)
  /-- an atomic that another module asks for (R133, R229) -/
  | update (who : Asker) (c : AtomOp) (operand : List Word)
deriving DecidableEq, Repr

/-- A pending access: who made it, where, and how (R126, R131, R133). -/
structure Access where
  thread : Nat
  wg     : Nat
  /-- linear index of the thread -/
  lin    : Nat := 0
  core   : Nat
  pa     : Nat
  size   : Nat
  va     : Nat
  asid   : Nat
  dom    : Nat
  pol    : Pol
  ord    : MOrd
  op     : AccessOp
  /-- the line belongs to another module (R133) -/
  remote : Bool := false
  /-- its sequence number among the core's accesses of the remote line (R167) -/
  seq    : Nat := 0
  /-- tick at which it became pending, for the fabric timeout (R166) and R407 -/
  sent   : Nat := 0
  /-- the port by which it went (R438) -/
  port   : Option Nat := none
  /-- table entry of the job it belongs to, 64 for the tile fetch unit, 65 for an asker (R133, R165, R170) -/
  job    : Option Nat := none
  /-- the bytes it touches in a scratchpad; then pa says nothing (R158) -/
  place  : Option Local := none
  /-- scope of its order (R155) -/
  scope  : Scope := .pod
  /-- its offset among the 8-byte pieces of one instruction's access (R152) -/
  part   : Nat := 0
  /-- an event that a fence or an ordered access of this scope puts after it has not waited for it: threads within
  the scope make no access until it is performed (R163) -/
  guard  : Option Scope := none
  /-- instruction that made it, and its clause -/
  pc     : DWord := 0
  clause : Option Clause := none
  /-- T.retry of its thread as it issued, for one that fails later (R407) -/
  tries  : Nat := 0
deriving DecidableEq, Repr

/-- Where a deferred trap is taken: at the first clause header that waits on a flag (R325), at the next
wait on the acknowledgement counter (R166), or at the next clause boundary (R414); at EXIT in any case. -/
inductive DuePoint where
  | flag (n : Nat)
  | counter
  | boundary
deriving DecidableEq, Repr

/-- A trap to be taken at a later point (R166, R325, R414). -/
structure Deferred where
  trap : TrapInfo
  pc   : DWord
  due  : DuePoint
deriving DecidableEq, Repr

/-- The thread takes part, has left, or is stopped for good (R409, R411). -/
inductive RunState where
  | running | halted
deriving DecidableEq, Repr

/-- A thread (R25, R343, R401, R404, R415). -/
structure Thread where
  wg        : Nat
  lin       : Nat
  g         : Vector Word 64
  p         : Vector Bool 8
  m         : Vector Byte 8
  h         : Vector Word 16
  f         : Vector Nat 12
  pc        : DWord
  /-- the clause it is in; none at a clause boundary -/
  clause    : Option Clause
  /-- it has re-entered the body and fetches the rest of the clause afresh (R109) -/
  refetch   : Bool
  /-- payload of the immediate prefix just executed (R51) -/
  immx      : Option (BitVec 22)
  meet      : Option DWord
  /-- cycle in which it entered a meeting hold (R357) -/
  held      : Option Nat
  sstep     : Nat
  rng       : Word
  ta        : Bool
  resume    : Option Resume
  trapCause : DWord
  trapAddr  : DWord
  trapTid   : Word
  retry     : Nat
  /-- cycle in which a backoff wait ends (R407) -/
  backoff   : Option Nat
  deferred  : List Deferred
  run       : RunState
  /-- what it waits for and since when (R349, R413) -/
  wait      : Option (WaitReason × Nat)
  /-- a BARWAIT that waits on an object and has not seen a completion (false) or has (true) (R366) -/
  woken     : Option (Local × Bool)
  inflight  : List Flight
  /-- a FENCE that holds its later memory instructions (R232) -/
  fence     : Option (Scope × FenceKind)
  /-- the partner, value and destination of its posted RDV (R371) -/
  rdv       : Option (Nat × Word × Reg)
  /-- YIELD: cycle since which it stands back (R409) -/
  yielded   : Option Nat
  /-- cycle since which its next instruction has been ready; none while it waits (R350) -/
  ready     : Option Nat
  /-- number of the issue it last took part in; none for a thread that is a troupe of its own (R345) -/
  troupe    : Option Nat
  /-- tick of the last instruction it issued (R413) -/
  issued    : Nat
  /-- pages that the run of non-faulting loads it stands in has found absent (R471; log 81) -/
  absents   : List Nat
deriving DecidableEq, Repr

/-- Status of a job number (R242, R266). -/
inductive JobStatus where
  | pending | done | cancelled | faulted | refused | denied
deriving DecidableEq, Repr

/-- A job number of a workgroup (R241 to R244). -/
structure JobNum where
  gen    : Nat
  status : JobStatus
  /-- a fault recorded with the job, and the instruction that issued it -/
  trap   : Option TrapInfo
  /-- a WAITH has raised the fault -/
  seen   : Bool
  /-- linear index of the issuing thread, and its instruction -/
  lin    : Nat
  pc     : DWord
  /-- place in the order of completion; 0 before the first -/
  ended  : Nat
deriving DecidableEq, Repr

/-- What a workgroup takes from its queue's binding (R377, R402). -/
structure Binding where
  queue   : Nat
  asid    : Nat
  ptbase  : Nat
  hashdom : Nat
  grantLo : Nat
  grantHi : Nat
  lead    : Nat
  tvec    : DWord
  trapen  : Word
  super   : Bool
  deven   : Bool
  devq    : Nat
deriving DecidableEq, Repr

/-- Coordinates of a workgroup in its launch (R382). -/
structure Coords where
  launch : Nat
  x      : Nat
  y      : Nat
  z      : Nat
  stage  : Nat
  linear : Nat
  rank   : Nat
  /-- number of its cluster group in the launch -/
  group  : Nat
deriving DecidableEq, Repr

/-- Sizes a launch declares (R379). -/
structure Sizes where
  gridX   : Nat
  gridY   : Nat
  gridZ   : Nat
  stages  : Nat
  wgX     : Nat
  wgY     : Nat
  wgZ     : Nat
  regs    : Nat
  slice   : Nat
  scratch : Nat
  window  : Nat
  cgsize  : Nat
  heat    : Nat
deriving DecidableEq, Repr

/-- A control register write that waits for the writer's next clause boundary (R403). -/
structure CrWrite where
  thread : Nat
  reg    : Nat
  value  : DWord
deriving DecidableEq, Repr

/-- A value of a uniform register that a thread may still read (R296). -/
structure StaleUniform where
  reg     : Reg
  value   : Word
  /-- linear indices of the threads that have not reached a clause boundary since the write -/
  readers : List Nat
deriving DecidableEq, Repr

/-- Where a workgroup stands (R272, R388, R391, R414): ended by a kill while it was saved, or gone, with its window
kept for the others of its group (R211). -/
inductive WgPhase where
  | placed | running | saving | saved | ended | gone
deriving DecidableEq, Repr

/-- A buffer entry's state (R251). -/
inductive BufState where
  | free | filling | full | draining
deriving DecidableEq, Repr

/-- A buffer entry (R251). -/
structure BufEntry where
  st      : BufState
  owner   : Nat
  base    : Nat
  extent  : Nat
  ldbs    : Nat
  cpyos   : Nat
  release : Bool
deriving DecidableEq, Repr

/-- A shape slot: its 64-byte record and its owner (R245, R246). -/
structure ShapeSlot where
  owner : Nat
  bytes : List Byte
deriving DecidableEq, Repr

/-- A place in one of the spaces, as a job or a descriptor names it. -/
structure Loc where
  space : Space
  addr  : Nat
deriving DecidableEq, Repr

/-- A region of a footprint (R263). -/
structure Region where
  space : Space
  addr  : Nat
  len   : Nat
deriving DecidableEq, Repr

/-- What a job combines (R254, R261). -/
inductive CombineType where
  | f32 | bf16 | i32
deriving DecidableEq, Repr
inductive CombineOp where
  | add | max | min
deriving DecidableEq, Repr

/-- One piece of a job: it writes the bytes got from its sources (R259 to R264). -/
inductive JobWork where
  /-- CPY and the COPY card -/
  | copy (src dst : Loc) (len : Nat)
  /-- the REDUCE card -/
  | reduce (src0 src1 dst : Loc) (len : Nat) (t : CombineType) (o : CombineOp)
  /-- the FILL card -/
  | fill (pattern : Word) (dst : Loc) (len : Nat)
  /-- CPYT (dense) and CPYS (sparse): record, coordinates, region base -/
  | boxIn (rec : List Byte) (coords : List Int) (base : Nat)
  /-- CPYR -/
  | boxReduce (rec : List Byte) (coords : List Int) (base : Nat) (t : CombineType) (o : CombineOp)
  /-- CPYO: record, coordinates, scratch offset read -/
  | boxOut (rec : List Byte) (coords : List Int) (base : Nat)
  /-- a chunk armed in the receive table (R265) -/
  | arm (dst : Loc) (len : Nat)
  /-- an exit-bound collective reduction (R395) -/
  | collect (src dst : Loc) (len : Nat) (t : CombineType)
  /-- a page request served elsewhere (R112) -/
  | page
  /-- a sweep or CCTL served elsewhere (R116, R237) -/
  | service
deriving DecidableEq, Repr

/-- The synchronisation of a job (R256): none, a barrier object, or a chunk flag. -/
inductive JobSync where
  | none
  | barrier (at_ : Loc)
  | flag (offset : Nat)
deriving DecidableEq, Repr

/-- What a job gathers of one line that it writes: the line's physical and virtual address, the number for which a sweep
waits until the bytes are sent (R116), and the masked bytes by offset (R135, R255). -/
structure Gather where
  pa    : Nat
  va    : Nat
  id    : Nat
  bytes : SMap Byte
deriving DecidableEq, Repr

/-- A job in a core's table (R241, R258). -/
structure Job where
  wg      : Nat
  num     : Nat
  order   : Nat
  work    : JobWork
  scope   : Scope
  sync    : JobSync
  stream  : Bool
  reads   : List Region
  write   : Option Region
  /-- the buffer entry it fills or drains -/
  entry   : Option Nat
  asid    : Nat
  ptbase  : Nat
  dom     : Nat
  super   : Bool
  lin     : Nat
  pc      : DWord
  /-- leading 8-byte pieces done, and how many there are -/
  done    : Nat
  pieces  : Nat
  /-- bytes counted but not yet applied to the barrier object -/
  toCount : Nat
  fault   : Option TrapInfo
  /-- a count marked the job (R256) -/
  marked  : Bool
  cancel  : Bool
  /-- bytes of the last piece whose writes may still be pending (R171) -/
  owed    : Nat
  /-- what the piece under way has read from other modules, by virtual address -/
  got     : List (Nat × List Byte)
  /-- the line of vault memory that it gathers (R255) -/
  line    : Option Gather
  /-- the lines of the broadcast window that it gathers, each for one transaction (R135) -/
  windows : List Gather := []
  /-- recorded at a pre-emption (R270) -/
  saved   : Bool
deriving DecidableEq, Repr

/-- A chunk armed in the module's receive table (R265). -/
structure Chunk where
  /-- workgroup and job number of the ARM; none for a chunk of a launch (R394) -/
  handle : Option (Nat × Nat)
  /-- the watched range: the space, and the first byte and length of each part, physical in G -/
  space  : Space
  parts  : List (Nat × Nat)
  /-- bytes expected, and bytes still to arrive -/
  length : Nat
  left   : Nat
  sync   : JobSync
  launch : Option Nat
deriving DecidableEq, Repr

/-- A matrix multiply of one thread (R322 to R324). -/
inductive MmaKind where
  | bf16 | f16 | e4m3 | e5m2 | rb4 | i8
deriving DecidableEq, Repr

/-- Where a line of a matrix operand lies, as translated and checked at issue (R324): 128 bytes at a place
in a scratchpad, in a vault of this module, in the broadcast window, or in another module. -/
inductive Operand where
  | scratch (wg off : Nat)
  | wafer (off : Nat)
  | window (w : Nat)
  | vault (a va : Nat)
  | remote (pa va : Nat)
deriving DecidableEq, Repr

/-- A member of a pass (R324, R326). -/
structure Member where
  thread : Nat
  pc     : DWord
  flag   : Nat
  tile   : Nat
  band   : Nat
  /-- the places of A's lines, in order -/
  a      : List Operand
  scales : List Word
  /-- the trap of an operand line that could not be read, which cancels the member (R325) -/
  bad    : Option TrapInfo
  aData  : List Byte
  /-- the address space that A was translated in (R116, R324) -/
  asid   : Nat := 0
deriving DecidableEq, Repr

/-- An item of the engine queue (R316). -/
inductive ItemKind where
  | pass | zero | load | store
deriving DecidableEq, Repr

structure Item where
  id      : Nat
  kind    : ItemKind
  /-- a pass: its key (R326): the B descriptor without BOFS, major and sub, bsel -/
  mma     : MmaKind
  bsel    : Bool
  bKey    : Nat × Nat
  b       : List Operand
  members : List Member
  opened  : Nat
  closed  : Bool
  staged  : Bool
  started : Option Nat
  bBad    : Option TrapInfo
  bData   : List Byte
  /-- tick at which it was first found ready, and the number of tests made (R334) -/
  ready   : Option Nat
  tests   : Nat
  /-- data entries pinned for it -/
  pins    : List Nat
  /-- lines of this module's vaults whose BYPR has been performed for it (R134) -/
  brought : List Nat := []
  /-- those of them whose read has met an error, with its INFO (R325) -/
  lost    : List (Nat × Nat) := []
  /-- lines read from other modules by physical address; no bytes for one that timed out -/
  got     : List (Nat × List Byte)
  /-- MZERO, MLD and MST: the tile, the band or the whole tile, the store format and the memory -/
  tile    : Nat
  band    : Nat
  whole   : Bool
  fmt     : MstFmt
  mem     : List Operand
  thread  : Nat
  pc      : DWord
  flag    : Option Nat
  asid    : Nat
deriving DecidableEq, Repr

/-- The matrix engine of a core (R315, R316, R319). Tiles are sparse: element number by value, +0 not listed. -/
structure Engine where
  owner     : Option Nat
  releasing : Bool
  tiles     : SMap Word
  queue     : List Item
  lastStart : Option Nat
deriving DecidableEq, Repr

/-- The states of an L1 line (R126). -/
inductive Moesi where
  | m | o | e | s | i
deriving DecidableEq, Repr

/-- The kinds of record (R122). -/
inductive RecKind where
  | gets | getm | upg | putm | puts | bypr | bypw | inv | tlbi | sweep | window | bad
deriving DecidableEq, Repr

/-- A carousel record, with what the model carries beside it (R122): the access it is for, the bytes
of a window frame, the line purpose at the home. -/
structure Rec where
  kind   : RecKind
  src    : Nat
  line   : Nat
  dom    : Nat
  arg    : Nat
  /-- pending access it serves -/
  access : Option Nat
  /-- a window frame: its offset and masked bytes -/
  bytes  : List (Nat × Byte)
  /-- CCTL or sweep operation it belongs to -/
  service : Option Nat
  /-- its hold at the home has been counted (R150) -/
  counted : Bool := false
deriving DecidableEq, Repr

/-- A record or window frame written on a carousel (R123, R124). -/
structure Frame where
  carousel : Nat
  slot     : Nat
  writer   : Nat
  pos      : Nat
  cmd      : Rec
deriving DecidableEq, Repr

/-- A line of an L1 (R126 to R129). -/
structure L1Line where
  st     : Moesi
  gen    : Nat
  data   : Line
  /-- the record it has asked for the line with, until its data has arrived -/
  wants  : Option RecKind
  /-- the record has reached its visibility slot: this core is the holder (R128) -/
  holder : Bool
  /-- snooped records held until the data has arrived and its accesses are performed (R128) -/
  held   : List Rec
  /-- a PUTM or PUTS is waiting or in flight (R129) -/
  leaving : Bool
  /-- a CCTL operation takes the line as soon as it can leave (R237) -/
  flush  : Bool
  /-- pending accesses that waited for the line and are performed in turns of their own before a later record acts
  (R128, R152) -/
  due    : List Nat := []
deriving DecidableEq, Repr

/-- A translation (R107). -/
structure Trans where
  asid : Nat
  vpn  : Nat
  run  : Nat
  ppn  : Nat
  u    : Bool
  x    : Bool
  w    : Bool
  r    : Bool
deriving DecidableEq, Repr

/-- A page that the page-request engine installs: its leaf as read and that leaf's address, the backing page, the rights,
and the frame popped for it (R114). -/
structure Install where
  leaf    : Nat
  leafAt  : Nat
  backing : Nat
  rights  : Nat
  frame   : Nat
deriving DecidableEq, Repr

/-- An entry of a core's page-request table (R112). -/
structure PageReq where
  asid    : Nat
  ptbase  : Nat
  va      : Nat
  /-- workgroup and job number of each attached handle -/
  handles : List (Nat × Nat)
  /-- identifier of the record written for it (R113) -/
  reqId   : Option Nat
  /-- the engine has handed it to the queue (R114) -/
  forward : Bool
  leaf    : Nat
  /-- the page that the engine installs for it (R114) -/
  install : Option Install := none
deriving DecidableEq, Repr

/-- Issue row state (R22, R412). -/
structure Row where
  /-- the lane whose place the spare takes -/
  spare   : Option Nat
  /-- a failed lane to be remapped at the next clause boundary -/
  pending : Option Nat
  stopped : Bool
deriving DecidableEq, Repr

/-- The counters SNAPC latches (R412) and those of R373. -/
structure Counters where
  lanes     : SMap Nat
  issues    : SMap Nat
  members   : SMap Nat
  passes    : Nat
  bytes     : Nat
  l1miss    : Nat
  tlbmiss   : Nat
  divHint   : Nat
  meetHolds : Nat
  meetExpire : Nat
  ageWins   : Nat
deriving DecidableEq, Repr

/-- A core (R21). -/
structure Core where
  l1      : SMap L1Line
  tlb     : List Trans
  /-- cached table entries: ASID, address of the entry, value (R107) -/
  tables  : List (Nat × Nat × Nat)
  lanes   : SMap Trans
  pageReqs : SMap PageReq
  acks    : Nat
  jobs    : SMap Job
  jobOrder : Nat
  shapes  : SMap ShapeSlot
  bufs    : SMap BufEntry
  engine  : Engine
  rows    : Vector Row 4
  laneGen : Nat
  counters : Counters
  haltValid : Bool
  haltSlot  : Nat
  /-- next sequence number by remote line (R167) -/
  seqs      : SMap Nat
  /-- cycle in which it last issued (R405) -/
  lastTurn  : Option Nat
  /-- the slots to which the age rule gives the next issue of their rows, by row (R350) -/
  ageWin  : SMap Nat
deriving DecidableEq, Repr

/-- What a saved workgroup's image holds beside the context itself (R415). -/
structure Image where
  threads : List Thread
  jobs    : List Job
  shapes  : SMap ShapeSlot
  bufs    : SMap BufEntry
  engine  : Option Engine
  /-- where in the save pool its bytes lie (R414) -/
  place   : Option Nat
deriving DecidableEq, Repr

/-- A workgroup context (R25, R96, R139, R210, R359, R382, R383, R402, R415). -/
structure Workgroup where
  coords  : Coords
  sizes   : Sizes
  phase   : WgPhase
  core    : Nat
  /-- thread slots by linear index -/
  slots   : List Nat
  sregs   : Vector Word 64
  stale   : List StaleUniform
  asid    : Nat
  ptbase  : Nat
  hashdom : Nat
  grantLo : Nat
  grantHi : Nat
  lead    : Nat
  mhold   : Nat
  unichk  : Bool
  trapvec : DWord
  trapen  : Word
  contain : Nat
  super   : Bool
  queue   : Nat
  crWrites : List CrWrite
  refcost : Nat
  migr    : Nat
  mstat   : Vector Nat 6
  scratch : Memory
  /-- private slices by linear index (R23) -/
  slices  : SMap Memory
  genCtr  : Nat
  jobNums : SMap JobNum
  endCtr  : Nat
  /-- linear indices of the threads that have exited or been killed -/
  exited  : List Nat
  /-- what their meeting registers held, until an expiry there (R358) -/
  metGone : List DWord
  killed  : Bool
  /-- the exit-bound collective has been issued (R395) -/
  fired   : Option Nat
  /-- the phases its neighbours know it has reached; none when it has reached every phase (R367, R368) -/
  phasePub : Option Nat
  /-- the last %time read by one of its threads (R410) -/
  lastTime : Nat
  /-- saved threads, jobs, slots, entries, engine and the order they were accepted in (R415) -/
  image   : Option Image
  /-- start tick a co-scheduled placement waits for (R391) -/
  startAt : Nat
  /-- it has started (R390), and the place of its last dispatch among the module's dispatches (R392) -/
  begun    : Bool
  dispatch : Nat
  /-- numbers that were allocated again with a fault that no WAITH had seen (R244, R272) -/
  unseen   : List JobNum
deriving DecidableEq, Repr

/-- What a home waits for before it goes on with a line (R127, R129, R140). -/
inductive Awaited where
  | fill | supply | notice | writeback
  /-- a free data entry, for the write that it holds first (R141, R144) -/
  | room
deriving DecidableEq, Repr

/-- A tag of the L2 (R127, R137). -/
structure Tag where
  dirty   : Bool
  owner   : Option Nat
  holders : Nat
  gen     : Nat
  dom     : Nat
  /-- data entry; none while the fill is under way -/
  entry   : Option Nat
  /-- it waits for a supply, a notice or write-back data, or for its fill (R127, R129) -/
  awaits  : Option Awaited
  /-- requests held meanwhile, oldest first -/
  held    : List Rec
  /-- an INV for it is on its way or has been applied, for a CCTL operation if named (R130, R144) -/
  leaving : Option (Option Nat)
  /-- the L2CLEAN operations that wait for its line to be written (R237) -/
  clean   : List Nat
  /-- a vault write of its line is under way -/
  writing : Bool
  /-- its INV has been applied: the tag is freed with that write (R130, R144) -/
  freeing : Bool := false
deriving DecidableEq, Repr

/-- A data entry of an L2 slice (R137). -/
structure Entry where
  slice   : Nat
  data    : Line
  mark    : BitVec 64
  dom     : Nat
  indexed : Bool
  refs    : Nat
  pins    : Nat
  bad     : Bool
deriving DecidableEq, Repr

/-- The registers and counters of a slice and its snoop agent (R147, R150). -/
structure Slice where
  coll   : Nat
  sat    : Nat
  holds  : Nat
  qfull  : Nat
  badrec : Bool
  /-- requests that wait for a tag (R137, R144) -/
  parked : List Rec
  /-- records that have come while the clock of the slice's field stood, in carousel order (R427) -/
  buffered : List Rec := []
deriving DecidableEq, Repr

/-- What travels on the mesh (R126 to R129, R136). -/
inductive Msg where
  /-- line data to a core: the line, its generation, whether exclusive, INFO of an error in it, and the source node -/
  | supply (line : Nat) (data : Line) (core gen : Nat) (excl : Bool) (err : Option Nat) (src : Nat)
  /-- line data from an owner to the home -/
  | toHome (line : Nat) (data : Line) (src : Nat) (dirty : Bool)
  /-- owner's notice: retained or released -/
  | notice (line : Nat) (retained : Bool) (src : Nat)
  /-- data of a PUTM -/
  | writeback (line : Nat) (data : Line) (src : Nat)
deriving DecidableEq, Repr

/-- The kinds of operation that a unit carries out behind a handle (R116, R237). -/
inductive ServiceKind where
  /-- lines of the core's L1 leave -/
  | l1
  | clean
  | evict
  | sweep
  /-- an L2CLEAN or L2EVICT of a remote line -/
  | remote
deriving DecidableEq, Repr

/-- A CCTL operation or sweep in progress (R116, R237), and whose handle it completes. -/
structure Service where
  kind    : ServiceKind
  core    : Nat
  /-- workgroup and job number of its handle; none for the host's -/
  handle  : Option (Nat × Nat)
  /-- l1: lines still to leave; sweep: accesses still to be performed -/
  waiting : List Nat
  asid    : Nat
  mode    : Nat
  /-- its record has been applied -/
  visible : Bool
  /-- its SWEEP follows the TLBI once that has been applied (R116, R120, R443) -/
  sweeps  : Bool := false
  /-- what another module is answered when it is done (R133, R237) -/
  reply   : Option Reply := none
deriving DecidableEq, Repr

/-- One of the three copies of a vault's remap table (R83). -/
structure MapCopy where
  map  : BitVec 512
  cap  : Nat
  gen  : Nat
  good : Bool
deriving DecidableEq, Repr

/-- A vault (R76 to R94). -/
structure Vault where
  map     : BitVec 512
  cap     : Nat
  copies  : List MapCopy
  retire  : BitVec 512
  busy    : Bool
  goRej   : Bool
  pendEvt : Bool
  fenced  : Bool
  held    : Nat
  /-- requests held by the remap step, oldest first (R82) -/
  heldNow : List Rec
  gen     : Nat
  pend    : BitVec 512
  agree   : Nat
  rewrote : Nat
  temp    : Int
  ovr     : Nat
  closed  : Bool
  mult    : Nat
  remapDone : Nat
  /-- lines lost to an uncorrectable error (R79) -/
  bad     : List Nat
  /-- 10 µs samples taken (R85) -/
  samples : Nat
deriving DecidableEq, Repr

/-- A thermal column and its heat tokens (R331, R336). -/
structure Column where
  tok  : Nat
  rate : Nat
  cap  : Nat
  bub  : Nat
  /-- tokens of refills that fell due while the field's clock was stopped (R427) -/
  owed : Nat
deriving DecidableEq, Repr

/-- A power region (R332, R333, R336, R337). -/
structure PowerRegion where
  rise    : Nat
  /-- passes started in the step under way -/
  now     : Nat
  cnt     : Nat
  bub     : Nat
  count   : Nat
  evt     : Bool
  until_  : Option Nat
  lastLow : Nat
deriving DecidableEq, Repr

/-- A launch queue's registers (R378, R402). -/
structure LaunchQueue where
  base   : Nat
  head   : Nat
  tail   : Nat
  en     : Bool
  dev    : Bool
  size   : Nat
  asid   : Nat
  dom    : Nat
  ptb    : Nat
  wgBase : Nat
  wgLim  : Nat
  deven  : Bool
  devq   : Nat
  prioMax : Nat
  lead   : Nat
  tvec   : Nat
  trapen : Nat
  super  : Bool
deriving DecidableEq, Repr

/-- A placement entry (R385). -/
structure PlaceEntry where
  first : Nat
  count : Nat
  core  : Nat
  span  : Nat
deriving DecidableEq, Repr

/-- How a launch stands (R396, R397). -/
inductive LaunchPhase where
  | active | killing
deriving DecidableEq, Repr

/-- An accepted launch (R379, R387, R396). -/
structure Launch where
  sizes    : Sizes
  entry    : DWord
  contain  : Nat
  stagger  : Nat
  cosched  : Bool
  notify   : Bool
  priority : Nat
  args     : List Word
  collective : Option (List Byte)
  table    : List PlaceEntry
  completion : Nat
  /-- queue it was taken from -/
  taken    : Nat
  binding  : Binding
  accepted : Nat
  order    : Nat
  /-- linear indices placed so far, and exited -/
  placed   : List Nat
  exited   : Nat
  refcost  : Nat
  firstAt  : Option Nat
  /-- time at which its last workgroup exited, or it was found killed whole, in ns -/
  endedAt  : Option Nat
  /-- from which byte on its completion record is to be rewritten: 0 or 4 (R397) -/
  owes     : Option Nat
  refusals : Nat
  preempted : Nat
  phase    : LaunchPhase
  /-- cause, TRAPADDR and core of the fault that killed it -/
  killed   : Option (Nat × DWord × Nat)
  /-- cluster groups that wait for the next sample or exit, and when each was tried in ns (R388) -/
  waits    : SMap Nat
deriving DecidableEq, Repr

/-- The states of a field (R422 to R426). -/
inductive FieldState where
  | follow | frozen | claim | master | stall
deriving DecidableEq, Repr

/-- A field's clock and its part in the Ringmaster's election (R420 to R430). -/
structure Field where
  st       : FieldState
  /-- it came to CLAIM from STALL -/
  fromStall : Bool
  /-- core cycles counted up to a tick, in twentieths (R410, R427, R428) -/
  phase    : Nat
  phaseAt  : Nat
  /-- local time minus module time, and the offset measured at the last beacon, in ps (R420) -/
  skew     : Int
  ofs      : Int
  /-- tick at which it lost the Ringmaster: t0 -/
  since    : Nat
  /-- slot of the last beacon -/
  mark     : Nat
  /-- the master elect that it knows of -/
  elect    : Option Nat
  /-- its clock runs (R427) -/
  running  : Bool
  /-- its clock source; none for its free oscillator, and the sources that live -/
  source   : Option Nat
  live     : List Nat
  /-- bands of its crossings: west, south, east, north (R429) -/
  bands    : List Nat
  switches : Nat
  noSrc    : Bool
  swEvt    : Bool
  xlatGen  : Nat
  /-- the last %time read in it -/
  lastTime : Nat
  /-- a stall notice has come since the last slot boundary (R422) -/
  notice   : Bool
  /-- slot of t0, or of the last comparison of slot marks since (R422) -/
  checked  : Nat
deriving DecidableEq, Repr

/-- The states of a microring (R432). -/
inductive RingState where
  | off | sweep | acq | lock | lost | masked
deriving DecidableEq, Repr

structure Ring where
  st      : RingState
  heater  : Nat
  low     : Bool
  high    : Bool
deriving DecidableEq, Repr

/-- A fabric port, or the lanes of a host link (R436 to R440). -/
structure Port where
  /-- PORT_CTL: EN, MIN and LANE_EN -/
  ctl    : Word
  up     : Bool
  /-- lanes in use, and lanes that have failed -/
  lanes  : List Nat
  failed : List Nat
  fecc   : Nat
  fecu   : Nat
  rply   : Nat
  evt    : Nat
  /-- uncorrectable codewords of the last 1 ms: lane and tick (R437) -/
  bad    : List (Nat × Nat)
deriving DecidableEq, Repr

/-- A page installed by the page-request engine (R443): its leaf's address and its backing page. -/
structure PageLog where
  leaf    : Nat
  backing : Nat
  frame   : Nat
  asid    : Nat
  va      : Nat
deriving DecidableEq, Repr

/-- The loader's work (R449). -/
structure LoadJob where
  addr  : Nat
  asid  : Nat
  /-- physical address of the tables it walks -/
  root  : Nat
  /-- the descriptors that are left, once the header has been read, and the index of the first -/
  descs : Option (List Byte)
  seg   : Nat
  /-- the keys of earlier segments, by index -/
  keys  : List (Nat × List Byte)
  /-- a segment that has passed its checks: the pages still to be written, and the frames to be marked then -/
  pages : Option (List (Nat × List Byte))
  marks : List Nat
  /-- the number for which a sweep waits until those pages have been written (R116) -/
  id    : Nat := 0
  /-- total size of the container (R448) -/
  total : Nat := 0
deriving DecidableEq, Repr

/-- A turn of the agenda: the ticks that pass first, and who moves (log 1). -/
inductive Act where
  /-- a row of a core issues the troupe of these thread slots -/
  | issue (core : Nat) (slots : List Nat)
  /-- the rows of a core issue several troupes in one cycle (R347, R405) -/
  | cycle (core : Nat) (troupes : List (List Nat))
  /-- the control node kills a launch (R411) -/
  | kill (launch : Nat)
  /-- a pending access is performed, where no record performs it (R152, R160) -/
  | perform (access : Nat)
  /-- an uncorrectable error strikes a data entry of the L2 (R145), or a copy of a vault's remap table (R83) -/
  | flaw (entry : Nat)
  | flawCopy (vault copy : Nat)
  /-- a port corrects so many codewords (R439) -/
  | corrected (port n : Nat)
  /-- the control node gets the oldest message (R441) -/
  | deliver
  /-- the n-th answer to the host or to another module leaves (R440) -/
  | answered (n : Nat)
  /-- a step of another agent -/
  | event (i : Instr)
deriving DecidableEq, Repr

structure Turn where
  dt   : Nat
  /-- the accesses that this turn issues are performed piece by piece, each in a turn of its own (R152, R160) -/
  late : Bool := false
  act  : Act
deriving DecidableEq, Repr

/-- A raised trap waiting for its turn in slot order: the thread, the trap, where it resumes, and
TRAPADDR (R405). -/
structure Raised where
  key    : Nat
  trap   : TrapInfo
  resume : Resume
  pc     : DWord
deriving DecidableEq, Repr

/-- The troupe whose instruction is being executed (R344). -/
structure Troupe where
  core  : Nat
  slots : List Nat
deriving DecidableEq, Repr

/-- The module's translation and page-request registers (R118 to R120) and the page-request engine. -/
structure PageUnit where
  moduleId   : Nat
  prqBase    : Nat
  en         : Bool
  frameBad   : Bool
  badResp    : Bool
  sizeExp    : Nat
  head       : Nat
  tail       : Nat
  frameBase  : Nat
  frameCount : Nat
  xinvVa     : Nat
  xinvRej    : Bool
  xinvDone   : Bool
  xinvBusy   : Bool
  xinvSwp    : Bool
  xinvMode   : Nat
  xinvAsid   : Nat
  /-- the host's invalidation under way: its sweep, if any -/
  xinvSweep  : Option Nat
  nextId     : Nat
  /-- outstanding identifiers, with core and page-request entry -/
  open_      : SMap (Nat × Nat)
  log        : List PageLog
  /-- page retirement under way: vault and sweep of each page returned (R443) -/
  retiring   : List (Nat × Nat)
  /-- frames that page retirement has taken off the free-frame stack, by vault (R443) -/
  emptied    : SMap Nat
  /-- vaults whose step is left to the control node (R443) -/
  left       : List Nat
deriving DecidableEq, Repr

/-- The launch unit (R376 to R398) and the save pool (R414, R417). -/
structure LaunchUnit where
  queues   : SMap LaunchQueue
  turn     : Nat
  launches : SMap Launch
  nextId   : Nat
  age      : Nat
  qfull    : Bool
  crfault  : Bool
  refuse   : Nat
  preempt  : Nat
  cores    : List Nat
  goodHash : BitVec 384
  nextTag  : Nat
  /-- dispatches made so far (R392) -/
  dispatches : Nat
  /-- groups that wait for what they pre-empted, by launch and group number (R392) -/
  owed     : List (Nat × Nat)
  /-- groups being saved, by launch and group number, with the cycle in which their jobs began to drain (R270, R414) -/
  saving   : List (Nat × Nat × Option Nat)
  ctxBase  : Nat
  ctxSize  : Nat
  wdog     : Nat
deriving DecidableEq, Repr

/-- A record of the carrier's flash (R418): what its header gives, and its bytes that are not zero. -/
structure LifeRecord where
  seq   : Nat
  boots : Nat
  /-- power-on hours -/
  hours : Nat
  hash  : BitVec 384
  bytes : List (Nat × Byte)
deriving DecidableEq, Repr

/-- The lifetime recorder and the carrier flash (R22, R417, R418, R450). -/
structure LifeUnit where
  period    : Nat
  seq       : Nat
  werr      : Bool
  busy      : Bool
  image     : List (Nat × Byte)
  /-- records in the flash, oldest first -/
  flash     : List LifeRecord
  bootCount : Nat
  /-- module time, in ns, of the last record or of boot -/
  last      : Nat
  /-- power-on hours before this boot -/
  hours     : Nat
  /-- cores that the next boot harvests (R22) -/
  worn      : List Nat
deriving DecidableEq, Repr

/-- Boot, loader and quote registers (R447 to R451). -/
structure BootUnit where
  step     : Nat
  err      : Nat
  loadAddr : Nat
  loadAsid : Nat
  loadBusy : Option LoadJob
  loadStat : Nat
  frames   : List Nat
  meas     : BitVec 384
  nonce    : BitVec 384
  quoteAddr : Nat
  quoteBusy : Bool
  /-- the vendor root key, once boot has checked it against the fused hash, and each field's boot SRAM (R447) -/
  rootKey   : List Byte
  sram      : SMap (List Byte)
deriving DecidableEq, Repr

/-- Module time, the fields and the carousels' order (R420 to R434). -/
structure TimeUnit where
  slot     : Nat
  /-- ticks by which module time has been stepped forward (R423, R426) -/
  shift    : Nat
  rmRank   : Nat
  drift    : Nat
  ptpCtl   : Nat
  ptpOfs   : Int
  ptpLocked : Bool
  fields   : SMap Field
  /-- carousel held for a replay from this slot (R434) -/
  replayAt : SMap Nat
  replays  : SMap Nat
  master   : Option Nat
  epoch    : Nat
  /-- the master has not sent its first beacon (R423) -/
  fresh    : Bool
  /-- claim records written on carousel 0: slot and field, in order; bids sent (R421) -/
  claims   : List (Nat × Nat)
  bids     : List Nat
  /-- the claim applied first in this election, and the slot in which it was applied -/
  won      : Option (Nat × Nat)
deriving DecidableEq, Repr

/-- Rings, lasers, ports and host links (R431 to R444). -/
structure LinkUnit where
  ringSel  : Nat
  rings    : SMap Ring
  ringLoss : Nat
  xrej     : Bool
  lossEvt  : Bool
  xbar     : SMap Nat
  laser    : SMap (Word × Word × Word × Word)
  /-- fabric ports 0 to 63, and the lanes of host link h under 64 + h (R436, R440) -/
  ports    : SMap Port
  route    : SMap Nat
  fabTmo   : Nat
  linkUp   : List Nat
  nlost    : Bool
  msgs     : List (List Byte)
  mode     : Nat
  /-- carousel rings whose wavelength is replaced or lost, by RING_SEL value (R433) -/
  masked   : List Nat
  /-- answers to the host and to other modules that have not left (R133, R440, R449) -/
  answers  : List Reply
deriving DecidableEq, Repr

/-- A host request that waits for an earlier one of its link; a read names as many bytes as it reads (R440). -/
structure HostReq where
  link   : Nat
  target : HostTarget
  write  : Bool
  addr   : Nat
  data   : List Byte
deriving DecidableEq, Repr

/-- The module (R14 to R29). -/
structure State where
  now      : Nat
  agenda   : List Turn
  cur      : Troupe
  /-- the traps raised in a cycle of a core that is not over: they are taken together (R405) -/
  gather   : Option (List Raised)
  /-- the accesses that the turn issues are not performed in it (R160) -/
  late     : Bool
  free     : Nat
  nextNum  : Nat
  threads  : SMap Thread
  wgs      : SMap Workgroup
  cores    : SMap Core
  vmem     : Memory
  wmem     : Memory
  accs     : SMap Access
  /-- what askers have been answered and have not yet used -/
  replies  : List Reply
  /-- records that wait for a place in a queue, with the queue's key (R125) -/
  outbox   : List (Nat × Rec)
  /-- host requests that wait, in their order -/
  hostReqs : List HostReq
  tags     : SMap Tag
  /-- GEN of lines whose tag has been freed (R127) -/
  gens     : SMap Nat
  entries  : SMap Entry
  slices   : SMap Slice
  queues   : SMap (List Rec)
  frames   : List Frame
  mesh     : SMap Msg
  services : SMap Service
  bwin     : Bool
  hdSvw    : Bool
  hdSel    : Nat
  hdLatch  : BitVec 96
  hdKeys   : SMap (BitVec 128)
  hdBoot   : Nat
  vaults   : SMap Vault
  heatCoef : Nat
  vaultFloor : Nat
  heatCost : Word
  columns  : SMap Column
  /-- 100 ns refills and 200 ns steps that have taken place (R331, R332) -/
  refills  : Nat
  steps    : Nat
  regions  : SMap PowerRegion
  chunks   : List Chunk
  /-- remote receive side: next sequence number by source module, core and line, and early requests (R167) -/
  rxSeq    : List (Nat × Nat × Nat × Nat)
  rxEarly  : List RemoteReq
  page     : PageUnit
  launch   : LaunchUnit
  life     : LifeUnit
  boot     : BootUnit
  time     : TimeUnit
  link     : LinkUnit
deriving DecidableEq, Repr

/-- Faults of the model. -/
inductive Fault where
  /-- raised by step: the agenda names a troupe that R344 does not allow, a thread that does not exist
  or is not ready, or an instruction of a core where it names an event. Safe: the agenda is the model's own, and a schedule that is
  no behaviour of the module has no successor. -/
  | badTurn
deriving DecidableEq, Repr

/-- Refusals of the model. -/
inductive Refusal where
  /-- raised by exec for an instruction that has no meaning yet. Safe: the run stops. -/
  | notModelled (mnemonic : String)
deriving DecidableEq, Repr

/-- A lane row in service, nothing failed (R22). -/
def Row.fresh : Row := ⟨none, none, false⟩
/-- Counters at 0 (R373, R412). -/
def Counters.zero : Counters := ⟨[], [], [], 0, 0, 0, 0, 0, 0, 0, 0⟩
/-- A free engine with cleared tiles (R315). -/
def Engine.free : Engine := ⟨none, false, [], [], none⟩
/-- A core after power-on. -/
def Core.reset : Core :=
  ⟨[], [], [], [], [], 0, [], 0, [], [], Engine.free, Vector.replicate 4 Row.fresh, 0, Counters.zero,
   false, 0, [], none, []⟩
/-- Slice registers at reset (R147, R150). -/
def Slice.reset : Slice := ⟨0, 0, 0, 0, false, [], []⟩
/-- A vault after power-on (R92 to R94); its map, capacity and temperature come at boot (log 4). -/
def Vault.reset : Vault :=
  ⟨0, 0, [], 0, false, false, false, false, 0, [], 0, 0, 0, 0, 0, 0, false, 0, 0, [], 0⟩
/-- A column at reset (R336). -/
def Column.reset : Column := ⟨32768, 1600, 32768, 0, 0⟩
/-- A power region at reset (R336, R337). -/
def PowerRegion.reset : PowerRegion := ⟨256, 0, 0, 0, 0, false, none, 0⟩
/-- A launch queue at reset (R378, R402). -/
def LaunchQueue.reset : LaunchQueue :=
  ⟨0, 0, 0, false, false, 4, 0, 0, 0, 0, 0, false, 0, 0, 0, 0, 0, false⟩
/-- A field before boot (log 4). -/
def Field.reset : Field :=
  ⟨.follow, false, 0, 0, 0, 0, 0, 0, none, false, none, [], [0, 0, 0, 0], 0, false, false, 0, 0, false, 0⟩
/-- A ring with its heater off (R432). -/
def Ring.reset : Ring := ⟨.off, 0, false, false⟩
/-- A port at reset (R439). -/
def Port.reset : Port := ⟨0x00400000, false, [], [], 0, 0, 0, 0, []⟩

def PageUnit.reset : PageUnit :=
  ⟨0, 0, false, false, false, 4, 0, 0, 0, 0, 0, false, false, false, false, 0, 0, none, 0, [], [], [], [], []⟩
def LaunchUnit.reset : LaunchUnit :=
  ⟨[], 0, [], 0, 1000, false, false, 0, 0, [], 0, 1, 0, [], [], 0, 0, 1000000⟩
def LifeUnit.reset : LifeUnit := ⟨24, 0, false, false, [], [], 0, 0, 0, []⟩
def BootUnit.reset : BootUnit := ⟨0, 0, 0, 0, none, 0, [], 0, 0, 0, false, [], []⟩
def TimeUnit.reset : TimeUnit := ⟨0, 0, 0x128DC91B, 500, 0, 0, false, [], [], [], none, 0, false, [], [], none⟩
def LinkUnit.reset : LinkUnit := ⟨0, [], 0, false, false, [], [], [], [], 200, [], false, [], 0, [], []⟩

/-- The module when power is good and boot has not begun (R445, R447): every register at its Reset
value, those loaded at boot at 0 (log 4). -/
def State.reset : State where
  now := 0
  agenda := []
  cur := ⟨0, []⟩
  gather := none
  late := false
  free := 0
  nextNum := 1
  threads := []
  wgs := []
  cores := []
  vmem := []
  wmem := []
  accs := []
  replies := []
  outbox := []
  hostReqs := []
  tags := []
  gens := []
  entries := []
  slices := []
  queues := []
  frames := []
  mesh := []
  services := []
  bwin := false
  hdSvw := false
  hdSel := 0
  /- DESIGN CHOICE (log 87): HD_KEY0 to HD_KEY2 hold 0 until they are written. -/
  hdLatch := 0
  hdKeys := []
  hdBoot := 0
  vaults := []
  heatCoef := 12
  vaultFloor := 80
  heatCost := 0x02020304
  columns := []
  refills := 0
  steps := 0
  regions := []
  chunks := []
  rxSeq := []
  rxEarly := []
  page := PageUnit.reset
  launch := LaunchUnit.reset
  life := LifeUnit.reset
  boot := BootUnit.reset
  time := TimeUnit.reset
  link := LinkUnit.reset

end Sys2Proof.Machine
end

