-- ==== Sys2Proof/Machine/Ops.lean ====
section
/-! DEFINITION. The named operations over records, memory, registers and threads; taking a trap
(R400 to R408), the return from one, and the runner that executes one instruction in each member of a
troupe (R313, R405). -/

namespace Sys2Proof.Machine

/-! Records by number. -/

/-- The record of number k. -/
def mget {α : Type} (m : SMap α) (k : Nat) : Option α :=
  match m with
  | [] => none
  | (a, v) :: r => if a = k then some v else mget r k

/-- Replaces or inserts record k, keeping the numbers rising. -/
def mput {α : Type} (m : SMap α) (k : Nat) (v : α) : SMap α :=
  match m with
  | [] => [(k, v)]
  | (a, w) :: r => if k < a then (k, v) :: (a, w) :: r else if a = k then (k, v) :: r else (a, w) :: mput r k v

/-- Removes record k. -/
def mdel {α : Type} (m : SMap α) (k : Nat) : SMap α :=
  match m with
  | [] => []
  | (a, w) :: r => if a = k then mdel r k else (a, w) :: mdel r k

/-- A counter kept only where it is not 0. -/
def bump (m : SMap Nat) (k n : Nat) : SMap Nat := mput m k ((mget m k).getD 0 + n)

/-- Adds to a counter that stops at its largest value. -/
def satAdd (x n top : Nat) : Nat := min (x + n) top

/-! Memory. -/

/-- The byte at an address; an address not listed reads as 0 (log 5). -/
def memRead (m : Memory) (a : Nat) : Byte := (mget m a).getD 0

/-- Stores a byte, keeping the canonical form. -/
def memWrite (m : Memory) (a : Nat) (b : Byte) : Memory := if b = 0 then mdel m a else mput m a b

/-- n bytes from address a. -/
def readBytes (m : Memory) (a : Nat) : Nat → List Byte
  | 0 => []
  | n + 1 => memRead m a :: readBytes m (a + 1) n

/-- Stores bytes from address a. -/
def writeBytes (m : Memory) (a : Nat) : List Byte → Memory
  | [] => m
  | b :: bs => writeBytes (memWrite m a b) (a + 1) bs

/-- Removes the bytes of a range. -/
def clearBytes (m : Memory) (a n : Nat) : Memory := m.filter (fun c => !(a ≤ c.1 && c.1 < a + n))

/-- Addresses rising and no byte 0: the canonical form. -/
def Memory.wfFrom : Option Nat → Memory → Bool
  | _, [] => true
  | lo, (a, b) :: r => (match lo with
      | some l => decide (l < a)
      | none => true) && b != 0 && Memory.wfFrom (some a) r

/-- The canonical form of a memory. -/
def Memory.wf (m : Memory) : Bool := Memory.wfFrom none m

/-- Little-endian value of bytes (R6). -/
def bytesNat : List Byte → Nat
  | [] => 0
  | b :: bs => b.toNat + 256 * bytesNat bs

/-- n little-endian bytes of a value (R6). -/
def natBytes (n v : Nat) : List Byte := bytesOfNat v n

/-- Words of a byte list, 4 bytes each. -/
def bytesWords : List Byte → List Word
  | a :: b :: c :: d :: r => BitVec.ofNat 32 (bytesNat [a, b, c, d]) :: bytesWords r
  | _ => []

/-- The 128 bytes of a line (R6). -/
def lineBytes (l : Line) : List Byte := natBytes 128 l.toNat
/-- A line from its bytes. -/
def bytesLine (b : List Byte) : Line := BitVec.ofNat 1024 (bytesNat b)
/-- An n-byte field of a byte string. -/
def fieldAt (b : List Byte) (o n : Nat) : Nat := bytesNat ((b.drop o).take n)

/-- Replaces the bytes of a list from offset o. -/
def patch (l : List Byte) (o : Nat) (b : List Byte) : List Byte := l.take o ++ b ++ l.drop (o + b.length)

/-- Writes bytes into a line at offset o. -/
def patchLine (l : Line) (o : Nat) (b : List Byte) : Line := bytesLine (patch (lineBytes l) o b)

/-! The state's parts. -/

/-- Key of a thread slot of a core. -/
def tkey (core slot : Nat) : Nat := core * 2048 + slot

def State.core (s : State) (c : Nat) : Core := (mget s.cores c).getD Core.reset
def State.setCore (s : State) (c : Nat) (x : Core) : State := { s with cores := mput s.cores c x }
def State.modCore (s : State) (c : Nat) (f : Core → Core) : State := s.setCore c (f (s.core c))

def State.thread? (s : State) (k : Nat) : Option Thread := mget s.threads k
def State.setThread (s : State) (k : Nat) (t : Thread) : State := { s with threads := mput s.threads k t }
/-- Changes a thread, if it is there. -/
def State.modThread (s : State) (k : Nat) (f : Thread → Thread) : State :=
  match s.thread? k with
  | some t => s.setThread k (f t)
  | none => s

def State.wg? (s : State) (w : Nat) : Option Workgroup := mget s.wgs w
def State.setWg (s : State) (w : Nat) (x : Workgroup) : State := { s with wgs := mput s.wgs w x }
/-- Changes a workgroup, if it is there. -/
def State.modWg (s : State) (w : Nat) (f : Workgroup → Workgroup) : State :=
  match s.wg? w with
  | some x => s.setWg w (f x)
  | none => s

def State.vault (s : State) (v : Nat) : Vault := (mget s.vaults v).getD Vault.reset
def State.modVault (s : State) (v : Nat) (f : Vault → Vault) : State := { s with vaults := mput s.vaults v (f (s.vault v)) }
def State.slice (s : State) (v : Nat) : Slice := (mget s.slices v).getD Slice.reset
def State.modSlice (s : State) (v : Nat) (f : Slice → Slice) : State := { s with slices := mput s.slices v (f (s.slice v)) }
def State.column (s : State) (c : Nat) : Column := (mget s.columns c).getD Column.reset
def State.modColumn (s : State) (c : Nat) (f : Column → Column) : State := { s with columns := mput s.columns c (f (s.column c)) }
def State.region (s : State) (n : Nat) : PowerRegion := (mget s.regions n).getD PowerRegion.reset
def State.modRegion (s : State) (n : Nat) (f : PowerRegion → PowerRegion) : State := { s with regions := mput s.regions n (f (s.region n)) }
def State.field (s : State) (f : Nat) : Field := (mget s.time.fields f).getD Field.reset
def State.modField (s : State) (f : Nat) (g : Field → Field) : State :=
  { s with time := { s.time with fields := mput s.time.fields f (g (s.field f)) } }
def State.modPage (s : State) (f : PageUnit → PageUnit) : State := { s with page := f s.page }
def State.modLaunch (s : State) (f : LaunchUnit → LaunchUnit) : State := { s with launch := f s.launch }
def State.modLink (s : State) (f : LinkUnit → LinkUnit) : State := { s with link := f s.link }
def State.modTime (s : State) (f : TimeUnit → TimeUnit) : State := { s with time := f s.time }
def State.modBoot (s : State) (f : BootUnit → BootUnit) : State := { s with boot := f s.boot }
def State.lqueue (s : State) (q : Nat) : LaunchQueue := (mget s.launch.queues q).getD LaunchQueue.reset
def State.modLqueue (s : State) (q : Nat) (f : LaunchQueue → LaunchQueue) : State :=
  s.modLaunch fun u => { u with queues := mput u.queues q (f (s.lqueue q)) }
def State.modRun (s : State) (l : Nat) (f : Launch → Launch) : State :=
  match mget s.launch.launches l with
  | some x => s.modLaunch fun u => { u with launches := mput u.launches l (f x) }
  | none => s

/-- A free choice among candidates; the only candidate is taken without one (log 9). -/
def State.pick {α : Type} (s : State) (l : List α) : Option (α × State) :=
  match l with
  | [] => none
  | [x] => some (x, s)
  | x :: r =>
    some (((x :: r)[Config.freeNat s.free % (r.length + 1)]?).getD x, { s with free := s.free + 1 })

/-- A fresh number for an access, message, entry or operation. -/
def State.fresh (s : State) : Nat × State := (s.nextNum, { s with nextNum := s.nextNum + 1 })

/-- Cluster of a core (R18). -/
def clusterOf (core : Nat) : Nat := core / 32
/-- Field of a cluster (R17). -/
def fieldOfCluster (c : Nat) : Nat := (c / 16 / 2) * 8 + c % 16 / 2
/-- Power region of a field (R16). -/
def regionOfField (f : Nat) : Nat := (f / 8 / 2) * 4 + f % 8 / 2
/-- Power region of a core. -/
def regionOfCore (c : Nat) : Nat := regionOfField (fieldOfCluster (clusterOf c))

/-- The core a thread's key names. -/
def coreOf (k : Nat) : Nat := k / 2048

/-- Cycles of a field's clock at a tick, in twentieths: 5 ticks a cycle at 1.6 GHz, 20/3 at the 1.2 GHz of the free
oscillator, none while it is stopped (R3, R427, R428). -/
def Field.units (f : Field) (now : Nat) : Nat :=
  f.phase + (if f.running then (now - f.phaseAt) * (if f.noSrc then 3 else 4) else 0)

/-- A field's clock changes: the cycles so far are kept (R410, R427, R428). -/
def Field.reclock (f : Field) (now : Nat) (g : Field → Field) : Field :=
  { g f with phase := f.units now, phaseAt := now }

/-- Does the clock of a cluster's field run (R427). -/
def State.clusterRuns (s : State) (cluster : Nat) : Bool := (s.field (fieldOfCluster cluster)).running
/-- Do the clocks run of the banks that hold n bytes of wafer scratchpad from an offset: a stopped one performs nothing
(R25, R427). -/
def waferRuns (s : State) (off n : Nat) : Bool :=
  s.clusterRuns (off / 2 ^ 24) && (n == 0 || s.clusterRuns ((off + n - 1) / 2 ^ 24))

/-- Cycles since boot of a core (R410). -/
def State.cycles (s : State) (core : Nat) : Nat := (s.field (fieldOfCluster (clusterOf core))).units s.now / 20

/-- Queues a message to the control node (R441). -/
def notify (s : State) (source unit data : Nat) : State :=
  s.modLink fun l =>
    if 1024 ≤ l.msgs.length then { l with nlost := true }
    else { l with msgs := l.msgs ++ [natBytes 2 source ++ natBytes 2 s.page.moduleId ++ natBytes 4 unit ++ natBytes 8 data ++ natBytes 16 0] }

/-- Module time in ns (R3, R420, R423, R426). -/
def State.timeNs (s : State) : Nat := (s.now + s.time.shift) / Config.nano

/-! Registers. -/

/-- g[r]: g0 reads zero (R39). -/
def Thread.rdG (t : Thread) (r : Reg) : Word := if r = 0 then 0 else t.g[r.toNat]'r.isLt
/-- g[r] := v: g0 discards (R39). -/
def Thread.wrG (t : Thread) (r : Reg) (v : Word) : Thread :=
  if r = 0 then t else { t with g := t.g.set r.toNat v r.isLt }
/-- The pair r, r + 1, low word first (R6). -/
def Thread.rdPair (t : Thread) (r : Reg) : DWord := (t.rdG (r + 1)) ++ (t.rdG r)
/-- Writes the pair r, r + 1 (R6, R38). -/
def Thread.wrPair (t : Thread) (r : Reg) (v : DWord) : Thread :=
  (t.wrG r (v.extractLsb' 0 32)).wrG (r + 1) (v.extractLsb' 32 32)
/-- n registers from r. -/
def Thread.rdSpan (t : Thread) (r : Reg) : Nat → List Word
  | 0 => []
  | n + 1 => t.rdG r :: t.rdSpan (r + 1) n
/-- Writes registers from r. -/
def Thread.wrSpan (t : Thread) (r : Reg) : List Word → Thread
  | [] => t
  | v :: vs => (t.wrG r v).wrSpan (r + 1) vs
/-- p[r]: p7 reads true (R39). -/
def Thread.rdP (t : Thread) (r : PReg) : Bool := if r = 7 then true else t.p[r.toNat]'r.isLt
/-- p[r] := v: p7 discards (R39). -/
def Thread.wrP (t : Thread) (r : PReg) (v : Bool) : Thread :=
  if r = 7 then t else { t with p := t.p.set r.toNat v r.isLt }
def Thread.rdM (t : Thread) (r : PReg) : Byte := t.m[r.toNat]'r.isLt
def Thread.wrM (t : Thread) (r : PReg) (v : Byte) : Thread := { t with m := t.m.set r.toNat v r.isLt }
def Thread.rdH (t : Thread) (r : HReg) : Word := t.h[r.toNat]'r.isLt
def Thread.wrH (t : Thread) (r : HReg) (v : Word) : Thread := { t with h := t.h.set r.toNat v r.isLt }
/-- Completion flag n; there is none from 12 on. -/
def Thread.rdF (t : Thread) (n : Nat) : Nat := t.f.toList.getD n 0
def Thread.wrF (t : Thread) (n v : Nat) : Thread := { t with f := t.f.setIfInBounds n v }

/-- Writes one result of a counted operation. -/
def Thread.wrResult (t : Thread) (w : RegWrite) : Thread :=
  match w with
  | .g r v => t.wrG r v
  | .p r v => t.wrP r v

/-! Traps. -/

/-- Code of a cause (R400). -/
def Cause.code : Cause → Nat
  | .illegalOp => 1
  | .priv => 2
  | .align => 3
  | .pageAbsent => 4
  | .perm => 5
  | .eccUncorr => 6
  | .handleBad => 7
  | .bufState => 8
  | .barOverflow => 9
  | .mrsvNone => 10
  | .divHint => 11
  | .watchdog => 12
  | .remoteTimeout => 13
  | .swtrap => 14

/-- May policy 00 absorb it (R400). -/
def Cause.ignorable : Cause → Bool
  | .divHint | .swtrap => true
  | .illegalOp | .priv | .align | .pageAbsent | .perm | .eccUncorr | .handleBad | .bufState
  | .barOverflow | .mrsvNone | .watchdog | .remoteTimeout => false

/-- May policy 01 absorb it (R400): ECC_UNCORR only with INFO 0. -/
def TrapInfo.retryable (ti : TrapInfo) : Bool :=
  match ti.cause with
  | .pageAbsent | .bufState | .watchdog | .remoteTimeout => true
  | .eccUncorr => ti.info == 0
  | .illegalOp | .priv | .align | .perm | .handleBad | .barOverflow | .mrsvNone | .divHint
  | .swtrap => false

/-- Code of a space (R23). -/
def spaceNat : Space → Nat
  | .slice => 0
  | .scratch => 1
  | .window => 2
  | .wafer => 3
  | .global => 4

/-- TRAPCAUSE of a trap (R403). -/
def trapCauseWord (ti : TrapInfo) (nest : Bool) : DWord :=
  BitVec.ofNat 64 (ti.cause.code + (match ti.space with
      | some x => spaceNat x
      | none => 7) * 2 ^ 5
    + ti.write.toNat * 2 ^ 8 + ti.defer.toNat * 2 ^ 9 + nest.toNat * 2 ^ 10
    + (match ti.addr with
      | some a => 2 ^ 11 + a % 2 ^ 52 * 2 ^ 12
      | none => 0))

/-- TRAPTID of a trap (R403). -/
def trapTidWord (ti : TrapInfo) (lin slot : Nat) : Word :=
  BitVec.ofNat 32 (slot % 2 ^ 11 + lin % 2 ^ 10 * 2 ^ 16 + ti.info % 2 ^ 6 * 2 ^ 26)

/-- Bytes of an instruction (R32). -/
def instrLen (i : Instr) : Nat :=
  match i with
  | .nop16 | .mov16 _ _ _ | .add16 _ _ _ | .sub16 _ _ _ | .mul16 _ _ _ | .and16 _ _ _ | .or16 _ _ _
  | .xor16 _ _ _ | .shl16 _ _ _ | .shr16 _ _ _ | .sar16 _ _ _ | .min16 _ _ _ | .max16 _ _ _
  | .fadd16 _ _ _ | .fmul16 _ _ _ | .fmax16 _ _ _ | .fmin16 _ _ _ => 2
  | _ => 4

/-- The control-transfer instructions (R43). -/
def isTransfer (i : Instr) : Bool :=
  match i with
  | .bra _ _ | .braU _ _ | .call _ _ _ | .jmpr _ _ | .callr _ _ _ | .ret _ _ | .trap _ _
  | .tretRetry _ | .tretSkip _ | .tretJmp _ _ | .exit _ | .halt _ => true
  | _ => false

/-- The operations counted on setA (R45). -/
def countsA (i : Instr) : Bool :=
  match i with
  | .ldP _ _ _ _ _ | .ldS _ _ _ _ _ | .ldC _ _ _ _ _ | .ldW _ _ _ _ _ | .ldG _ _ _ _ _ _ _
  | .ldb _ _ _ _ _ | .atom _ _ _ _ _ _ | .div _ _ _ _ | .rem _ _ _ _ | .divn _ _ _ _
  | .remn _ _ _ _ | .fdiv _ _ _ _ | .fsqrt _ _ _ | .frcp _ _ _ | .frsq _ _ _ | .fexp2 _ _ _
  | .flog2 _ _ _ | .fsin _ _ _ | .fcos _ _ _ | .ftanh _ _ _ | .pgqry _ _ _ | .tsq _ _ _ _ _
  | .bufq _ _ _ | .mstat _ _ _ | .snapc _ _ _ | .crrd _ _ _ | .rdv _ _ _ _ => true
  | _ => false

/-- The matrix operations counted on setB (R40, R47). -/
def countsB (i : Instr) : Bool :=
  match i with
  | .mmaHBf16 _ _ _ _ _ | .mmaHF16 _ _ _ _ _ | .mmaQE4m3 _ _ _ _ _ _ | .mmaQE5m2 _ _ _ _ _ _
  | .mmaNRb4 _ _ _ _ _ | .mmaNI8 _ _ _ _ _ _ | .mld _ _ _ _ | .mst _ _ _ _ _ => true
  | _ => false

/-- The scaled multiplies, which name g56 to g63 (R323). -/
def namesScales (i : Instr) : Bool :=
  match i with
  | .mmaQE4m3 _ _ _ _ _ _ | .mmaQE5m2 _ _ _ _ _ _ | .mmaNRb4 _ _ _ _ _ | .mmaNI8 _ _ _ _ _ _ => true
  | _ => false

/-- Does the thread stand last in its clause: only NOP16 padding follows (R42, R43). -/
def lastInClause (t : Thread) (len : Nat) : Bool :=
  match t.clause with
  | some c => (c.body.drop ((t.pc - c.header).toNat - 4 + len)).all (· == 0)
  | none => true

/-- A shift immediate above 31, which only a prefix can give, is refused (R51, R288). -/
def shiftImmOk (t : Thread) (i : Instr) : Bool :=
  match i with
  | .shli _ _ _ _ | .shri _ _ _ _ | .sari _ _ _ _ => t.immx.getD 0 == 0
  | _ => true

/-- The checks made at issue whatever the predicate (R26, R38, R43, R47, R51, R59). -/
def issueOk (t : Thread) (w : Workgroup) (i : Instr) : Bool :=
  i.gOperands.all (fun o => o.reg.toNat + o.count ≤ w.sizes.regs)
  && (!namesScales i || 64 ≤ w.sizes.regs)
  && (!countsA i || (match t.clause with
      | some c => c.setA != 15
      | none => false))
  && (!countsB i || (match t.clause with
      | some c => c.setB != 15
      | none => false))
  && (!isTransfer i || lastInClause t (instrLen i))
  && shiftImmOk t i

/-- Resume point at a clause header (R406). -/
def resumeHeader (t : Thread) : Resume := ⟨.header, none, t.pc, t.pc⟩

/-- Address and resume points of the instruction a thread stands at (R403, R406, R51). -/
def resumeOf (t : Thread) (i : Instr) : Resume :=
  if t.clause.isNone then resumeHeader t else
  { kind := if isTransfer i then .transfer else .body
    clause := t.clause
    retryPc := if t.immx.isSome then t.pc - 4 else t.pc
    skipPc := if isTransfer i then (match t.clause with
        | some c => c.stop
        | none => t.pc) else t.pc + BitVec.ofNat 64 (instrLen i) }

/-- Resume point of a deferred trap: where it is taken, before a prefix that has just been executed (R51, R406). -/
def resumeDeferred (t : Thread) : Resume :=
  let pc := if t.immx.isSome then t.pc - 4 else t.pc
  ⟨.deferred, t.clause, pc, pc⟩

/-- Resume point of an instruction that has issued: retry issues it anew (R240, R406). -/
def resumeIssued (c : Option Clause) (pc : DWord) : Resume := ⟨.body, c, pc, pc + 4⟩

/-- Is the thread in supervisor context (R401). -/
def supervisor (t : Thread) (w : Workgroup) : Bool := t.ta || w.super

/-- A control register of the workgroup takes a value (R58, R96, R139, R359, R403). -/
def Workgroup.setCr (w : Workgroup) (n : Nat) (v : DWord) : Workgroup :=
  match n with
  | 0 => { w with trapvec := v }
  | 1 => { w with trapen := v.setWidth 32 }
  | 5 => { w with contain := v.toNat % 256 }
  | 6 => { w with asid := v.toNat % 256 }
  | 7 => { w with ptbase := v.toNat }
  | 8 => { w with hashdom := v.toNat % 1024 }
  | 9 => { w with mhold := v.toNat % 65536 }
  | 10 => { w with unichk := v.getLsbD 0 }
  | 11 => { w with lead := v.toNat % 8 }
  | _ => w

/-- A thread reaches a clause boundary: its control register writes apply, and it sees the settled
value of every uniform register (R60, R296, R403). DESIGN CHOICE (log 10): a thread that stands at a boundary when a
register is written keeps the older value until it next reaches one. -/
def atBoundary (s : State) (k : Nat) : State :=
  match s.thread? k with
  | none => s
  | some t => s.modWg t.wg fun w =>
      let w := (w.crWrites.filter (·.thread = k)).foldl (fun w c => w.setCr c.reg c.value) w
      { w with
        crWrites := w.crWrites.filter (·.thread ≠ k)
        stale := (w.stale.map fun u => { u with readers := u.readers.filter (· ≠ t.lin) }).filter (·.readers ≠ []) }

/-- What every instruction does to its thread besides its effect when the thread goes on after it (R407, R413): now is
the tick, c the core's cycle. A counted operation of the instruction that is under way completes it later (R45). -/
def Thread.retire (t : Thread) (now c : Nat) : Thread :=
  { t with
    immx := none, wait := none, woken := none, issued := now, ready := some c
    retry := if t.inflight.any fun x => x.pc == t.pc then t.retry else 0 }

/-- The thread goes to a clause boundary at pc. -/
def goHeader (s : State) (k : Nat) (pc : DWord) : State :=
  atBoundary (s.modThread k fun t => { t with pc := pc, clause := none }) k

/-- The thread goes on at pc inside its clause, or to the boundary at the clause's end (R42). -/
def goBody (s : State) (k : Nat) (c : Option Clause) (pc : DWord) : State :=
  match c with
  | some cl => if pc = cl.stop then goHeader s k pc else s.modThread k fun t => { t with pc := pc, clause := some cl }
  | none => goHeader s k pc

/-- The thread completes the instruction of length len and goes on after it. -/
def advance (s : State) (k : Nat) (len : Nat) : State :=
  match s.thread? k with
  | none => s
  | some t => goBody (s.setThread k (t.retire s.now (s.cycles (coreOf k)))) k t.clause (t.pc + BitVec.ofNat 64 len)

/-- The thread completes a taken transfer to pc. -/
def transferTo (s : State) (k : Nat) (pc : DWord) : State :=
  goHeader (s.modThread k fun t => t.retire s.now (s.cycles (coreOf k))) k pc

/-- Resumes at a point of T.resume, for retry or for skip (R406); within a body the rest of the clause is
fetched afresh (R109). -/
def resumeAt (s : State) (k : Nat) (r : Resume) (skip : Bool) : State :=
  let pc := if skip then r.skipPc else r.retryPc
  match r.kind with
  | .body | .transfer | .deferred =>
    (goBody s k r.clause pc).modThread k fun t => { t with refetch := t.clause.isSome }
  | .header | .divHint => goHeader s k pc

/-! Buffer entries (R251). -/

/-- An entry that nothing has filled. -/
def BufEntry.empty : BufEntry := ⟨.free, 0, 0, 0, 0, 0, false⟩

/-- A buffer entry of a core. -/
def Core.buf (c : Core) (e : Nat) : BufEntry := (mget c.bufs e).getD BufEntry.empty

/-- May the workgroup act on the entry: it is free for all, or its own (R251). -/
def BufEntry.opens (b : BufEntry) (w : Nat) : Bool := (b.st == .free && !b.release) || b.owner == w

/-- Stores an entry; one that is free and unread is not listed. -/
def Core.setBuf (c : Core) (e : Nat) (b : BufEntry) : Core :=
  { c with bufs := if b.st = .free ∧ b.ldbs = 0 then mdel c.bufs e else mput c.bufs e b }

/-- A release-pending entry becomes free once no LDB and no CPYO uses it (R251). -/
def BufEntry.check (b : BufEntry) : BufEntry :=
  if b.release && b.ldbs == 0 && b.cpyos == 0 then BufEntry.empty else b

/-- A fill job of the entry ends (R251). -/
def BufEntry.filled (b : BufEntry) (ok : Bool) : BufEntry :=
  if b.st ≠ .filling then b else if ok then { b with st := .full } else { BufEntry.empty with ldbs := b.ldbs }

/-- A CPYO job of the entry ends (R251). -/
def BufEntry.drained (b : BufEntry) : BufEntry :=
  let b := { b with cpyos := b.cpyos - 1 }
  if b.cpyos = 0 ∧ b.st = .draining ∧ !b.release then { b with st := .full } else b.check

/-- An LDB of the entry retires (R251). -/
def BufEntry.read (b : BufEntry) : BufEntry := { b with ldbs := b.ldbs - 1 }.check

/-- Changes an entry of a core. -/
def State.modBuf (s : State) (core e : Nat) (f : BufEntry → BufEntry) : State :=
  s.modCore core fun c => c.setBuf e (f (c.buf e))

/-- Row of a thread slot (R342). -/
def rowOf (slot : Nat) : Fin 4 := ⟨slot % 4, Nat.mod_lt _ (by decide)⟩

/-- May a thread be saved where it waits within a clause: at the instructions of R49, and in a backoff wait (R407). -/
def WaitReason.saves : WaitReason → Bool
  | .handle | .entry | .barrier | .step | .superstep | .rendezvous | .backoff => true
  | .mask | .busy | .flagFull | .jobTable | .recordQueue | .acks | .fence | .order | .tret | .pinLimit
  | .engineQueue | .exitFlags => false

/-- Does a thread wait where it can be saved. -/
def Thread.waitSaves (t : Thread) : Bool :=
  match t.wait with
  | some (r, _) => r.saves
  | none => false

/-- Does a thread stand where it can be saved: at a clause boundary, blocked, stopped, or in a row that has
stopped (R22, R49, R414). -/
def threadStopped (s : State) (k : Nat) (t : Thread) : Bool :=
  t.clause.isNone || t.run == .halted || t.waitSaves
    || ((s.core (coreOf k)).rows[(rowOf (k % 2048)).val]'(rowOf (k % 2048)).isLt).stopped

/-! Ending threads and units (R408, R409). -/

/-- The reads of entries that a thread has in flight are discarded. -/
def dropEntryReads (s : State) (core : Nat) (t : Thread) : State :=
  t.inflight.foldl (fun s x => match x.entry with
    | some e => s.modBuf core e BufEntry.read
    | none => s) s

/-- The thread leaves its slot and counts as exited. -/
def endThread (s : State) (k : Nat) : State :=
  match s.thread? k with
  | none => s
  | some t =>
    let s := dropEntryReads s (coreOf k) t
    { s with threads := mdel s.threads k }.modWg t.wg fun w =>
      { w with
        exited := w.exited ++ [t.lin]
        metGone := w.metGone ++ t.meet.toList
        crWrites := w.crWrites.filter (·.thread ≠ k)
        stale := (w.stale.map fun (u : StaleUniform) => { u with readers := u.readers.filter (· ≠ t.lin) }).filter (·.readers ≠ []) }

/-- Releases the engine for a workgroup: nothing more is accepted (R319). -/
def Engine.release (e : Engine) (w : Nat) (dropUnstarted : Bool) : Engine :=
  if e.owner = some w then
    { e with
      releasing := true
      queue := if dropUnstarted then e.queue.filter (·.started.isSome)
        else e.queue.map fun i => { i with closed := true } }
  else e

/-- Lowers the pin count of data entries; one that nothing refers to any more is free (R143, R144). -/
def unpin (s : State) (pins : List Nat) : State :=
  pins.foldl (fun s n => match mget s.entries n with
    | none => s
    | some e =>
      let left := e.pins - 1
      { s with entries := if e.refs = 0 ∧ left = 0 then mdel s.entries n else mput s.entries n { e with pins := left } }) s

/-- Pins of the items of an engine that a kill discards. -/
def Engine.dropped (e : Engine) (w : Nat) : List Nat :=
  if e.owner = some w then (e.queue.filter (·.started.isNone)).flatMap (·.pins) else []

/-- Kills a workgroup (R408). -/
def killWg (s : State) (w : Nat) : State :=
  match s.wg? w with
  | none => s
  | some x =>
    if x.phase = .ended ∨ x.phase = .gone then s else
    let s := { s with
      threads := s.threads.filter (fun e => e.2.wg ≠ w)
      gather := s.gather.map fun l => l.filter fun r => (s.thread? r.key).map (·.wg) != some w
      accs := s.accs.filter (fun e => !(e.2.wg == w && (match e.2.op with
        | .load _ _ | .piece _ | .read _ => true
        | .store _ | .atom _ _ _ | .red _ _ | .cctl _ | .code _ _ | .write _ _ | .swap _ _ _ | .update _ _ _ => false)))
      chunks := s.chunks.filter (fun c => x.phase != .saved || !(match c.handle with
        | some h => h.1 == w
        | none => false)) }
    let s := unpin s ((s.core x.core).engine.dropped w)
    let s := s.modCore x.core fun c => { c with
      jobs := c.jobs.map fun e => if e.2.wg = w then (e.1, { e.2 with cancel := true }) else e
      engine := c.engine.release w true }
    s.modWg w fun x => { x with
      killed := true
      image := none
      phase := match x.phase with
        | .saved => .ended
        | .saving => .running
        | p => p
      exited := List.range (x.sizes.wgX * x.sizes.wgY * x.sizes.wgZ) }

/-- Workgroups of a cluster group (R382). -/
def groupWgs (s : State) (launch group : Nat) : List Nat :=
  (s.wgs.filter fun e => e.2.coords.launch == launch && e.2.coords.group == group && e.2.phase != .ended && e.2.phase != .gone).map (·.1)

/-- Have all threads of a cluster group that is being saved stopped (R414). -/
def groupStopped (s : State) (launch group : Nat) : Bool :=
  s.threads.all fun x => threadStopped s x.1 x.2 || (match s.wg? x.2.wg with
    | some w => w.coords.launch != launch || w.coords.group != group
    | none => true)

/-- Core of some member of a group. -/
def groupCore (s : State) (launch group : Nat) : Nat :=
  match (groupWgs s launch group).filterMap s.wg? with
  | w :: _ => w.core
  | [] => 0

/-- Workgroups of a launch. -/
def launchWgs (s : State) (launch : Nat) : List Nat :=
  (s.wgs.filter fun e => e.2.coords.launch == launch && e.2.phase != .ended && e.2.phase != .gone).map (·.1)

/-- Kills a unit that contains a thread: 0 thread, 1 workgroup, 2 cluster group, 3 grid (R408). -/
def killUnit (s : State) (level : Nat) (k w : Nat) (ti : TrapInfo) (pc : DWord) : State :=
  match s.wg? w with
  | none => s
  | some x =>
    match level with
    | 0 => endThread s k
    | 1 => killWg s w
    | 2 => (groupWgs s x.coords.launch x.coords.group).foldl killWg s
    | _ =>
      let s := (launchWgs s x.coords.launch).foldl killWg s
      s.modRun x.coords.launch fun l =>
        if l.phase = .active then { l with phase := .killing, killed := some (ti.cause.code, pc, x.core) } else l

/-- The control node kills a launch, which ends KILLED (R408, R411). No fault has ended it: the cause, TRAPADDR and core of
its completion record are free values (log 9). -/
def killLaunch (s : State) (launch : Nat) : State :=
  let u : State := { (launchWgs s launch).foldl killWg s with free := s.free + 3 }
  u.modRun launch fun l =>
    if l.phase = .active then { l with
      phase := .killing
      killed := some (Config.freeNat s.free % 256, BitVec.ofNat 64 (Config.freeNat (s.free + 1)), Config.freeNat (s.free + 2) % 2 ^ 32) }
    else l

/-- What containment decides (R407). -/
inductive Verdict where
  | skip
  | retry
  | kill (level : Nat)
deriving DecidableEq, Repr

/-- Containment from level l upwards, n levels left (R407). -/
def containFrom (contain : Nat) (ti : TrapInfo) (retries : Nat) (l : Nat) : Nat → Verdict
  | 0 => .kill 3
  | n + 1 =>
    match contain / 4 ^ l % 4 with
    | 0 => if ti.cause.ignorable then .skip else containFrom contain ti retries (l + 1) n
    | 1 => if ti.retryable && retries < 3 then .retry else containFrom contain ti retries (l + 1) n
    | 2 => .kill l
    | _ => .kill (min (l + 1) 3)

/-- Containment of a thread's trap (R407). -/
def containment (s : State) (k : Nat) (ti : TrapInfo) (r : Resume) (pc : DWord) : State :=
  match s.thread? k with
  | none => s
  | some t =>
    match s.wg? t.wg with
    | none => s
    | some w =>
      match containFrom w.contain ti t.retry 0 4 with
      | .skip => resumeAt s k r true
      | .retry =>
        let s := s.modThread k fun t => { t with
          retry := t.retry + 1
          issued := s.now
          backoff := some (s.cycles (coreOf k) + 256 * 4 ^ t.retry), wait := some (.backoff, s.now), ready := none }
        resumeAt s k r false
      | .kill l => killUnit s l k t.wg ti pc

/-- The thread no longer waits at its instruction, which had no effect (R12, R404): an SSTEP has not counted and
an RDV is not posted. -/
def Thread.unblock (t : Thread) : Thread :=
  { t with
    wait := none, woken := none, rdv := none, immx := none, backoff := none, held := none, troupe := none
    sstep := match t.wait with
      | some (.superstep, _) => t.sstep - 1
      | _ => t.sstep }

/-- Taking a trap (R404): the thread enters its handler, or goes to containment. pc is TRAPADDR. -/
def takeTrap (s : State) (k : Nat) (ti : TrapInfo) (r : Resume) (pc : DWord) : State :=
  match s.thread? k with
  | none => s
  | some t =>
    match s.wg? t.wg with
    | none => s
    | some w =>
      let ready := some (s.cycles (coreOf k))
      let record := fun (nest : Bool) => { t.unblock with
        ready := ready
        trapCause := trapCauseWord ti nest, trapAddr := pc, trapTid := trapTidWord ti t.lin (k % 2048) }
      if t.ta then containment (s.setThread k (record true)) k ti r pc
      else if w.trapen.getLsbD ti.cause.code then
        goHeader (s.setThread k { record false with resume := some r, ta := true }) k w.trapvec
      else containment (s.setThread k { t.unblock with ready := ready }) k ti r pc

/-! The runner. -/

/-- What an instruction does in one thread. -/
inductive Effect where
  /-- it completes; the thread goes on after it -/
  | next (s : State)
  /-- it completes as a taken transfer -/
  | jump (s : State) (pc : DWord)
  /-- it has placed the thread itself -/
  | placed (s : State)
  /-- the thread stays at the instruction -/
  | wait (s : State) (r : WaitReason)
  /-- it raises a trap -/
  | trap (s : State) (ti : TrapInfo)
  /-- it raises a trap that resumes and reports otherwise than at the instruction (R355, R406) -/
  | trapAt (s : State) (ti : TrapInfo) (r : Resume) (pc : DWord)

/-- The thread stays, waiting since the first time it did. -/
def holdThread (s : State) (k : Nat) (r : WaitReason) : State :=
  s.modThread k fun t => { t with
    ready := none
    wait := some (r, match t.wait with
      | some (q, since) => if q = r then since else s.now
      | none => s.now) }

/-- A trap raised by the instruction at which a thread stands. -/
def raised (k : Nat) (t : Thread) (i : Instr) (ti : TrapInfo) : Raised :=
  ⟨k, ti, resumeOf t i, (resumeOf t i).retryPc⟩

/-- Takes the raised traps one at a time in slot order; a killed thread's trap is discarded (R405). -/
def takeTraps (s : State) (traps : List Raised) : State :=
  traps.foldl (fun s x => takeTrap s x.key x.trap x.resume x.pc) s

/-- Takes the raised traps, or where more may come in the core's cycle lists them, to be taken in slot order together
(R405). -/
def raiseTraps (s : State) (traps : List Raised) : State :=
  match s.gather with
  | none => takeTraps s traps
  | some l => { s with gather := some (l ++ traps) }

/-- Puts a trap behind those of its slot and of lower ones. -/
def insertRaised (x : Raised) : List Raised → List Raised
  | [] => [x]
  | y :: r => if y.key ≤ x.key then y :: insertRaised x r else x :: y :: r

/-- The traps of one cycle in increasing slot order (R405). -/
def inSlotOrder (traps : List Raised) : List Raised := traps.foldl (fun l x => insertRaised x l) []

/-- Is the flag an operation counts on at its limit (R45). -/
def flagFull (t : Thread) (i : Instr) : Bool :=
  match t.clause with
  | some c => (countsA i && t.rdF c.setA.toNat == 63) || (countsB i && t.rdF c.setB.toNat == 63)
  | none => false

/-- One member of the troupe executes the instruction. -/
def runMember (i : Instr) (p : PReg) (body : State → Nat → Nat → Effect)
    (acc : State × List Raised) (k lane : Nat) : State × List Raised :=
  let s := acc.1
  match s.thread? k with
  | none => acc
  | some t =>
    match s.wg? t.wg with
    | none => acc
    | some w =>
      if !issueOk t w i then (s, acc.2 ++ [raised k t i { cause := .illegalOp }])
      else if !t.rdP p then
        (if isTransfer i then transferTo s k (resumeOf t i).skipPc else advance s k (instrLen i), acc.2)
      else if flagFull t i then (holdThread s k .flagFull, acc.2)
      else match body s k lane with
        | .next s => (advance s k (instrLen i), acc.2)
        | .jump s pc => (transferTo s k pc, acc.2)
        | .placed s => (s, acc.2)
        | .wait s r => (holdThread s k r, acc.2)
        | .trap s ti => (s, acc.2 ++ [raised k t i ti])
        | .trapAt s ti r pc => (s, acc.2 ++ [⟨k, ti, r, pc⟩])

/-- Members with the lane each passes through: the k-th member takes lane position k mod 8 of its row (R347). -/
def memberLanes (u : Troupe) : List (Nat × Nat) :=
  u.slots.zipIdx.map fun x => (tkey u.core x.1, x.1 % 4 * 8 + x.2 % 8)

/-- Does a member stand where it stood when the troupe issued; a partner's RDV may have completed its own (R371). -/
def stillThere (s u : State) (k : Nat) : Bool := (s.thread? k).map (·.pc) == (u.thread? k).map (·.pc)

/-- Executes an instruction in each member of the troupe, in slot order (the model's choice among the orders that R220
leaves open), then takes the traps raised. -/
def runThreads (i : Instr) (p : PReg) (body : State → Nat → Nat → Effect) (s : State) : State :=
  let r := (memberLanes s.cur).foldl (fun acc x =>
    if stillThere s acc.1 x.1 then runMember i p body acc x.1 x.2 else acc) (s, [])
  raiseTraps r.1 r.2

/-- The outcome of every meaning: a next state. -/
abbrev Out := Host.Outcome State Fault Refusal

/-- An instruction's meaning by what it does in one thread. -/
def perThread (i : Instr) (p : PReg) (body : State → Nat → Nat → Effect) (s : State) : Out :=
  .next (runThreads i p body s)

/-- An instruction that changes only its own thread. -/
def onThread (i : Instr) (p : PReg) (f : Thread → Thread) (s : State) : Out :=
  perThread i p (fun s k _ => .next (s.modThread k f)) s

/-- The flag a counted operation of the thread counts on. -/
def Thread.flagA (t : Thread) : Nat :=
  match t.clause with
  | some c => c.setA.toNat
  | none => 15

/-- A counted operation is in flight from now on (R45). -/
def Thread.count (t : Thread) (x : Flight) : Thread :=
  { t.wrF x.flag (t.rdF x.flag + 1) with inflight := t.inflight ++ [{ x with inTrap := t.ta }] }

/-- A counted operation whose results are known when it issues (R45, R48). -/
def Thread.countResult (t : Thread) (ws : List RegWrite) : Thread :=
  t.count { flag := t.flagA, result := some ws, pc := t.pc }

/-- A counted instruction whose results are a function of its thread at issue. -/
def onThreadCounted (i : Instr) (p : PReg) (f : Thread → List RegWrite) (s : State) : Out :=
  onThread i p (fun t => t.countResult (f t)) s

/-- An event of another agent: it happens if it can, and otherwise nothing does (log 1). -/
def whenCan (c : Bool) (s' s : State) : Out := .next (if c then s' else s)

end Sys2Proof.Machine
end

