-- ==== Sys2Proof/Machine/Alu.lean ====
section
/-! DEFINITION. Integer operations (R279 to R287). -/

namespace Sys2Proof.Machine

/-- ADD (R280, R281). -/
def execAdd (b a d : Reg) (p : PReg) (s : State) : Out :=
  onThread (.add b a d p) p (fun t => t.wrG d (t.rdG a + t.rdG b)) s
/-- SUB (R280, R281). -/
def execSub (b a d : Reg) (p : PReg) (s : State) : Out :=
  onThread (.sub b a d p) p (fun t => t.wrG d (t.rdG a - t.rdG b)) s
/-- MUL (R280, R281). -/
def execMul (b a d : Reg) (p : PReg) (s : State) : Out :=
  onThread (.mul b a d p) p (fun t => t.wrG d (t.rdG a * t.rdG b)) s
/-- MULH (R280, R281). -/
def execMulh (b a d : Reg) (p : PReg) (s : State) : Out :=
  onThread (.mulh b a d p) p (fun t => t.wrG d (mulhW (t.rdG a) (t.rdG b))) s
/-- MULHN (R280, R281). -/
def execMulhn (b a d : Reg) (p : PReg) (s : State) : Out :=
  onThread (.mulhn b a d p) p (fun t => t.wrG d (mulhnW (t.rdG a) (t.rdG b))) s
/-- AND (R280, R281). -/
def execAnd (b a d : Reg) (p : PReg) (s : State) : Out :=
  onThread (.and b a d p) p (fun t => t.wrG d (t.rdG a &&& t.rdG b)) s
/-- OR (R280, R281). -/
def execOr (b a d : Reg) (p : PReg) (s : State) : Out :=
  onThread (.or b a d p) p (fun t => t.wrG d (t.rdG a ||| t.rdG b)) s
/-- XOR (R280, R281). -/
def execXor (b a d : Reg) (p : PReg) (s : State) : Out :=
  onThread (.xor b a d p) p (fun t => t.wrG d (t.rdG a ^^^ t.rdG b)) s
/-- ANDN (R280, R281). -/
def execAndn (b a d : Reg) (p : PReg) (s : State) : Out :=
  onThread (.andn b a d p) p (fun t => t.wrG d (t.rdG a &&& ~~~(t.rdG b))) s
/-- SHL (R280, R281). -/
def execShl (b a d : Reg) (p : PReg) (s : State) : Out :=
  onThread (.shl b a d p) p (fun t => t.wrG d (shlW (t.rdG a) (t.rdG b))) s
/-- SHR (R280, R281). -/
def execShr (b a d : Reg) (p : PReg) (s : State) : Out :=
  onThread (.shr b a d p) p (fun t => t.wrG d (shrW (t.rdG a) (t.rdG b))) s
/-- SAR (R280, R281). -/
def execSar (b a d : Reg) (p : PReg) (s : State) : Out :=
  onThread (.sar b a d p) p (fun t => t.wrG d (sarW (t.rdG a) (t.rdG b))) s
/-- ROT (R280, R281). -/
def execRot (b a d : Reg) (p : PReg) (s : State) : Out :=
  onThread (.rot b a d p) p (fun t => t.wrG d (rotW (t.rdG a) (t.rdG b))) s
/-- MIN (R280, R281). -/
def execMin (b a d : Reg) (p : PReg) (s : State) : Out :=
  onThread (.min b a d p) p (fun t => t.wrG d (minW (t.rdG a) (t.rdG b))) s
/-- MAX (R280, R281). -/
def execMax (b a d : Reg) (p : PReg) (s : State) : Out :=
  onThread (.max b a d p) p (fun t => t.wrG d (maxW (t.rdG a) (t.rdG b))) s
/-- MINN (R280, R281). -/
def execMinn (b a d : Reg) (p : PReg) (s : State) : Out :=
  onThread (.minn b a d p) p (fun t => t.wrG d (minnW (t.rdG a) (t.rdG b))) s
/-- MAXN (R282). -/
def execMaxn (b a d : Reg) (p : PReg) (s : State) : Out :=
  onThread (.maxn b a d p) p (fun t => t.wrG d (maxnW (t.rdG a) (t.rdG b))) s
/-- ABS (R282). -/
def execAbs (a d : Reg) (p : PReg) (s : State) : Out :=
  onThread (.abs a d p) p (fun t => t.wrG d (absW (t.rdG a))) s
/-- NEG (R282). -/
def execNeg (a d : Reg) (p : PReg) (s : State) : Out :=
  onThread (.neg a d p) p (fun t => t.wrG d (0 - t.rdG a)) s
/-- CLZ (R282). -/
def execClz (a d : Reg) (p : PReg) (s : State) : Out :=
  onThread (.clz a d p) p (fun t => t.wrG d (clzW (t.rdG a))) s
/-- POPC (R282). -/
def execPopc (a d : Reg) (p : PReg) (s : State) : Out :=
  onThread (.popc a d p) p (fun t => t.wrG d (popcW (t.rdG a))) s
/-- BREV (R282). -/
def execBrev (a d : Reg) (p : PReg) (s : State) : Out :=
  onThread (.brev a d p) p (fun t => t.wrG d (brevW (t.rdG a))) s
/-- MOV (R282). -/
def execMov (a d : Reg) (p : PReg) (s : State) : Out :=
  onThread (.mov a d p) p (fun t => t.wrG d (t.rdG a)) s
/-- DIV, counted on setA (R283). -/
def execDiv (b a d : Reg) (p : PReg) (s : State) : Out :=
  onThreadCounted (.div b a d p) p (fun t => [.g d (divW (t.rdG a) (t.rdG b))]) s
/-- REM, counted on setA (R283). -/
def execRem (b a d : Reg) (p : PReg) (s : State) : Out :=
  onThreadCounted (.rem b a d p) p (fun t => [.g d (remW (t.rdG a) (t.rdG b))]) s
/-- DIVN, counted on setA (R283). -/
def execDivn (b a d : Reg) (p : PReg) (s : State) : Out :=
  onThreadCounted (.divn b a d p) p (fun t => [.g d (divnW (t.rdG a) (t.rdG b))]) s
/-- REMN, counted on setA (R283). -/
def execRemn (b a d : Reg) (p : PReg) (s : State) : Out :=
  onThreadCounted (.remn b a d p) p (fun t => [.g d (remnW (t.rdG a) (t.rdG b))]) s
/-- SEL, which executes whatever the selector (R284). -/
def execSel (b a d : Reg) (q : PReg) (s : State) : Out :=
  onThread (.sel b a d q) 7 (fun t => t.wrG d (if t.rdP q then t.rdG a else t.rdG b)) s
/-- LEA (R285). -/
def execLea (b a d : Reg) (p : PReg) (s : State) : Out :=
  onThread (.lea b a d p) p (fun t => t.wrPair d (leaD (t.rdPair a) (t.rdG b))) s
/-- MAD (R286). -/
def execMad (b a d : Reg) (p : PReg) (s : State) : Out :=
  onThread (.mad b a d p) p (fun t => t.wrG d (madW (t.rdG a) (t.rdG b) (t.rdG d))) s
/-- BFE (R287). -/
def execBfe (b a d : Reg) (p : PReg) (s : State) : Out :=
  onThread (.bfe b a d p) p (fun t => t.wrG d (bfeW (t.rdG a) (t.rdG b))) s
/-- BFI (R287). -/
def execBfi (b a d : Reg) (p : PReg) (s : State) : Out :=
  onThread (.bfi b a d p) p (fun t => t.wrG d (bfiW (t.rdG a) (t.rdG b) (t.rdG d))) s

end Sys2Proof.Machine
end

