-- ==== Sys2Proof/Machine/Operands.lean ====
section
/-! DEFINITION. Operand forms: immediates (R51, R288), memory formats (R212), atomic operations (R227),
locations in the spaces that are not translated (R209, R210), and operand descriptors (R321). -/

namespace Sys2Proof.Machine

/-- The immediate of an I-format instruction: with a prefix payload · 1024 + imm10, else imm10 sign
extended (R51, R288). -/
def Thread.imm (t : Thread) (i : BitVec 10) : Word :=
  match t.immx with
  | some x => x ++ i
  | none => i.signExtend 32

/-! Memory formats. -/

/-- Access size of a memory format (R212). -/
def fmtSize : Fmt → Nat
  | .b8 | .i8 | .e4m3 | .e5m2 => 1
  | .b16 | .i16 | .bf16 | .f16 => 2
  | .b32 | .e4m3x4 | .i8x4 => 4
  | .b64 | .bf16x4 => 8
  | .b128 => 16
  | .b256 => 32

/-- The n-byte elements of a byte string, as numbers. -/
def elements (n : Nat) (b : List Byte) : Nat → List Nat
  | 0 => []
  | k + 1 => bytesNat (b.take n) :: elements n (b.drop n) k

/-- What a load of a format writes, register by register (R199, R212). -/
def fmtLoad (f : Fmt) (b : List Byte) : List Word :=
  let v := bytesNat b
  match f with
  | .b8 | .b16 | .b32 => [BitVec.ofNat 32 v]
  | .i8 => [BitVec.ofInt 32 (sextInt v 8)]
  | .i16 => [BitVec.ofInt 32 (sextInt v 16)]
  | .b64 => (elements 4 b 2).map (BitVec.ofNat 32)
  | .b128 => (elements 4 b 4).map (BitVec.ofNat 32)
  | .b256 => (elements 4 b 8).map (BitVec.ofNat 32)
  | .bf16 => [widen bf16Fmt v]
  | .f16 => [widen f16Fmt v]
  | .e4m3 => [widen e4m3Fmt v]
  | .e5m2 => [widen e5m2Fmt v]
  | .bf16x4 => (elements 2 b 4).map (widen bf16Fmt)
  | .e4m3x4 => (elements 1 b 4).map (widen e4m3Fmt)
  | .i8x4 => (elements 1 b 4).map fun x => BitVec.ofInt 32 (sextInt x 8)

/-- An i32 clamped to a signed byte (R199). -/
def clampByte (w : Word) : Nat := (max (-128) (min 127 w.toInt) % 256).toNat

/-- The bytes a store of a format takes from its registers (R199, R212). -/
def fmtStore (f : Fmt) (ws : List Word) : List Byte :=
  let v := (ws.headD 0).toNat
  match f with
  | .b8 | .i8 => natBytes 1 v
  | .b16 | .i16 => natBytes 2 v
  | .b32 | .b64 | .b128 | .b256 => ws.flatMap fun w => natBytes 4 w.toNat
  | .bf16 => natBytes 2 (narrow bf16Fmt (ws.headD 0))
  | .f16 => natBytes 2 (narrow f16Fmt (ws.headD 0))
  | .e4m3 => natBytes 1 (narrow e4m3Fmt (ws.headD 0))
  | .e5m2 => natBytes 1 (narrow e5m2Fmt (ws.headD 0))
  | .bf16x4 => ws.flatMap fun w => natBytes 2 (narrow bf16Fmt w)
  | .e4m3x4 => ws.flatMap fun w => natBytes 1 (narrow e4m3Fmt w)
  | .i8x4 => ws.flatMap fun w => natBytes 1 (clampByte w)

/-- Register writes of consecutive values from d. -/
def spanWrites (d : Reg) (ws : List Word) : List RegWrite :=
  ws.zipIdx.map fun x => RegWrite.g (d + BitVec.ofNat 6 x.2) x.1

/-! Atomic operations. -/

/-- Access size of an atomic operation (R227). -/
def atomSize : AtomOp → Nat
  | .addN64 | .exch64 | .cas64 => 8
  | .addI32 | .addF32 | .addBf16x2 | .minI32 | .maxI32 | .minN32 | .maxN32 | .and | .or | .xor | .exch
  | .cas32 | .incwrap => 4

/-- A pair of words, low word first. -/
def pairNat (lo hi : Word) : Nat := lo.toNat + hi.toNat * 2 ^ 32

/-- The new value an atomic stores, from the old value and the operand registers; none where it stores
nothing (R227). -/
def atomNew (c : AtomOp) (old : Nat) (v : List Word) : Option Nat :=
  let o : Word := BitVec.ofNat 32 old
  let a := v.headD 0
  match c with
  | .addI32 => some (o + a).toNat
  | .addF32 => some (fadd o a).toNat
  | .addBf16x2 => some (packed (fun x y _ => elemAdd bf16Fmt x y) o a 0).toNat
  | .minI32 => some (minW o a).toNat
  | .maxI32 => some (maxW o a).toNat
  | .minN32 => some (minnW o a).toNat
  | .maxN32 => some (maxnW o a).toNat
  | .and => some (o &&& a).toNat
  | .or => some (o ||| a).toNat
  | .xor => some (o ^^^ a).toNat
  | .exch => some a.toNat
  | .cas32 => if o = a then some (v.getD 1 0).toNat else none
  | .addN64 => some ((old + pairNat a (v.getD 1 0)) % 2 ^ 64)
  | .exch64 => some (pairNat a (v.getD 1 0))
  | .cas64 => if old = pairNat a (v.getD 1 0) then some (pairNat (v.getD 2 0) (v.getD 3 0)) else none
  | .incwrap => some (if a.toNat ≤ o.toNat then 0 else o.toNat + 1)

/-- The old value an ATOM writes to its registers (R227). -/
def atomOld (c : AtomOp) (old : Nat) : List Word :=
  (elements 4 (natBytes (atomSize c) old) (atomSize c / 4)).map (BitVec.ofNat 32)

/-! Locations outside the global space. -/

/-- What a local access is made for: the thread's linear index, its workgroup, and its rights. -/
structure LocalCtx where
  lin    : Nat
  wg     : Nat
  w      : Workgroup
  super  : Bool

/-- The member of a workgroup's cluster group with a rank (R209). -/
def memberOf (s : State) (wg : Nat) (w : Workgroup) (rank : Nat) : Option Nat :=
  if rank = w.coords.rank then some wg
  else ((s.wgs.filter fun e => e.2.coords.launch == w.coords.launch && e.2.coords.group == w.coords.group
      && e.2.coords.rank == rank).map (·.1)).head?

/-- Is a wafer-scratchpad offset in a mirror of the broadcast window (R135). -/
def inMirror (off : Nat) : Bool := decide (12 * 2 ^ 20 ≤ off % 2 ^ 24)

/-- Resolves a base in space P, S, C or W: alignment, then bounds (R209, R210, R135). Space G is resolved
by translation. -/
def resolveLocal (s : State) (x : LocalCtx) (sp : Space) (base size : Nat) (write : Bool) : Except Cause Local :=
  match sp with
  | .slice =>
    if base % size ≠ 0 then .error .align
    else if x.w.sizes.slice < base + size then .error .perm
    else .ok (.slice x.wg x.lin base)
  | .scratch =>
    if base % size ≠ 0 then .error .align
    else if x.w.sizes.scratch < base + size then .error .perm
    else .ok (.scratch x.wg base)
  | .window =>
    let off := base % 2 ^ 24
    let rank := base / 2 ^ 24
    if off % size ≠ 0 then .error .align
    else if max 1 x.w.sizes.cgsize ≤ rank || x.w.sizes.window < off + size then .error .perm
    else match memberOf s x.wg x.w rank with
      | some m => .ok (.scratch m off)
      | none => .error .perm
  | .wafer =>
    if base % size ≠ 0 then .error .align
    else if !x.super && (base < x.w.grantLo || x.w.grantHi < base + size) then .error .perm
    else if write && s.bwin && inMirror (base + size - 1) then .error .perm
    else .ok (.wafer base)
  | .global => .error .perm

/-- n bytes at a local position. -/
def readLocal (s : State) (l : Local) (n : Nat) : List Byte :=
  match l with
  | .slice w lin off => (match s.wg? w with
      | some x => readBytes ((mget x.slices lin).getD []) off n
      | none => List.replicate n 0)
  | .scratch w off => (match s.wg? w with
      | some x => readBytes x.scratch off n
      | none => List.replicate n 0)
  | .wafer off => readBytes s.wmem off n

/-- Stores bytes at a local position. -/
def writeLocal (s : State) (l : Local) (b : List Byte) : State :=
  match l with
  | .slice w lin off => s.modWg w fun x => { x with
      slices := mput x.slices lin (writeBytes ((mget x.slices lin).getD []) off b) }
  | .scratch w off => s.modWg w fun x => { x with scratch := writeBytes x.scratch off b }
  | .wafer off => { s with wmem := writeBytes s.wmem off b }

/-! Operand descriptors (R321). -/

/-- An operand descriptor. -/
structure Descriptor where
  space : Space
  bofs  : Nat
  addr  : Nat
deriving DecidableEq, Repr

/-- Reads a descriptor pair; none for any value that raises PERM (R321). -/
def descriptor? (d : DWord) : Option Descriptor :=
  let v := d.toNat
  let sp : Option Space := match bitsNat v 60 4 with
    | 1 => some .scratch
    | 2 => some .window
    | 3 => some .wafer
    | 4 => some .global
    | _ => none
  match sp with
  | none => none
  | some sp =>
    if bitsNat v 52 5 ≠ 0 ∨ (sp ≠ .global ∧ bitsNat v 32 20 ≠ 0) then none
    else some ⟨sp, bitsNat v 57 3, v % 2 ^ 52⟩

end Sys2Proof.Machine
end

