-- ==== Sys2Proof/Machine/Hash.lean ====
section
/-! DEFINITION. SipHash-2-4, the hallmark of a line (R138), and SHA3-384, the measurement hash of the
loader, the core map and the quote (R384, R449, R450). -/

namespace Sys2Proof.Machine

/-- The four words of SipHash. -/
structure Sip where
  v0 : DWord
  v1 : DWord
  v2 : DWord
  v3 : DWord

/-- One round of SipHash. -/
def Sip.round (x : Sip) : Sip :=
  let a := x.v0 + x.v1
  let b := x.v1.rotateLeft 13 ^^^ a
  let c := x.v2 + x.v3
  let d := x.v3.rotateLeft 16 ^^^ c
  let a := a.rotateLeft 32
  let a2 := a + d
  let d2 := d.rotateLeft 21 ^^^ a2
  let c2 := c + b
  let b2 := b.rotateLeft 17 ^^^ c2
  ⟨a2, b2, c2.rotateLeft 32, d2⟩

/-- Takes in one 64-bit word. -/
def Sip.absorb (x : Sip) (m : DWord) : Sip :=
  let y := ({ x with v3 := x.v3 ^^^ m }.round).round
  { y with v0 := y.v0 ^^^ m }

/-- SipHash-2-4 of the 128 bytes of a line under a key, the line taken as a little-endian string (R138). -/
def sipHashLine (key : BitVec 128) (line : Line) : BitVec 64 :=
  let k0 := key.extractLsb' 0 64
  let k1 := key.extractLsb' 64 64
  let start : Sip := ⟨k0 ^^^ 0x736f6d6570736575, k1 ^^^ 0x646f72616e646f6d,
    k0 ^^^ 0x6c7967656e657261, k1 ^^^ 0x7465646279746573⟩
  let x := (List.range 16).foldl (fun x i => x.absorb (line.extractLsb' (64 * i) 64)) start
  -- the last word holds no byte and the length 128 in its top byte
  let x := x.absorb (BitVec.ofNat 64 (128 * 2 ^ 56))
  let x := { x with v2 := x.v2 ^^^ 0xff }
  let x := x.round.round.round.round
  x.v0 ^^^ x.v1 ^^^ x.v2 ^^^ x.v3

/-- Rotation amounts of Keccak, lane x + 5y. -/
def keccakRot : List Nat :=
  [0, 1, 62, 28, 27, 36, 44, 6, 55, 20, 3, 10, 43, 25, 39, 41, 45, 15, 21, 8, 18, 2, 61, 56, 14]

/-- Round constants of Keccak-f[1600]. -/
def keccakRc : List DWord :=
  [0x0000000000000001, 0x0000000000008082, 0x800000000000808a, 0x8000000080008000,
   0x000000000000808b, 0x0000000080000001, 0x8000000080008081, 0x8000000000008009,
   0x000000000000008a, 0x0000000000000088, 0x0000000080008009, 0x000000008000000a] ++
  [0x000000008000808b, 0x800000000000008b, 0x8000000000008089, 0x8000000000008003,
   0x8000000000008002, 0x8000000000000080, 0x000000000000800a, 0x800000008000000a,
   0x8000000080008081, 0x8000000000008080, 0x0000000080000001, 0x8000000080008008]

/-- One round of Keccak on its 25 lanes. -/
def keccakRound (a : List DWord) (rc : DWord) : List DWord :=
  let at_ := fun (l : List DWord) (i : Nat) => l.getD i 0
  let c := (List.range 5).map fun x => at_ a x ^^^ at_ a (x + 5) ^^^ at_ a (x + 10) ^^^ at_ a (x + 15) ^^^ at_ a (x + 20)
  let d := (List.range 5).map fun x => at_ c ((x + 4) % 5) ^^^ (at_ c ((x + 1) % 5)).rotateLeft 1
  let e := a.zipIdx.map fun v => (v.1 ^^^ at_ d (v.2 % 5)).rotateLeft (keccakRot.getD v.2 0)
  -- lane (x, y) of the permuted state comes from lane ((x + 3y) mod 5, x)
  let b := (List.range 25).map fun i => at_ e ((i % 5 + 3 * (i / 5)) % 5 + 5 * (i % 5))
  let f := (List.range 25).map fun i =>
    at_ b i ^^^ (~~~ at_ b (5 * (i / 5) + (i % 5 + 1) % 5) &&& at_ b (5 * (i / 5) + (i % 5 + 2) % 5))
  match f with
  | h :: r => (h ^^^ rc) :: r
  | [] => []

/-- Little-endian value of bytes. -/
def leNat : List Byte → Nat
  | [] => 0
  | b :: bs => b.toNat + 256 * leNat bs

/-- Absorbs one block of 104 bytes. -/
def keccakBlock (a : List DWord) (block : List Byte) : List DWord :=
  let a := a.zipIdx.map fun v =>
    if v.2 < 13 then v.1 ^^^ BitVec.ofNat 64 (leNat ((block.drop (8 * v.2)).take 8)) else v.1
  keccakRc.foldl keccakRound a

/-- Absorbs n blocks. -/
def keccakBlocks (a : List DWord) (m : List Byte) : Nat → List DWord
  | 0 => a
  | n + 1 => keccakBlocks (keccakBlock a (m.take 104)) (m.drop 104) n

/-- SHA3-384 of a byte string; byte 0 of the digest is the lowest byte of the result. -/
def sha3 (m : List Byte) : BitVec 384 :=
  let pad := 104 - m.length % 104
  let tail : List Byte := if pad = 1 then [0x86] else 0x06 :: List.replicate (pad - 2) 0 ++ [0x80]
  let full := m ++ tail
  let a := keccakBlocks (List.replicate 25 0) full (full.length / 104)
  BitVec.ofNat 384 ((a.take 6).zipIdx.foldl (fun n v => n + v.1.toNat * 2 ^ (64 * v.2)) 0)

end Sys2Proof.Machine
end

