-- ==== Sys2Proof/Machine/Home.lean ====
section
/-! DEFINITION. The queues of records (R122, R125), the vaults' lines (R78, R82, R84), the hallmark cache of the L2
slices (R137 to R146), the copies in the L1s, and the reads and writes that an asker has a home make for it
(R104, R131, R133; log 7). A line is named by bits [47:7] of its address within the module. -/

namespace Sys2Proof.Machine

/-! Queues of records. -/

/-- Key of a cluster's queue for a carousel. -/
def queueKey (cluster carousel : Nat) : Nat := cluster * 8 + carousel

def State.queue (s : State) (q : Nat) : List Rec := (mget s.queues q).getD []
/-- Stores a queue; an empty one is not listed. -/
def State.setQueue (s : State) (q : Nat) (l : List Rec) : State :=
  { s with queues := if l.isEmpty then mdel s.queues q else mput s.queues q l }

/-- May a cluster queue a further record for a carousel: the queue is not full and its field is not in
STALL (R125, R422). -/
def queueRoom (s : State) (cluster carousel : Nat) : Bool :=
  decide ((s.queue (queueKey cluster carousel)).length < 64)
    && (s.field (fieldOfCluster cluster)).st != .stall

/-- Queues a record. -/
def enqueue (s : State) (cluster carousel : Nat) (r : Rec) : State :=
  s.setQueue (queueKey cluster carousel) (s.queue (queueKey cluster carousel) ++ [r])

/-- A record with only the fields that every kind has (R122). -/
def recOf (kind : RecKind) (src line : Nat) : Rec := ⟨kind, src, line, 0, 0, none, [], none, false⟩

/-- A record of a unit that no thread waits for: it waits for a place in its queue, behind those that do so already
(R125). -/
def post (s : State) (cluster carousel : Nat) (r : Rec) : State :=
  let q := queueKey cluster carousel
  if queueRoom s cluster carousel && !s.outbox.any (·.1 == q) then enqueue s cluster carousel r
  else { s with outbox := s.outbox ++ [(q, r)] }

/-- The records that wait take the places that their queues have, in order. -/
def pumpOutbox (s : State) : State :=
  s.outbox.foldl (fun s x => post s (x.1 / 8) (x.1 % 8) x.2) { s with outbox := [] }

/-- Vault, slice and cluster of a line (R24, R97). -/
def vaultOf (line : Nat) : Nat := line / 2 ^ 28
/-- Lines of a vault at its capacity (R92). -/
def Vault.lines (v : Vault) : Nat := v.cap * 2 ^ 19

/-- Why a vault line cannot be read or written: INFO of ECC_UNCORR (R82, R84, R79, R400). -/
def vaultError (s : State) (line : Nat) : Option Nat :=
  let v := s.vault (vaultOf line)
  if v.fenced then some 2
  else if v.lines ≤ line % 2 ^ 28 then some 1
  else if v.bad.contains line then some 0
  else none

/-- The content of a vault line. -/
def vaultLine (s : State) (line : Nat) : Line := bytesLine (readBytes s.vmem (line * 128) 128)

/-- Writes a vault line whole; new data with its own ECC replaces a lost line. A line that is no longer
there is dropped (R82, R84). -/
def vaultStore (s : State) (line : Nat) (d : Line) : State :=
  match vaultError s line with
  | some 1 | some 2 => s
  | _ =>
    let v := s.vault (vaultOf line)
    let s := { s with vmem := writeBytes s.vmem (line * 128) (lineBytes d) }
    if v.bad.contains line then s.modVault (vaultOf line) fun v => { v with bad := v.bad.filter (· != line) } else s

/-! Data entries (R137, R140, R141, R143). -/

def State.entry? (s : State) (e : Nat) : Option Entry := mget s.entries e
def State.setEntry (s : State) (e : Nat) (x : Entry) : State := { s with entries := mput s.entries e x }
def State.modEntry (s : State) (e : Nat) (f : Entry → Entry) : State :=
  match s.entry? e with
  | some x => s.setEntry e (f x)
  | none => s
def State.tag? (s : State) (line : Nat) : Option Tag := mget s.tags line
def State.setTag (s : State) (line : Nat) (t : Tag) : State := { s with tags := mput s.tags line t }
def State.modTag (s : State) (line : Nat) (f : Tag → Tag) : State :=
  match s.tag? line with
  | some t => s.setTag line (f t)
  | none => s

/-- Frees an entry that nothing refers to (R144). -/
def freeEntry (s : State) (e : Nat) : State :=
  match s.entry? e with
  | some x => if x.refs = 0 && x.pins = 0 then { s with entries := mdel s.entries e } else s
  | none => s

/-- Drops a tag's reference (R140). -/
def releaseEntry (s : State) (e : Option Nat) : State :=
  match e with
  | some e => freeEntry (s.modEntry e fun x => { x with refs := x.refs - 1 }) e
  | none => s

/-- A new entry with reference count 1 (R140). -/
def newEntry (s : State) (slice dom : Nat) (d : Line) (mark : BitVec 64) (indexed : Bool) : Nat × State :=
  let n := s.fresh
  (n.1, n.2.setEntry n.1 ⟨slice, d, mark, dom, indexed, 1, 0, false⟩)

/-- A domain's key: the one written, or the one drawn at this boot (R148, R149; log 19). -/
def State.hdKey (s : State) (dom : Nat) : BitVec 128 :=
  match mget s.hdKeys dom with
  | some k => k
  | none => Config.domainKey s.hdBoot dom

/-- The entry the slice's index gives for a hallmark (R137). -/
def indexed? (s : State) (slice dom : Nat) (h : BitVec 64) : Option (Nat × Entry) :=
  s.entries.find? fun x => x.2.slice == slice && x.2.dom == dom && x.2.indexed && x.2.mark == h

/-- A line's full content enters a tag (R140). -/
def fillTag (s : State) (line : Nat) (d : Line) : State :=
  match s.tag? line with
  | none => s
  | some t =>
    let slice := vaultOf line
    let s := releaseEntry s t.entry
    let point := fun (r : Nat × State) => r.2.modTag line fun t => { t with entry := some r.1 }
    if t.dom = 0 then point (newEntry s slice 0 d 0 false)
    else
      let h := sipHashLine (s.hdKey t.dom) d
      match indexed? s slice t.dom h with
      | none => point (newEntry s slice t.dom d h true)
      | some (n, e) =>
        if e.data != d then
          point (newEntry (s.modSlice slice fun x => { x with coll := satAdd x.coll 1 0xFFFFFFFF }) slice t.dom d h false)
        else if e.refs = 255 then
          let s := s.modSlice slice fun x => { x with sat := satAdd x.sat 1 0xFFFFFFFF }
          point (newEntry (s.setEntry n { e with indexed := false }) slice t.dom d h true)
        else point (n, s.setEntry n { e with refs := e.refs + 1 })

/-- A write of part of a line at the home (R141). -/
def partTag (s : State) (line off : Nat) (b : List Byte) : State :=
  match s.tag? line with
  | none => s
  | some t =>
    match t.entry with
    | none => s
    | some n =>
      match s.entry? n with
      | none => s
      | some e =>
        let d := patchLine e.data off b
        if 1 < e.refs || 0 < e.pins then
          let r := newEntry s e.slice e.dom d 0 false
          (releaseEntry r.2 (some n)).modTag line fun t => { t with entry := some r.1, dirty := true }
        else (s.setEntry n { e with data := d, indexed := false }).modTag line fun t => { t with dirty := true }

/-- A write at the home to a present tag (R140, R141). -/
def tagWrite (s : State) (line off : Nat) (b : List Byte) : State :=
  if off = 0 && b.length = 128 then (fillTag s line (bytesLine b)).modTag line fun t => { t with dirty := true }
  else partTag s line off b

/-- The data of a present tag; an uncorrectable error in its entry removes it from the index (R145). -/
def tagData (s : State) (t : Tag) : Except Nat Line × State :=
  match t.entry with
  | none => (.error 0, s)
  | some n =>
    match s.entry? n with
    | none => (.error 0, s)
    | some e => if e.bad then (.error 0, s.setEntry n { e with indexed := false }) else (.ok e.data, s)

/-- Frees a tag that no L1 holds, writing a dirty line to the vault first (R144). -/
def dropTag (s : State) (line : Nat) : State :=
  match s.tag? line with
  | none => s
  | some t =>
    let s := if t.dirty then (match tagData s t with
      | (.ok d, s) => vaultStore s line d
      | (.error _, s) => s) else s
    let s := releaseEntry s t.entry
    { s with tags := mdel s.tags line, gens := if t.gen = 0 then mdel s.gens line else mput s.gens line t.gen }

/-- Tags that may be evicted (R144). -/
def Tag.idle (t : Tag) : Bool :=
  t.owner.isNone && t.holders == 0 && t.awaits.isNone && t.held.isEmpty && t.leaving.isNone && !t.writing

/-- Tags and data entries of a slice (R137). -/
def sliceTags : Nat := 786432
def sliceEntries : Nat := 393216

/-- Tags of a slice. -/
def tagsOf (s : State) (slice : Nat) : SMap Tag := s.tags.filter fun x => vaultOf x.1 == slice

/-- Has a slice a free tag, or a free data entry (R137). -/
def tagFree (slice : Nat) (s : State) : Bool := decide ((tagsOf s slice).length < sliceTags)
def entryFree (slice : Nat) (s : State) : Bool :=
  decide ((s.entries.filter fun x => x.2.slice == slice).length < sliceEntries)

/-- Evicts idle tags of a slice, but for one line's, until there is room, n at most; none when no idle tag is left
before (R144). Which tag goes is a free value. -/
def evictUntil (room : State → Bool) (slice keep : Nat) (s : State) : Nat → Option State
  | 0 => if room s then some s else none
  | n + 1 =>
    if room s then some s
    else match s.pick (((tagsOf s slice).filter fun x => x.2.idle && x.1 != keep).map (·.1)) with
      | some (l, s) => evictUntil room slice keep (dropTag s l) n
      | none => none

/-- A new tag for a line, if the slice has or gets a place for it; its GEN goes on from the line's last one (R127, R144;
log 21). -/
def newTag (s : State) (line dom : Nat) : Option State :=
  (evictUntil (tagFree (vaultOf line)) (vaultOf line) line s s.tags.length).map fun s => s.setTag line
    { dirty := false, owner := none, holders := 0, gen := (mget s.gens line).getD 0, dom := dom, entry := none,
      awaits := none, held := [], leaving := none, clean := [], writing := false }

/-- Makes sure of the data entry that a write to a line's tag takes: its own, if nothing shares or pins it, or a free
one, for which idle tags are evicted; none while there is none (R140, R141, R144). -/
def entryRoom (s : State) (line : Nat) : Option State :=
  let own := match ((s.tag? line).bind (·.entry)).bind s.entry? with
    | some e => decide (e.refs ≤ 1) && e.pins == 0
    | none => false
  if own then some s else evictUntil (entryFree (vaultOf line)) (vaultOf line) line s s.tags.length

/-! L1 copies. -/

def State.l1? (s : State) (c line : Nat) : Option L1Line := mget (s.core c).l1 line
def State.setL1 (s : State) (c line : Nat) (x : L1Line) : State :=
  s.modCore c fun k => { k with l1 := mput k.l1 line x }
def State.delL1 (s : State) (c line : Nat) : State :=
  s.modCore c fun k => { k with l1 := mdel k.l1 line }

/-- Has the copy data that it would supply (R126). -/
def Moesi.owns : Moesi → Bool
  | .m | .o | .e => true
  | .s | .i => false
def Moesi.dirty : Moesi → Bool
  | .m | .o => true
  | .e | .s | .i => false

/-- Drops the PUTS and PUTM of a core for a line still waiting in its cluster's queue for the line's carousel (R127). -/
def dropPuts (s : State) (c line : Nat) : State :=
  { s with queues := s.queues.map fun q =>
      if q.1 = clusterOf c * 8 + line % 8 then (q.1, q.2.filter fun r =>
        !(r.src == c && r.line == line && (r.kind == .putm || r.kind == .puts))) else q }

/-- A record takes the line away from a core: its copy goes to I, and what it still waits for remains. -/
def loseL1 (s : State) (c line : Nat) : State :=
  match s.l1? c line with
  | none => s
  | some l =>
    let s := dropPuts s c line
    if l.wants.isSome then s.setL1 c line { l with st := .i, leaving := false } else s.delL1 c line

/-- Cores that have some record of a line in their L1. -/
def holdersOf (s : State) (line : Nat) : List Nat :=
  (s.cores.filter fun c => (mget c.2.l1 line).isSome).map (·.1)

/-! What the tile fetch unit reads (R327; log 7). -/

/-- Is a copy promised to a core whose data has not arrived (R128). -/
def L1Line.promised (l : L1Line) : Bool := l.holder && l.st == .i

/-- Does the tag hold back the requests that come now (R127 to R130, R140). -/
def Tag.blocked (t : Tag) : Bool := t.awaits.isSome || t.freeing

/-- Has a line's home its newest data at hand: a tag with data that no L1 owns, which holds nothing back. -/
def homeFree (s : State) (line : Nat) : Bool :=
  !(s.vault (vaultOf line)).busy && s.clusterRuns (vaultOf line) && (match s.tag? line with
    | some t => !t.blocked && t.held.isEmpty && t.entry.isSome && t.owner.isNone
    | none => false)

/-- An owner's data enters the tag; it is dirty if the owner held it M or O (R127, R140). -/
def ownerData (s : State) (line : Nat) (d : Line) (dirty : Bool) : State :=
  (fillTag s line d).modTag line fun t => { t with owner := none, dirty := t.dirty || dirty }

/-- A line as its home gives it at one moment: its data, or INFO of an error (R84, R145). -/
def homeRead (s : State) (line : Nat) : Option (Except Nat Line × State) :=
  if !homeFree s line then none
  else if (s.vault (vaultOf line)).fenced then some (.error 2, s)
  else (s.tag? line).map fun t => tagData s t

/-! Askers (R104, R114, R131, R133, R381, R440, R443, R449; log 7). -/

/-- ROUTE for a module (R438, R439). -/
def route (s : State) (m : Nat) : Nat := (mget s.link.route m).getD 0
def State.port (s : State) (p : Nat) : Port := (mget s.link.ports p).getD Port.reset
/-- The ports of a module's route that are up (R438). -/
def routePorts (s : State) (m : Nat) : List Nat := (List.range 64).filter fun p => (route s m).testBit p && (s.port p).up
/-- Is a port of a module's route up (R438). -/
def routeUp (s : State) (m : Nat) : Bool := !(routePorts s m).isEmpty
/-- The port that a remote access takes: by a hash of its line address, or the lowest (R438). -/
def portFor (s : State) (pa : Nat) : Option Nat :=
  let l := routePorts s (pa / 2 ^ 48)
  if s.link.mode.testBit 6 then l.head? else l[Config.portHash (pa / 128) % l.length]?

/-- An access as it becomes pending: a thread's own takes the tick and its thread's T.retry with it (R407). -/
def Access.issued (a : Access) (s : State) : Access :=
  if a.job.isSome then a else { a with sent := s.now, tries := ((s.thread? a.thread).map (·.retry)).getD 0 }

/-- Lists an access as pending. -/
def pend (s : State) (a : Access) : Nat × State :=
  let n := s.fresh
  (n.1, { n.2 with accs := mput n.2.accs n.1 (a.issued s) })

/-- Line of an access. -/
def Access.line (a : Access) : Nat := a.pa % 2 ^ 48 / 128

/-- Puts the record of a pending access into its cluster's queue for the line's carousel. -/
def pendRecord (s : State) (a : Access) (r : Rec) : Nat × State :=
  let n := pend s a
  (n.1, enqueue n.2 (clusterOf a.core) (a.line % 8) { r with src := a.core, line := a.line, dom := a.dom, access := some n.1 })

/-- Lists an access to another module as pending, numbered among its core's accesses of the line (R133, R167). -/
def pendRemote (s : State) (a : Access) : Nat × State :=
  let line := a.pa / 128
  let seq := (mget (s.core a.core).seqs line).getD 0
  pend (s.modCore a.core fun c => { c with seqs := mput c.seqs line (seq + 1) })
    { a with remote := true, seq := seq, sent := s.now, port := portFor s a.pa }

/-- The places that mark an access as the tile fetch unit's, or an asker's. -/
def fetchEntry : Nat := 64
def askEntry : Nat := 65

/-- The core whose cluster queues an asker's records: its own, or for a unit that belongs to none the home's
cluster × 32, as R122 gives SRC. -/
def Asker.core (who : Asker) (line : Nat) : Nat :=
  match who with
  | .thread k => coreOf k
  | .job c _ => c
  | .request _ _ | .unit | .record _ | .posted | .loader | .retire _ | .host _ | .other _ _ => 32 * vaultOf line

/-- The asker of an access. -/
def AccessOp.asker? (o : AccessOp) : Option Asker :=
  match o with
  | .read w | .write w _ | .swap w _ _ | .update w _ _ => some w
  | .load _ _ | .store _ | .atom _ _ _ | .red _ _ | .code _ _ | .piece _ | .cctl _ => none

/-- Does an asker's access write. -/
def AccessOp.asksWrite (o : AccessOp) : Bool :=
  match o with
  | .write _ _ | .swap _ _ _ | .update _ _ _ => true
  | .read _ | .load _ _ | .store _ | .atom _ _ _ | .red _ _ | .code _ _ | .piece _ | .cctl _ => false

/-- Keeps the answer to an asker; another module's leaves, and a completion record that cannot be written sets CRFAULT
(R397). -/
def giveReply (s : State) (a : Access) (err : Option (Cause × Nat)) (b : List Byte) : State :=
  let reply := fun who => Reply.mk who a.asid a.pa a.size a.op.asksWrite err b
  match a.op.asker? with
  | none => s
  | some .posted => if err.isSome then s.modLaunch fun u => { u with crfault := true } else s
  | some (.other m c) => s.modLink fun l => { l with answers := l.answers ++ [reply (.other m c)] }
  | some who => { s with replies := reply who :: s.replies }

/-- An asker has no further use for its answers, nor for those that are still to come. -/
def forget (s : State) (who : Asker) : State :=
  { s with
    replies := s.replies.filter fun r => r.who != who
    accs := s.accs.filter fun x => x.2.op.asker? != some who }

/-- An access that an asker makes: pol 1, or pol 2. -/
def askOf (who : Asker) (asid dom pa n : Nat) (pol : Pol) (op : AccessOp) : Access where
  thread := 0
  wg := 0
  core := who.core (pa % 2 ^ 48 / 128)
  pa := pa
  size := n
  va := 0
  asid := asid
  dom := dom
  pol := pol
  ord := .plain
  op := op
  job := some askEntry

/-- Has an asker such an access under way. -/
def asking (s : State) (a : Access) : Bool := s.accs.any fun x =>
  x.2.op.asker? == a.op.asker? && x.2.pa == a.pa && x.2.size == a.size && x.2.op.asksWrite == a.op.asksWrite

/-- Sends an asker's access once: a record at the home in this module, a request to another module; without a place in
the queue it is sent later. A module without a route answers REMOTE_TIMEOUT (R98, R125, R131, R133). -/
def askSend (s : State) (a : Access) : State :=
  if asking s a then s
  else if a.pa / 2 ^ 48 ≠ s.page.moduleId then
    (if routeUp s (a.pa / 2 ^ 48) then (pendRemote s a).2 else giveReply s a (some (.remoteTimeout, 0)) [])
  else if !queueRoom s (clusterOf a.core) (a.line % 8) || s.outbox.any (·.1 == queueKey (clusterOf a.core) (a.line % 8)) then s
  else (pendRecord s a (recOf (if a.op.asksWrite then .bypw else .bypr) 0 0)).2

/-- An access at this module's home that nobody in the module waits for: its record takes its place in the queue when it
can. -/
def postAccess (s : State) (a : Access) : State :=
  let n := pend s a
  post n.2 (clusterOf a.core) (a.line % 8)
    { recOf (if a.op.asksWrite then .bypw else .bypr) a.core a.line with dom := a.dom, access := some n.1 }

/-- Sends a write that nobody waits for, to its home in this module or in another. -/
def postWrite (s : State) (a : Access) : State :=
  if a.pa / 2 ^ 48 = s.page.moduleId then postAccess s a
  else if routeUp s (a.pa / 2 ^ 48) then (pendRemote s a).2 else giveReply s a (some (.remoteTimeout, 0)) []

/-- The answer that has come to an asker's access. -/
def Access.reply? (a : Access) (s : State) : Option Reply :=
  s.replies.find? fun r => some r.who == a.op.asker? && r.pa == a.pa && r.size == a.size && r.write == a.op.asksWrite

/-- What an answer says: its bytes or its error. -/
def Reply.result (r : Reply) : Except (Cause × Nat) (List Byte) :=
  match r.err with
  | some e => .error e
  | none => .ok r.bytes

/-- What an asker's access within a line gave; none while it is to come. -/
def askOne (s : State) (a : Access) : Option (Except (Cause × Nat) (List Byte)) × State :=
  match a.reply? s with
  | some r => (some r.result, s)
  | none => (none, askSend s a)

/-- Two answers after each other: the first error, or all the bytes; none while one is to come. -/
def joinReplies (x y : Option (Except (Cause × Nat) (List Byte))) : Option (Except (Cause × Nat) (List Byte)) :=
  match x, y with
  | some (.error e), _ => some (.error e)
  | some (.ok _), some (.error e) => some (.error e)
  | some (.ok a), some (.ok b) => some (.ok (a ++ b))
  | none, _ => none
  | some (.ok _), none => none

/-- Reads bytes line by line for an asker, m lines at most. -/
def askRead (s : State) (who : Asker) (asid dom pa n : Nat) : Nat → Option (Except (Cause × Nat) (List Byte)) × State
  | 0 => (some (.ok []), s)
  | m + 1 =>
    if n = 0 then (some (.ok []), s)
    else
      let k := min n (128 - pa % 128)
      let r := askOne s (askOf who asid dom pa k .bypass (.read who))
      let q := askRead r.2 who asid dom (pa + k) (n - k) m
      (joinReplies r.1 q.1, q.2)

/-- Writes bytes line by line for an asker, m lines at most. -/
def askWrite (s : State) (who : Asker) (asid dom pa : Nat) (b : List Byte) :
    Nat → Option (Except (Cause × Nat) (List Byte)) × State
  | 0 => (some (.ok []), s)
  | m + 1 =>
    if b.isEmpty then (some (.ok []), s)
    else
      let k := min b.length (128 - pa % 128)
      let r := askOne s (askOf who asid dom pa k .bypass (.write who (b.take k)))
      let q := askWrite r.2 who asid dom (pa + k) (b.drop k) m
      (joinReplies r.1 q.1, q.2)

end Sys2Proof.Machine
end

