-- ==== Sys2Proof/Machine/Translate.lean ====
section
/-! DEFINITION. Translation (R95 to R109), the region rules (R97, R98, R214) and instruction fetch (R109,
R449). -/

namespace Sys2Proof.Machine

/-- What a lookup finds (R103). -/
inductive Found where
  | page (t : Trans)
  /-- not resident, with the leaf as read (0 if a table entry was absent), and its address -/
  | absent (leaf leafAt : Nat)
  | malformed
  /-- an uncorrectable error in a table entry: INFO of ECC_UNCORR -/
  | error (info : Nat)
  /-- a table entry's line must be waited for -/
  | busy
deriving DecidableEq, Repr

/-- Bits of a table index by level (R99). -/
def walkIndex (va level : Nat) : Nat :=
  match level with
  | 3 => bitsNat va 47 5
  | 2 => bitsNat va 36 11
  | 1 => bitsNat va 25 11
  | _ => bitsNat va 14 11

/-- Does an address lie in the module's own vault region: bits [47:43] are zero (R97, R103). -/
def inVault (a : Nat) : Bool := decide (a < 2 ^ 43)

/-- Is a page one that a leaf may map (R103). -/
def pageAllowed (s : State) (ppn : Nat) : Bool :=
  let a := ppn * 2 ^ 14 % 2 ^ 48
  let own := ppn * 2 ^ 14 / 2 ^ 48 == s.page.moduleId
  inVault a || (own && ((decide (0x080000000000 ≤ a) && decide (a < 0x080000400000)) || decide (0xFF0000000000 ≤ a)))

/-- A well-formed backing leaf (R102): the backing page's address and the rights U, X, W, R to install. -/
def backing? (leaf : Nat) : Option (Nat × Nat) :=
  if bitsNat leaf 0 2 = 2 ∧ bitsNat leaf 2 1 = 0 ∧ bitsNat leaf 7 7 = 0 ∧ bitsNat leaf 58 6 = 0
  then some (bitsNat leaf 14 44 * 2 ^ 14, bitsNat leaf 3 4) else none

/-- What a leaf says of a page (R101 to R103). -/
def readLeaf (s : State) (asid va leaf leafAt : Nat) : Found :=
  if leaf % 2 = 0 then
    if bitsNat leaf 1 1 = 0 || (backing? leaf).isSome then .absent leaf leafAt else .malformed
  else
    let n := bitsNat leaf 8 4
    let ppn := bitsNat leaf 14 44
    let vpn := va / 2 ^ 14
    if bitsNat leaf 58 6 ≠ 0 ∨ bitsNat leaf 12 2 ≠ 0 ∨ bitsNat leaf 5 3 ≠ 0 then .malformed
    else if !pageAllowed s ppn || ppn % 2 ^ n != vpn % 2 ^ n then .malformed
    else .page ⟨asid, vpn - vpn % 2 ^ n, n, ppn - ppn % 2 ^ n,
      bitsNat leaf 4 1 == 1, bitsNat leaf 3 1 == 1, bitsNat leaf 2 1 == 1, bitsNat leaf 1 1 == 1⟩

/-- The core whose TLB and cached table entries an asker uses; a unit that belongs to no core has none (R107, R114,
R381). -/
def Asker.holds (who : Asker) : Option Nat :=
  match who with
  | .thread k => some (coreOf k)
  | .job c _ => some c
  | .request _ _ | .unit | .record _ | .posted | .loader | .retire _ | .host _ | .other _ _ => none

/-- The 8 bytes of a page table entry, read at its home with domain 0 (R104, R138). -/
def entryAt (s : State) (who : Asker) (asid a : Nat) : Option (Except (Cause × Nat) Nat) × State :=
  let r := askRead s who asid 0 (s.page.moduleId * 2 ^ 48 + a) 8 1
  (r.1.map fun x => match x with
    | .ok b => .ok (bytesNat b)
    | .error e => .error e, r.2)

/-- A walk's table entry: from the core's cache, or at the home (R104, R107). -/
def tableEntry (s : State) (who : Asker) (asid a : Nat) : Option (Except (Cause × Nat) Nat) × State :=
  match who.holds.bind fun c => (s.core c).tables.find? fun x => x.1 == asid && x.2.1 == a with
  | some (_, _, v) => (some (.ok v), s)
  | none => entryAt s who asid a

/-- Walks from a table at level n - 1 downwards; reads are the table entries read so far (R99 to R103). -/
def walkFrom (s : State) (who : Asker) (asid va base : Nat) (reads : List (Nat × Nat × Nat)) :
    Nat → Found × List (Nat × Nat × Nat) × State
  | 0 => (.malformed, reads, s)
  | n + 1 =>
    let a := base + 8 * walkIndex va n
    if !inVault a then (.malformed, reads, s)
    else
      let got := if n = 0 then entryAt s who asid a else tableEntry s who asid a
      match got.1 with
      | none => (.busy, reads, got.2)
      | some (.error e) => (.error e.2, reads, got.2)
      | some (.ok v) =>
        if n = 0 then (readLeaf got.2 asid va v a, reads, got.2)
        else if v % 2 = 0 then (.absent 0 0, reads, got.2)
        else if bitsNat v 1 13 ≠ 0 ∨ bitsNat v 48 16 ≠ 0 then (.malformed, reads, got.2)
        else walkFrom got.2 who asid va (bitsNat v 14 34 * 2 ^ 14) ((asid, a, v) :: reads) n

/-- Does a held translation cover an address (R107). -/
def Trans.covers (t : Trans) (asid va : Nat) : Bool :=
  t.asid == asid && t.vpn / 2 ^ t.run == va / 2 ^ 14 / 2 ^ t.run

/-- The physical address that a translation gives (R106, R109). -/
def Trans.pa (t : Trans) (va : Nat) : Nat := (t.ppn + (va / 2 ^ 14 - t.vpn)) * 2 ^ 14 + va % 2 ^ 14

/-- A walk whose result is held: only a resident leaf leaves a TLB entry and table entries (R107). DESIGN CHOICE (log 23):
a run is held as one entry, the newest of the entries that cover a page translates it, and the oldest goes beyond 256. -/
def walkAndHold (s : State) (who : Asker) (asid ptbase va : Nat) : Found × State :=
  let r := walkFrom s who asid va ptbase [] 4
  match who.holds with
  | none => (r.1, r.2.2)
  | some core =>
    match r.1 with
    | .busy => (.busy, r.2.2)
    | f => (f, r.2.2.modCore core fun c => { c with
        counters := { c.counters with tlbmiss := c.counters.tlbmiss + 1 }
        tlb := match f with
          | .page t => (t :: c.tlb).take 256
          | .absent _ _ | .malformed | .error _ | .busy => c.tlb
        tables := match f with
          | .page _ => r.2.1.filter (fun x => !c.tables.contains x) ++ c.tables
          | .absent _ _ | .malformed | .error _ | .busy => c.tables })

/-- TLB, then walk (R107 to R109). -/
def lookup (s : State) (who : Asker) (asid ptbase va : Nat) : Found × State :=
  match who.holds.bind fun c => (s.core c).tlb.find? (·.covers asid va) with
  | some t => (.page t, s)
  | none => walkAndHold s who asid ptbase va

/-- Are a translation's rights enough (R108, R109). -/
def Trans.allows (t : Trans) (super needR needW : Bool) : Bool :=
  (super || t.u) && (!needR || t.r) && (!needW || t.w)

/-- The lookup of a thread's data access: the lane's register first, loaded on a miss (R108). -/
def laneLookup (s : State) (who : Asker) (core lane asid ptbase va : Nat) (super needR needW : Bool) : Found × State :=
  let walk := fun (_ : Unit) =>
    let r := lookup s who asid ptbase va
    match r.1 with
    | .page t => (.page t, r.2.modCore core fun c => { c with lanes := mput c.lanes lane t })
    | f => (f, r.2)
  match mget (s.core core).lanes lane with
  | some t => if t.covers asid va && t.allows super needR needW then (.page t, s) else walk ()
  | none => walk ()

/-- Where a physical address lies (R97). -/
inductive Place where
  /-- own vault region: address within the module -/
  | vault (a : Nat)
  /-- broadcast window: offset -/
  | window (w : Nat)
  /-- device window -/
  | device (a : Nat)
  /-- vault region of another module: physical address -/
  | remote (pa : Nat)
deriving DecidableEq, Repr

/-- The checks of R98, R135 and R214 after translation, in their order. Only a store to the window ignores pol (R135,
R219); a load there with pol 3 lies outside the places of R214. -/
def placeOf (s : State) (pa size : Nat) (pol : Pol) (write atomic super : Bool) : Except Cause Place :=
  let a := pa % 2 ^ 48
  if pa / 2 ^ 48 % 1024 ≠ s.page.moduleId then
    (if inVault a then .ok (.remote pa) else .error .perm)
  else if inVault a then .ok (.vault a)
  else if 0x080000000000 ≤ a ∧ a < 0x080000400000 then
    (if !s.bwin || atomic || (pol == .dev && !write) then .error .perm else .ok (.window (a - 0x080000000000)))
  else if 0xFF0000000000 ≤ a then
    (if pol != .dev || atomic then .error .perm
    else if !super then .error .perm
    else if size ≠ 4 then .error .align
    else .ok (.device a))
  else .error .perm

/-- What a context brings to a global access. -/
structure Ctx where
  who    : Asker
  /-- the last-page register of a thread's access, as core and position -/
  lane   : Option (Nat × Nat)
  asid   : Nat
  ptbase : Nat
  super  : Bool
deriving DecidableEq, Repr

/-- The outcome of resolving a global access (R109). -/
inductive Global where
  | at (p : Place) (pa : Nat)
  | absent (leaf leafAt : Nat)
  | trap (c : Cause) (info : Nat)
  | busy
deriving DecidableEq, Repr

/-- What a translation gives (R109). -/
inductive Translated where
  | pa (pa : Nat)
  | absent (leaf leafAt : Nat)
  | trap (c : Cause) (info : Nat)
  | busy
deriving DecidableEq, Repr

/-- Translates an address and checks U and the rights (R109). -/
def translate (s : State) (x : Ctx) (va : Nat) (needR needW : Bool) : Translated × State :=
  if 2 ^ 52 ≤ va then (.trap .perm 0, s)
  else
    let r := match x.lane with
      | some l => laneLookup s x.who l.1 l.2 x.asid x.ptbase va x.super needR needW
      | none => lookup s x.who x.asid x.ptbase va
    match r.1 with
    | .malformed => (.trap .perm 0, r.2)
    | .error e => (.trap .eccUncorr e, r.2)
    | .busy => (.busy, r.2)
    | .absent l a => (.absent l a, r.2)
    | .page t => if t.allows x.super needR needW then (.pa (t.pa va), r.2) else (.trap .perm 0, r.2)

/-- Resolves a global access: the checks of R109 and R214 in their order, then that a
write does not meet a marked frame (R449). -/
def resolveG (s : State) (x : Ctx) (va size : Nat) (pol : Pol) (needR needW atomic : Bool) : Global × State :=
  if va % size ≠ 0 then (.trap .align 0, s)
  else
    let r := translate s x va needR needW
    match r.1 with
    | .busy => (.busy, r.2)
    | .absent l a => (.absent l a, r.2)
    | .trap c info => (.trap c info, r.2)
    | .pa pa =>
      match placeOf r.2 pa size pol needW atomic x.super with
      | .ok (.vault a) =>
        (if needW && r.2.boot.frames.contains (a / 2 ^ 14) then .trap .perm 0 else .at (.vault a) pa, r.2)
      | .ok p => (.at p pa, r.2)
      | .error c => (.trap c 0, r.2)

/-! Instruction fetch. -/

/-- A line's newest content, wherever it is held, as an instruction fetch finds it (log 24); an error that it meets in a
data entry takes the entry out of the index (R145). -/
def newest (s : State) (line : Nat) : Except Nat Line × State :=
  let own : Option Line := match s.tag? line with
    | some t => (match t.owner with
      | some c => (match s.l1? c line with
        | some l => if l.st.owns then some l.data else none
        | none => none)
      | none => none)
    | none => none
  let cold := match vaultError s line with
    | some e => .error e
    | none => .ok (vaultLine s line)
  if (s.vault (vaultOf line)).fenced then (.error 2, s)
  else match own, s.tag? line with
    | some d, _ => (.ok d, s)
    | none, some t => if t.entry.isSome then tagData s t else (cold, s)
    | none, none => (cold, s)

/-- n bytes at an address of the vault region, within two lines. -/
def newestBytes (s : State) (a n : Nat) : Except Nat (List Byte) × State :=
  let o := a % 128
  match newest s (a / 128) with
  | (.error e, s) => (.error e, s)
  | (.ok d, s) =>
    if o + n ≤ 128 then (.ok (((lineBytes d).drop o).take n), s)
    else match newest s (a / 128 + 1) with
      | (.error e, s) => (.error e, s)
      | (.ok d2, s) => (.ok ((lineBytes d).drop o ++ (lineBytes d2).take (n - (128 - o))), s)

/-- The outcome of a fetch. -/
inductive Fetched where
  | code (b : List Byte)
  | trap (c : Cause) (info va : Nat)
  | busy
deriving DecidableEq, Repr

/-- Must a fetch wait for a remap step of the line's vault (R82). -/
def fetchHeld (s : State) (line : Nat) : Bool := (s.vault (vaultOf line)).busy

/-- A fetch that meets a remap step is held at the home, once, and counted (R82, R94). -/
def holdFetch (s : State) (who : Asker) (line : Nat) : State :=
  let a := askOf who 256 0 (s.page.moduleId * 2 ^ 48 + line * 128) 128 .stream (.read who)
  if asking s a then s
  else
    let n := pend s a
    n.2.modVault (vaultOf line) fun x => { x with
      held := satAdd x.held 1 0xFFFF
      heldNow := x.heldNow ++ [{ recOf .bypr a.core line with access := some n.1 }] }

/-- Fetches bytes of one page: X is needed, and a frame in this module's vault region that the loader has
marked (R109, R449). -/
def fetchPage (s : State) (who : Asker) (asid ptbase : Nat) (super : Bool) (va n : Nat) : Fetched × State :=
  if 2 ^ 52 ≤ va then (.trap .perm 0 va, s)
  else
    let r := lookup s who asid ptbase va
    match r.1 with
    | .malformed => (.trap .perm 0 va, r.2)
    | .error e => (.trap .eccUncorr e va, r.2)
    | .busy => (.busy, r.2)
    | .absent _ _ => (.trap .pageAbsent 0 va, r.2)
    | .page t =>
      let pa := t.pa va
      let line := pa % 2 ^ 48 / 128
      if !(super || t.u) || !t.x || pa / 2 ^ 48 != r.2.page.moduleId || !inVault (pa % 2 ^ 48)
          || !r.2.boot.frames.contains (pa % 2 ^ 48 / 2 ^ 14) then (.trap .perm 0 va, r.2)
      else if fetchHeld r.2 line then (.busy, holdFetch r.2 who line)
      else match newestBytes r.2 (pa % 2 ^ 48) n with
        | (.ok b, s) => (.code b, s)
        | (.error e, s) => (.trap .eccUncorr e va, s)

/-- Fetches n bytes of code from an address, across at most two pages (R109). -/
def fetchCode (s : State) (who : Asker) (asid ptbase : Nat) (super : Bool) (va n : Nat) : Fetched × State :=
  let room := 2 ^ 14 - va % 2 ^ 14
  if n ≤ room then fetchPage s who asid ptbase super va n
  else
    let r := fetchPage s who asid ptbase super va room
    match r.1 with
    | .code b =>
      let q := fetchPage r.2 who asid ptbase super (va + room) (n - room)
      (match q.1 with
      | .code b2 => .code (b ++ b2)
      | f => f, q.2)
    | _ => r

end Sys2Proof.Machine
end

