-- ==== Sys2Proof/Machine/Ctl.lean ====
section
/-! DEFINITION. The clause header (R41, R42, R109), the immediate prefix (R51), branches and calls (R353 to
R355) and meeting points (R356). -/

namespace Sys2Proof.Machine

/-- Does the clock of a core run (R427). -/
def coreRuns (s : State) (core : Nat) : Bool := s.clusterRuns (clusterOf core)

/-- A trap of an instruction fetch (R109, R403). -/
def fetchTrap (c : Cause) (info va : Nat) : TrapInfo :=
  { cause := c, info := info, addr := some va, space := some .global }

/-- Fetches code for a thread in its own context. -/
def fetchFor (s : State) (k : Nat) (t : Thread) (w : Workgroup) (va n : Nat) : Fetched × State :=
  fetchCode s (.thread k) w.asid w.ptbase (supervisor t w) va n

/-- Are the flags of a wait mask zero (R41). -/
def maskClear (t : Thread) (mask : BitVec 12) : Bool :=
  (List.range 12).all fun i => !mask.getLsbD i || t.rdF i == 0

/-- The first deferred trap that is due at a header with this wait mask (R325, R414). -/
def dueAtHeader (t : Thread) (mask : BitVec 12) : Option Deferred :=
  t.deferred.find? fun d => match d.due with
    | .boundary => true
    | .flag n => mask.getLsbD n
    | .counter => false

/-- Takes a deferred trap of the thread off its list. -/
def dropDeferred (s : State) (k : Nat) (d : Deferred) : State :=
  s.modThread k fun t => { t with deferred := t.deferred.erase d }

/-- CLAUSE_HEADER (R41): the clause is fetched whole (R109), the thread waits for its flags, takes a
deferred trap due here (R325), and latches setA, setB and clause_end. -/
def execClauseHeader (l : BitVec 5) (b a : HReg) (mask : BitVec 12) (s : State) : Out :=
  perThread (.clauseHeader l b a mask) 7 (fun s k _ =>
    match s.thread? k with
    | none => .placed s
    | some t =>
      match s.wg? t.wg with
      | none => .placed s
      | some w =>
        let r := fetchFor s k t w (t.pc.toNat + 4) (4 * l.toNat)
        match r.1 with
        | .trap c info va => .trap r.2 (fetchTrap c info va)
        | .busy => .wait r.2 .busy
        | .code body =>
          if !maskClear t mask then .wait r.2 .mask
          else match dueAtHeader t mask with
            | some d => .trapAt (dropDeferred r.2 k d) d.trap ⟨.deferred, none, t.pc, t.pc⟩ d.pc
            | none =>
              .placed (r.2.setThread k { t.retire s.now (s.cycles (coreOf k)) with
                pc := t.pc + 4
                clause := some ⟨t.pc, t.pc + 4 + BitVec.ofNat 64 (4 * l.toNat), a, b, body⟩ })) s

/-- Is an instruction one that takes an immediate prefix: majors 0x0A to 0x12 (R51). -/
def takesPrefix (i : Instr) : Bool :=
  match i with
  | .addi _ _ _ _ | .andi _ _ _ _ | .ori _ _ _ _ | .xori _ _ _ _ | .shli _ _ _ _ | .shri _ _ _ _
  | .sari _ _ _ _ | .movi _ _ _ | .cmpi _ _ _ _ _ => true
  | _ => false

/-- Bytes of the clause from an address on. -/
def Clause.from (c : Clause) (pc : DWord) : List Byte := c.body.drop (pc - c.header - 4).toNat

/-- The instruction that a clause holds at an address; a header inside a body is none (R42). -/
def decodeBody (c : Clause) (pc : DWord) : Option Instr :=
  match decode (c.from pc) with
  | .ok (.clauseHeader _ _ _ _, _) => none
  | .ok (i, _) => some i
  | .error _ => none

/-- Has the word after the prefix the major opcode of an I-format instruction (R51). -/
def prefixFits (t : Thread) : Bool :=
  match t.clause with
  | none => false
  | some c =>
    match c.from (t.pc + 4) with
    | a :: b :: d :: e :: _ =>
      let m := (fMaj (e ++ d ++ b ++ a)).toNat
      a.getLsbD 0 && decide (0x0A ≤ m) && decide (m ≤ 0x12)
    | _ => false

/-- IMMX (R51): the payload is kept for the next instruction. -/
def execImmx (x : BitVec 22) (s : State) : Out :=
  perThread (.immx x) 7 (fun s k _ =>
    match s.thread? k with
    | none => .placed s
    | some t =>
      if !prefixFits t then .trap s { cause := .illegalOp }
      else .placed (s.setThread k { t.retire s.now (s.cycles (coreOf k)) with pc := t.pc + 4, immx := some x })) s

/-- Target of a branch or call: header + 4 · offset (R44). -/
def Thread.target (t : Thread) (off : Int) : DWord :=
  match t.clause with
  | some c => c.header + BitVec.ofInt 64 (4 * off)
  | none => t.pc
/-- The return address: clause_end (R44). -/
def Thread.back (t : Thread) : DWord :=
  match t.clause with
  | some c => c.stop
  | none => t.pc

/-- What an instruction does with its thread at hand. -/
def withThread (s : State) (k : Nat) (f : Thread → Effect) : Effect :=
  match s.thread? k with
  | some t => f t
  | none => .placed s

/-- What an instruction does with its thread and workgroup at hand. -/
def withWg (s : State) (k : Nat) (f : Thread → Workgroup → Effect) : Effect :=
  withThread s k fun t => match s.wg? t.wg with
    | some w => f t w
    | none => .placed s

/-- BRA (R353). -/
def execBra (o : BitVec 22) (p : PReg) (s : State) : Out :=
  perThread (.bra o p) p (fun s k _ => withThread s k fun t => .jump s (t.target o.toInt)) s

/-- The members of the troupe that execute a BRA.U legally, with their threads. -/
def legalMembers (i : Instr) (s : State) : List (Nat × Thread) :=
  (memberLanes s.cur).filterMap fun x => match s.thread? x.1 with
    | none => none
    | some t => (match s.wg? t.wg with
      | some w => if issueOk t w i then some (x.1, t) else none
      | none => none)

/-- Does a predicate differ among members (R354). -/
def predDiffers (ms : List (Nat × Thread)) (p : PReg) : Bool := (ms.any fun x => x.2.rdP p) && (ms.any fun x => !x.2.rdP p)

/-- BRA_U (R354, R355): as BRA in each member; where the predicate differs DIV_HINT_CNT counts, and with
UNICHK.EN every active member raises DIV_HINT after its branch. -/
def execBraU (o : BitVec 22) (p : PReg) (s : State) : Out :=
  let i := Instr.braU o p
  let ms := legalMembers i s
  let differs := predDiffers ms p
  let uni := match ms with
    | (_, t) :: _ => ((s.wg? t.wg).map (·.unichk)).getD false
    | [] => false
  let s := if differs then s.modCore s.cur.core fun c =>
    { c with counters := { c.counters with divHint := satAdd c.counters.divHint 1 0xFFFFFFFF } } else s
  perThread i 7 (fun s k _ => withThread s k fun t =>
    let pc := if t.rdP p then t.target o.toInt else t.back
    if differs && uni then
      .trapAt (transferTo s k pc) { cause := .divHint } ⟨.divHint, none, pc, pc⟩ t.pc
    else .jump s pc) s

/-- CALL (R353). -/
def execCall (o : BitVec 16) (d : Reg) (p : PReg) (s : State) : Out :=
  perThread (.call o d p) p (fun s k _ => withThread s k fun t =>
    .jump (s.setThread k (t.wrPair d t.back)) (t.target o.toInt)) s

/-- A transfer to the address in a register pair (R43, R353). -/
def jumpPair (s : State) (k : Nat) (a : Reg) : Effect :=
  withThread s k fun t =>
    if (t.rdPair a).extractLsb' 0 2 != 0 then .trap s { cause := .illegalOp } else .jump s (t.rdPair a)

/-- JMPR (R353). -/
def execJmpr (a : Reg) (p : PReg) (s : State) : Out :=
  perThread (.jmpr a p) p (fun s k _ => jumpPair s k a) s
/-- CALLR: a is read before d is written (R353). -/
def execCallr (a d : Reg) (p : PReg) (s : State) : Out :=
  perThread (.callr a d p) p (fun s k _ => withThread s k fun t =>
    if (t.rdPair a).extractLsb' 0 2 != 0 then .trap s { cause := .illegalOp }
    else .jump (s.setThread k (t.wrPair d t.back)) (t.rdPair a)) s
/-- RET (R353). -/
def execRet (a : Reg) (p : PReg) (s : State) : Out :=
  perThread (.ret a p) p (fun s k _ => jumpPair s k a) s

/-- MEET (R356). -/
def execMeet (a : Reg) (p : PReg) (s : State) : Out :=
  perThread (.meet a p) p (fun s k _ => withThread s k fun t =>
    if (t.rdPair a).extractLsb' 0 2 != 0 then .trap s { cause := .illegalOp }
    else .next (s.setThread k { t with meet := some (t.rdPair a) })) s
/-- MEET_CLR (R356). -/
def execMeetClr (p : PReg) (s : State) : Out :=
  onThread (.meetClr p) p (fun t => { t with meet := none }) s

end Sys2Proof.Machine
end

