-- ==== Sys2Proof/Machine/Jobs.lean ====
section
/-! DEFINITION. Job numbers, the job table and handle tokens (R241 to R244, R267). -/

namespace Sys2Proof.Machine

/-- The generation after g: 24 bits, passing over 0 (R242). -/
def nextGen (g : Nat) : Nat := if g + 1 < 2 ^ 24 then g + 1 else 1

/-- A handle token (R242). -/
def tokenWord (num gen kind : Nat) : Word := BitVec.ofNat 32 (num * 2 ^ 26 + gen * 2 ^ 2 + kind)

/-- Code of a final status (R243). -/
def JobStatus.code : JobStatus → Nat
  | .pending | .done => 0
  | .cancelled => 1
  | .faulted => 2
  | .refused => 3
  | .denied => 4

/-- KIND of a job's token (R242). -/
def JobWork.kind : JobWork → Nat
  | .page => 1
  | .service => 2
  | .copy _ _ _ | .reduce _ _ _ _ _ _ | .fill _ _ _ | .boxIn _ _ _ | .boxReduce _ _ _ _ _ | .boxOut _ _ _
  | .arm _ _ | .collect _ _ _ _ => 0

/-- The job number allocated next (R241): one never used, lowest first, else the one that completed
earliest. -/
def freeJobNum (w : Workgroup) : Option Nat :=
  match (List.range 64).find? (fun n => (mget w.jobNums n).isNone) with
  | some n => some n
  | none =>
    ((w.jobNums.filter fun x => x.2.status != .pending).foldl (fun (b : Option (Nat × Nat)) x => match b with
      | some y => if x.2.ended < y.2 then some (x.1, x.2.ended) else some y
      | none => some (x.1, x.2.ended)) none).map (·.1)

/-- A free place in a core's job table of 64 (R241). -/
def freeJobEntry (c : Core) : Option Nat := (List.range 64).find? fun n => (mget c.jobs n).isNone

/-- A job of a thread in its context, with no footprint and no synchronisation yet. -/
def jobOf (t : Thread) (w : Workgroup) (work : JobWork) : Job where
  wg := t.wg
  num := 0
  order := 0
  work := work
  scope := .workgroup
  sync := .none
  stream := false
  reads := []
  write := none
  entry := none
  asid := w.asid
  ptbase := w.ptbase
  dom := w.hashdom
  super := supervisor t w
  lin := t.lin
  pc := t.pc
  done := 0
  pieces := 0
  toCount := 0
  fault := none
  marked := false
  cancel := false
  owed := 0
  got := []
  line := none
  saved := false

/-- A fault that no WAITH has seen stays with its workgroup when its number is allocated again (R244, R272). -/
def Workgroup.lostFault (w : Workgroup) (num : Nat) : List JobNum :=
  match mget w.jobNums num with
  | some x => if x.status = .faulted ∧ ¬ x.seen then [x] else []
  | none => []

/-- Allocates a job number and a table entry, and writes the token to h[h]: the number, the entry, and the
new state; none while either is lacking (R241, R242, R258). A thread of a group that is being saved may still have jobs
accepted until it stops (DEDUCED, log 36). -/
def openJob (s : State) (k : Nat) (t : Thread) (w : Workgroup) (h : HReg) (j : Job) : Option (Nat × Nat × State) :=
  match freeJobNum w, freeJobEntry (s.core (coreOf k)) with
  | some n, some e =>
    let g := nextGen w.genCtr
    let s := s.setWg t.wg { w with
      genCtr := g
      jobNums := mput w.jobNums n ⟨g, .pending, none, false, t.lin, t.pc, 0⟩
      unseen := w.unseen ++ w.lostFault n }
    let s := s.modCore (coreOf k) fun c => { c with
      jobs := mput c.jobs e { j with num := n, order := c.jobOrder }, jobOrder := c.jobOrder + 1 }
    some (n, e, s.setThread k (t.wrH h (tokenWord n g j.work.kind)))
  | _, _ => none

/-- Settles a job number's status (R243); a fault of the job is a deferred trap (R400). -/
def settle (s : State) (wg num : Nat) (st : JobStatus) (trap : Option TrapInfo) : State :=
  s.modWg wg fun w => { w with
    endCtr := w.endCtr + 1
    jobNums := match mget w.jobNums num with
      | some x => if x.status = .pending then
          mput w.jobNums num { x with status := st, trap := trap.map fun ti => { ti with defer := true }, ended := w.endCtr + 1 } else w.jobNums
      | none => w.jobNums }

/-- A job leaves its core's table with a final status. -/
def closeJob (s : State) (core entry : Nat) (st : JobStatus) (trap : Option TrapInfo) : State :=
  match mget (s.core core).jobs entry with
  | none => s
  | some j => settle (s.modCore core fun c => { c with jobs := mdel c.jobs entry }) j.wg j.num st trap

/-- Completes the job number that a unit serves, wherever its workgroup is (R112, R116, R237). -/
def closeHandle (s : State) (h : Nat × Nat) (st : JobStatus) (trap : Option TrapInfo := none) : State :=
  match s.wg? h.1 with
  | none => s
  | some w =>
    let mine := fun (j : Job) => j.wg == h.1 && j.num == h.2
    let s := s.modCore w.core fun c => { c with jobs := c.jobs.filter fun e => !mine e.2 }
    let s := s.modWg h.1 fun w => { w with image := w.image.map fun i => { i with jobs := i.jobs.filter fun j => !mine j } }
    settle s h.1 h.2 st trap

/-- A job that completes as it is issued (R112, R237, R265). -/
def instantJob (s : State) (k : Nat) (t : Thread) (w : Workgroup) (h : HReg) (work : JobWork) (st : JobStatus) :
    Effect :=
  match openJob s k t w h (jobOf t w work) with
  | none => .wait s .jobTable
  | some (_, e, s) => .next (closeJob s (coreOf k) e st none)

/-- The job number a token names in the workgroup (R267): none for a bad token; the null handle names no
number and counts as done. -/
inductive Handle where
  | bad
  | null
  | job (num : Nat) (x : JobNum)
deriving DecidableEq, Repr

/-- Resolves a token (R267). DESIGN CHOICE (log 88): of a number never used every token but the null handle is bad, one with
GEN 0 among them. -/
def resolveToken (w : Workgroup) (tok : Word) : Handle :=
  if tok = 0 then .null
  else if tok.toNat % 4 = 3 then .bad
  else match mget w.jobNums (tok.toNat / 2 ^ 26) with
    | some x => if x.gen = bitsNat tok.toNat 2 24 then .job (tok.toNat / 2 ^ 26) x else .bad
    | none => .bad

end Sys2Proof.Machine
end

