-- ==== Sys2Proof/Machine/Barrier.lean ====
section
/-! DEFINITION. Barrier objects and the counts that reach them (R171, R360 to R365), chunk flags (R256), and the
chunks armed in the receive table (R265). -/

namespace Sys2Proof.Machine

/-- A trap of an access in a space (R403). -/
def spaceTrap (c : Cause) (sp : Space) (addr : Nat) (write : Bool) : TrapInfo :=
  { cause := c, addr := some addr, space := some sp, write := write }

/-! Barrier objects. -/

/-- The fields of a barrier object (R360). -/
structure Bar where
  exp   : Nat
  arr   : Nat
  ph    : Nat
  flags : Nat
  pend  : Nat
deriving DecidableEq, Repr

/-- The object in 32 bytes (R360). -/
def Bar.ofBytes (b : List Byte) : Bar := ⟨fieldAt b 0 2, fieldAt b 2 2, fieldAt b 4 1, fieldAt b 5 1, fieldAt b 8 7⟩

/-- INIT (R360). -/
def Bar.init (b : Bar) : Bool := b.flags.testBit 1

/-- The bytes of an object with new fields; the bytes of no field stay (R360). -/
def Bar.toBytes (b : Bar) (old : List Byte) : List Byte :=
  natBytes 2 b.exp ++ natBytes 2 b.arr ++ natBytes 1 b.ph ++ natBytes 1 b.flags ++ (old.drop 6).take 2
    ++ natBytes 7 b.pend ++ old.drop 15

/-- Is the phase complete (R362). -/
def Bar.complete (b : Bar) : Bool := b.init && decide (b.exp ≤ b.arr) && b.pend == 0

/-- The completion test: the object after it, and whether a phase was completed (R362). -/
def Bar.test (b : Bar) : Bar × Bool := if b.complete then ({ b with ph := (b.ph + 1) % 256, arr := 0 }, true) else (b, false)

/-- n completion tests. -/
def Bar.tests (b : Bar) : Nat → Bar × Bool
  | 0 => (b, false)
  | n + 1 =>
    let r := b.test
    -- once a test fails, so do those that follow
    if r.2 then ((r.1.tests n).1, true) else r

/-- Wakes every BARWAIT on an object (R362). -/
def wakeBar (s : State) (l : Local) : State :=
  let wake := fun (e : Nat × Thread) => if e.2.woken = some (l, false) then (e.1, { e.2 with woken := some (l, true) }) else e
  { s with threads := s.threads.map wake }

/-- An update of an object, and what follows from a completed phase (R362). -/
def storeBar (s : State) (l : Local) (b : Bar × Bool) : State :=
  let s := writeLocal s l (b.1.toBytes (readLocal s l 32))
  if b.2 then wakeBar s l else s

/-- Counts n bytes into an initialised object: each subtracts 1 from PEND, or sets OVF at 0, and the
completion test follows (R365). -/
def Bar.count (b : Bar) (n : Nat) : Bar × Bool :=
  let m := min n b.pend
  let over_ := n - m
  let b' := { b with pend := b.pend - m, flags := if 0 < over_ then b.flags ||| 1 else b.flags }
  b'.tests (if b.pend = m ∧ 0 < m then over_ + 1 else over_)

/-- A count of bytes reaches the object at a place; true if it marks its job (R256, R364, R365). -/
def countBytes (s : State) (l : Local) (n : Nat) : State × Bool :=
  let b := Bar.ofBytes (readLocal s l 32)
  if !b.init then (s, true)
  else (storeBar s l (b.count n), decide (b.pend < n))

/-- Resolves a barrier's descriptor: its value, then alignment, then bounds (R209, R360). -/
def resolveBar (s : State) (t : Thread) (w : Workgroup) (d : DWord) (write : Bool) : Except TrapInfo (Local × TrapInfo) :=
  match descriptor? d with
  | none => .error { cause := .perm }
  | some x =>
    if x.space = .global then .error { cause := .perm }
    else match resolveLocal s ⟨t.lin, t.wg, w, supervisor t w⟩ x.space x.addr 32 write with
      | .error c => .error (spaceTrap c x.space x.addr write)
      | .ok l => .ok (l, spaceTrap .barOverflow x.space x.addr write)


/-! Chunk flags and armed chunks (R256, R265). -/

/-- Adds 1 to a chunk flag at the bank (R256). -/
def addFlag (s : State) (off : Nat) : State :=
  { s with wmem := writeBytes s.wmem off (natBytes 4 ((bytesNat (readBytes s.wmem off 4) + 1) % 2 ^ 32)) }

/-- The trap of a count that meets a full or uninitialised object (R256). -/
def overflowTrap (y : JobSync) : TrapInfo :=
  match y with
  | .barrier l => spaceTrap .barOverflow l.space l.addr true
  | .flag o => spaceTrap .barOverflow .wafer o true
  | .none => { cause := .barOverflow }

/-- Bytes of a range that lie in the parts of a chunk. -/
def partBytes (parts : List (Nat × Nat)) (a n : Nat) : Nat :=
  (parts.map fun p => min (a + n) (p.1 + p.2) - max a p.1).sum

/-- What a chunk counts when its bytes have all come: a flag, or its length against a barrier; true if the count
marks the job (R256, R265). -/
def chunkCount (s : State) (c : Chunk) : State × Bool :=
  match c.sync, c.handle.bind fun h => s.wg? h.1 with
  | .flag o, _ => (addFlag s o, false)
  | .barrier l, some w =>
    (match resolveLocal s ⟨0, (c.handle.getD (0, 0)).1, w, true⟩ l.space l.addr 32 false with
    | .ok p => countBytes s p c.length
    | .error _ => (s, false))
  | _, _ => (s, false)

/-- A chunk whose bytes have all come leaves the table (R265). -/
def endChunk (s : State) (c : Chunk) : State :=
  let r := chunkCount s c
  match c.handle with
  | none => r.1
  | some h => if r.2 then closeHandle r.1 h .faulted (some (overflowTrap c.sync)) else closeHandle r.1 h .done

/-- Counts the bytes of a write from another module that has taken its place (R265). -/
def countArrival (s : State) (a n : Nat) : State :=
  let take := fun (c : Chunk) => if c.space = .global then { c with left := c.left - partBytes c.parts a n } else c
  let l := s.chunks.map take
  (l.filter fun c => c.left == 0).foldl endChunk { s with chunks := l.filter fun c => c.left != 0 }

/-- A write from another module has taken its place: the chunks that watch its bytes count them (R171, R265). -/
def arrived (s : State) (a : Access) (n : Nat) : State :=
  match a.op.asker? with
  | some (.other _ _) => countArrival s (a.pa % 2 ^ 48) n
  | _ => s

end Sys2Proof.Machine
end

