-- ==== Sys2Proof/Machine/Coherence.lean ====
section
/-! DEFINITION. Pending accesses, the L1 lines and what a record does at its visibility slot to the
requester, to the other L1s and at the home (R126 to R131), and the CCTL operations in progress (R237). -/

namespace Sys2Proof.Machine

/-! Messages. -/

/-- Sends a message over the mesh. -/
def send (s : State) (m : Msg) : State :=
  let n := s.fresh
  { n.2 with mesh := mput n.2.mesh n.1 m }

/-- The node of a line's home. -/
def homeNode (line : Nat) : Nat := 8192 + vaultOf line

/-- Where a message comes from and goes to: core numbers, and 8,192 + v for the home of vault v. -/
def Msg.ends : Msg → Nat × Nat
  | .supply _ _ core _ _ _ src => (src, core)
  | .toHome line _ src _ => (src, homeNode line)
  | .notice line _ src => (src, homeNode line)
  | .writeback line _ src => (src, homeNode line)

/-- Is a message the oldest under way between its two nodes (R136). -/
def oldestMsg (s : State) (id : Nat) (m : Msg) : Bool :=
  s.mesh.all fun x => x.2.ends != m.ends || decide (id ≤ x.1)

/-! Pending accesses. -/

/-- Removes an access that has been performed. -/
def dropAcc (s : State) (id : Nat) : State := { s with accs := mdel s.accs id }

/-- Changes the flight that waits for an access. -/
def withFlight (s : State) (k id : Nat) (f : Flight → Flight) : State :=
  s.modThread k fun t => { t with inflight := t.inflight.map fun x => if x.access.contains id then f x else x }

/-- A flight gets the bytes of one of the accesses that it waits for; with the last it knows its results (R45, R152). -/
def Flight.gets (x : Flight) (id part : Nat) (b : List Byte) (results : List Byte → List RegWrite) : Flight :=
  let got := mput x.got part b
  let left := x.access.filter (· != id)
  { x with access := left, got := got, result := if left.isEmpty then some (results (got.flatMap (·.2))) else none }

/-- Changes the job or the engine item that an access of the copy engine or of the tile fetch unit is for. -/
def withJob (s : State) (a : Access) (f : Job → Job) (g : Item → Item) : State :=
  match a.job, a.op with
  | some e, .piece i =>
    s.modCore a.core fun c =>
      if e = fetchEntry then { c with engine := { c.engine with queue := c.engine.queue.map fun x => if x.id = i then g x else x } }
      else match mget c.jobs e with
        | some j => { c with jobs := mput c.jobs e (f j) }
        | none => c
  | some e, _ => s.modCore a.core fun c => match mget c.jobs e with
      | some j => { c with jobs := mput c.jobs e (f j) }
      | none => c
  | none, _ => s

/-- The tile fetch unit's BYPR for a line has been performed (R134). -/
def Item.bring (x : Item) (line : Nat) : Item := { x with brought := line :: x.brought }

/-- It has met an error (R325). -/
def Item.lose (x : Item) (line info : Nat) : Item := { x.bring line with lost := (line, info) :: x.lost }

/-- The read half of an access has its value: it goes to its flight or its asker (R217, R230). -/
def accResult (s : State) (id : Nat) (a : Access) (b : List Byte) : State :=
  let give := fun (f : List Byte → List RegWrite) => withFlight s a.thread id fun x => x.gets id a.part b f
  match a.op with
  | .load f d => give fun b => spanWrites d (fmtLoad f b)
  | .atom c d _ => give fun b => spanWrites d (atomOld c (bytesNat b))
  | .read _ | .write _ _ | .swap _ _ _ | .update _ _ _ => giveReply s a none b
  | .piece _ => withJob s a (fun j => { j with got := j.got ++ [(a.va, b)] }) (·.bring a.line)
  | .store _ | .red _ _ | .code _ _ | .cctl _ => s

/-- Does an access only read. -/
def AccessOp.reads : AccessOp → Bool
  | .load _ _ | .piece _ | .read _ => true
  | .store _ | .atom _ _ _ | .red _ _ | .cctl _ | .code _ _ | .write _ _ | .swap _ _ _ | .update _ _ _ => false

/-- Does an access return a value to its thread. -/
def AccessOp.returns : AccessOp → Bool
  | .load _ _ | .atom _ _ _ => true
  | .store _ | .red _ _ | .piece _ | .cctl _ | .read _ | .code _ _ | .write _ _ | .swap _ _ _ | .update _ _ _ => false

/-- Has an access a load event (R151). -/
def AccessOp.loads : AccessOp → Bool
  | .load _ _ | .atom _ _ _ | .red _ _ | .piece _ | .read _ | .update _ _ _ => true
  | .store _ | .code _ _ | .cctl _ | .write _ _ | .swap _ _ _ => false

/-- A byte with a code in its high or its low nibble (R247). -/
def nibblePut (o : Byte) (high : Bool) (v : Byte) : Byte :=
  if high then BitVec.ofNat 8 (o.toNat % 16 + 16 * v.toNat) else BitVec.ofNat 8 (o.toNat / 16 * 16 + v.toNat % 16)

/-- What an access leaves at its bytes: none where it stores nothing (R218, R230). -/
def AccessOp.stored (o : AccessOp) (old : List Byte) : Option (List Byte) :=
  match o with
  | .store b => some b
  | .atom c _ v | .red c v | .update _ c v => (atomNew c (bytesNat old) v).map (natBytes (atomSize c))
  | .code high v => some [nibblePut (old.headD 0) high v]
  | .write _ b => some b
  | .swap _ o b => if old = o then some b else none
  | .load _ _ | .piece _ | .cctl _ | .read _ => none

/-- A trap of a global access (R403). -/
def accTrap (a : Access) (c : Cause) (info : Nat) : TrapInfo :=
  { cause := c, info := info, addr := some a.va, space := some .global, write := !a.op.reads }

/-- An access meets an error after its issue: an asker is told, a job stops, and a thread takes the trap at the access's
instruction, where a retry issues it anew: for an access that returns a value when its flight ends, for another at once,
with T.retry as it was, unless an instruction of the thread has completed since (R240, R244, R400, R407; log 29). -/
def failAcc (s : State) (id : Nat) (a : Access) (info : Nat) : State :=
  let ti := accTrap a .eccUncorr info
  let at_ := resumeIssued a.clause a.pc
  let s := dropAcc s id
  if a.op.asker?.isSome then giveReply s a (some (.eccUncorr, info)) []
  else if a.job.isSome then withJob s a (fun j => { j with fault := j.fault.or (some ti) }) (·.lose a.line info)
  else if a.op.returns then withFlight s a.thread id fun x => { x with access := [], trap := some ti, resume := some at_ }
  else match s.thread? a.thread with
    | some t =>
      if t.wg = a.wg ∧ t.lin = a.lin ∧ t.run = .running then
        raiseTraps (s.setThread a.thread { t with retry := if t.issued = a.sent then a.tries else t.retry }) [⟨a.thread, ti, at_, a.pc⟩]
      else s
    | none => s

/-- n bytes of a line at an offset. -/
def lineSlice (l : Line) (o n : Nat) : List Byte := ((lineBytes l).drop o).take n

/-- Performs an access on a line's data: the state and the data after it (R126, R158). -/
def performOn (s : State) (id : Nat) (a : Access) (d : Line) : State × Line :=
  let old := lineSlice d (a.pa % 128) a.size
  (dropAcc (accResult s id a old) id, match a.op.stored old with
    | some b => patchLine d (a.pa % 128) b
    | none => d)

/-- Pending accesses that a core makes to a line at its L1. -/
def l1Accs (s : State) (c line : Nat) : List (Nat × Access) :=
  s.accs.filter fun x => x.2.core == c && x.2.pol == .dflt && !x.2.remote && x.2.job.isNone && x.2.place.isNone
    && x.2.line == line && inVault (x.2.pa % 2 ^ 48) && (match x.2.op with
      | .load _ _ | .store _ | .atom _ _ _ => true
      | .red _ _ | .piece _ | .cctl _ | .read _ | .code _ _ | .write _ _ | .swap _ _ _ | .update _ _ _ => false)

/-- Is a store or atomic performed in a state of the line: M, or E, which becomes M (R126). -/
def Moesi.writable : Moesi → Bool
  | .m | .e => true
  | .o | .s | .i => false

/-- Performs the pending accesses of a core to a line that its state allows, oldest first; a turn whose accesses are
performed later leaves each to a turn of its own (R128, R152). -/
def settleLine (s : State) (c line : Nat) : State :=
  if s.late then (match s.l1? c line with
    | some l => s.setL1 c line { l with
        due := ((l1Accs s c line).filter fun x => l.st != .i && (x.2.op.reads || l.st.writable)).map (·.1) }
    | none => s)
  else (l1Accs s c line).foldl (fun s x => match s.l1? c line with
    | none => s
    | some l =>
      if l.st = .i then s
      else if (s.vault (vaultOf line)).fenced then failAcc s x.1 x.2 2
      else if x.2.op.reads then (performOn s x.1 x.2 l.data).1
      else if l.st.writable then
        let r := performOn s x.1 x.2 l.data
        r.1.setL1 c line { l with data := r.2, st := .m }
      else s) s

/-! CCTL operations and sweeps in progress. -/

/-- A service ends: its handle completes DONE, or the module that asked for it is answered (R116, R237). -/
def endService (s : State) (id : Nat) : State :=
  match mget s.services id with
  | none => s
  | some v =>
    let s := { s with services := mdel s.services id }.modLink fun l => { l with answers := l.answers ++ v.reply.toList }
    match v.handle with
    | some h => closeHandle s h .done
    | none => s

/-- A line has left a core's L1 and its data has arrived: the evictions that waited for it go on (R237). -/
def lineLeft (s : State) (c line : Nat) : State :=
  let leave := fun (x : Nat × Service) =>
    if x.2.kind = .l1 ∧ x.2.core = c then (x.1, { x.2 with waiting := x.2.waiting.filter (· ≠ line) }) else x
  let s := { s with services := s.services.map leave }
  (s.services.filter fun x => x.2.kind == .l1 && x.2.core == c && x.2.waiting.isEmpty).foldl
    (fun s x => endService s x.1) s

/-- A core's copy starts to leave: PUTM for M and O, PUTS for E and S, if the queue has room (R126, R129). -/
def evictLine (s : State) (c line : Nat) : Option State :=
  match s.l1? c line with
  | none => none
  | some l =>
    if l.leaving || l.wants.isSome || l.st == .i || !l.due.isEmpty || !queueRoom s (clusterOf c) (line % 8) then none
    else
      let r := { recOf (if l.st.dirty then .putm else .puts) c line with arg := l.gen }
      some ((enqueue s (clusterOf c) (line % 8) r).setL1 c line { l with leaving := true })

/-- Starts the departure of the lines that CCTL operations take, as far as the queues have room (R237). -/
def pumpFlush (s : State) (c : Nat) : State :=
  ((s.core c).l1.filter fun x => x.2.flush).foldl (fun s x => (evictLine s c x.1).getD s) s

/-- Is a PUTS or PUTM of a core for a line on a carousel and not yet applied. -/
def putWritten (s : State) (c line : Nat) : Bool :=
  s.frames.any fun f => f.cmd.src == c && f.cmd.line == line && (f.cmd.kind == .putm || f.cmd.kind == .puts)

/-- A record takes a line from a core's L1; an eviction of it that is not yet written has nothing left to
wait for, unless the line's data is still to come for a request under way (R127, R237). -/
def takeLine (s : State) (c line : Nat) : State :=
  let s := loseL1 s c line
  if putWritten s c line || (s.l1? c line).isSome then s else lineLeft s c line

/-! What a record does to the L1s. -/

/-- An owner sends the line to a requester and loses it: GEN goes on by 1 (R126, R127). -/
def yieldLine (s : State) (c : Nat) (l : L1Line) (r : Rec) : State :=
  let s := if l.st.owns then send s (.supply r.line l.data r.src ((l.gen + 1) % 65536) true none c) else s
  takeLine s c r.line

/-- The owner's data goes to the home. -/
def supplyHome (s : State) (c line : Nat) (l : L1Line) : State :=
  if l.st.owns then send s (.toHome line l.data c l.st.dirty) else s

/-- A snooped record acts on a core's copy (R126). -/
def snoopNow (s : State) (c : Nat) (r : Rec) : State :=
  match s.l1? c r.line with
  | none => s
  | some l =>
    match r.kind with
    | .gets =>
      if l.st.owns then
        let s := s.setL1 c r.line { l with st := if l.st.dirty then .o else .s }
        send (send s (.supply r.line l.data r.src l.gen false none c)) (.notice r.line l.st.dirty c)
      else s
    | .getm => if l.st = .i then s else yieldLine s c l r
    | .upg =>
      if l.st = .i then s
      else if r.arg = l.gen then takeLine s c r.line
      else yieldLine s c l r
    | .bypr =>
      if l.st.owns then (supplyHome s c r.line l).setL1 c r.line { l with st := .s } else s
    | .bypw | .inv => if l.st = .i then s else takeLine (supplyHome s c r.line l) c r.line
    | .putm | .puts | .tlbi | .sweep | .window | .bad => s

/-- Does a record take the line from the L1s that hold it (R126). -/
def RecKind.takes : RecKind → Bool
  | .getm | .upg | .bypw | .inv => true
  | .gets | .bypr | .putm | .puts | .tlbi | .sweep | .window | .bad => false

/-- Counts a request held (R150). -/
def countHold (s : State) (slice : Nat) : State :=
  s.modSlice slice fun x => { x with holds := satAdd x.holds 1 0xFFFF }

/-- A snooped record reaches a core: held while the core's own data, or the performance of an access that waited for it,
is still to come (R128). -/
def snoop (s : State) (c : Nat) (r : Rec) : State :=
  match s.l1? c r.line with
  | none => s
  | some l =>
    if l.promised || !l.held.isEmpty || !l.due.isEmpty then
      (countHold s (clusterOf c)).setL1 c r.line { l with held := l.held ++ [r] }
    else snoopNow s c r

/-- The records that a core holds for a line are served once the accesses that waited for it have been performed
(R128). -/
def serveHeld (s : State) (c line : Nat) : State :=
  match s.l1? c line with
  | none => s
  | some l =>
    if l.st = .i || l.due.any fun n => (mget s.accs n).isSome then s
    else pumpFlush (l.held.foldl (fun s r => snoopNow s c r) (s.setL1 c line { l with held := [], due := [] })) c

/-- The requester's part of GETS, GETM and UPG: it is the holder from now on, and a current UPG makes the
line M (R126 to R128). -/
def claimLine (s : State) (r : Rec) : State :=
  match s.l1? r.src r.line with
  | none => s
  | some l =>
    match r.kind with
    | .gets | .getm => s.setL1 r.src r.line { l with holder := true }
    | .upg =>
      if l.st = .i then s.setL1 r.src r.line { l with holder := true, wants := some .getm }
      else
        let s := s.setL1 r.src r.line { l with st := .m, gen := (l.gen + 1) % 65536, wants := none }
        serveHeld (settleLine s r.src r.line) r.src r.line
    | _ => s

/-- The writer's part of PUTS and PUTM: a line still held leaves, with its data for a PUTM (R129). -/
def departLine (s : State) (r : Rec) : State :=
  match s.l1? r.src r.line with
  | none => lineLeft s r.src r.line
  | some l =>
    if l.leaving && l.gen == r.arg then
      let s := s.delL1 r.src r.line
      if r.kind = .putm then send s (.writeback r.line l.data r.src) else lineLeft s r.src r.line
    else lineLeft s r.src r.line

/-! What a record does at the home. -/

/-- Does the tag hold requests under R127 to R129: for an owner's supply, notice or write-back (R150). -/
def Tag.waitsOwner (t : Tag) : Bool :=
  match t.awaits with
  | some .supply | some .notice | some .writeback => true
  | some .fill | some .room | none => false

/-- The policy of the access a record is for. -/
def recPol (s : State) (r : Rec) : Pol :=
  match r.access with
  | some id => (match mget s.accs id with
    | some a => a.pol
    | none => .stream)
  | none => .stream

/-- Does a record's access take a data entry of its own when it is performed (R140, R141). -/
def recWrites (s : State) (r : Rec) : Bool :=
  match r.access.bind (mget s.accs) with
  | some a => !a.op.reads
  | none => false

/-- Does an access write a whole line and read nothing of it. -/
def Access.whole (a : Access) : Bool := a.pa % 128 == 0 && a.size == 128 && !a.op.loads

/-- Performs the access of a bypass record at a present tag (R131, R140, R141, R145). -/
def performTag (s : State) (r : Rec) : State :=
  match r.access with
  | none => s
  | some id =>
    match mget s.accs id, s.tag? r.line with
    | some a, some t =>
      if (s.vault (vaultOf r.line)).fenced then failAcc s id a 2
      else (match (if a.whole then (.ok 0, s) else tagData s t) with
      | (.error e, s) => failAcc s id a e
      | (.ok d, s) =>
        let old := lineSlice d (a.pa % 128) a.size
        let s := dropAcc (accResult s id a old) id
        match a.op.stored old with
        | some b => arrived (tagWrite s r.line (a.pa % 128) b) a b.length
        | none => s)
    | _, _ => s

/-- Performs the access of a streaming or device record at the vault, with no tag (R131, R132). -/
def vaultPerform (s : State) (r : Rec) : State :=
  match r.access with
  | none => s
  | some id =>
    match mget s.accs id with
    | none => s
    | some a =>
      match vaultError s r.line with
      | some e => failAcc s id a e
      | none =>
        let d := vaultLine s r.line
        let x := performOn s id a d
        if a.op.reads then x.1 else arrived (vaultStore x.1 r.line x.2) a a.size

/-- A CCTL operation whose record finds no tag is complete. -/
def serviceDone (s : State) (r : Rec) : State :=
  match r.service with
  | some v => endService s v
  | none => s

/-- Is a tag being evicted that can leave: one whose owner's data waits for a data entry itself frees nothing (R144). -/
def leaves (s : State) (x : Nat × Tag) : Bool :=
  x.2.leaving.isSome && !(x.2.awaits == some .supply && (entryRoom s x.1).isNone)

/-- A slice has no place left and no idle tag: it writes an INV for a line that it picks, unless one that can leave is
under way, so that it evicts until there is room (R130, R144). -/
def forceEvict (s : State) (slice : Nat) : State :=
  let mine := tagsOf s slice
  if mine.any (leaves s) then s
  else match s.pick ((mine.filter fun x => x.2.entry.isSome && !x.2.blocked && x.2.leaving.isNone).map (·.1)) with
    | none => s
    | some (l, s) => (post s slice (l % 8) (recOf .inv (slice * 32) l)).modTag l fun t => { t with leaving := some none }

/-- A request waits for a tag of its slice (R144). -/
def park (s : State) (r : Rec) : State :=
  s.modSlice (vaultOf r.line) fun x => { x with parked := x.parked ++ [r] }

/-- A line gets a tag that waits for its fill, with the requests that wait for it; without a free tag the record waits
for one (R137, R144). -/
def startFill (s : State) (r : Rec) (held : List Rec) : State :=
  match newTag s r.line r.dom with
  | some s => s.modTag r.line fun t => { t with awaits := some .fill, held := held }
  | none => forceEvict (park s r) (vaultOf r.line)

/-- A record whose line has no tag: a request allocates one that waits for its fill, as a prefetch into the L2 does,
which is a BYPR for nothing; a streaming or device access is performed at the vault, and an eviction has nothing to do
(R127, R131, R132, R144, R235). -/
def homeNew (s : State) (r : Rec) : State :=
  match r.kind with
  | .gets | .getm | .upg => startFill s r [r]
  | .bypr | .bypw =>
    (match r.access, r.service with
    | none, some v => endService s v
    | none, none => startFill s r []
    | some _, _ => (match recPol s r with
      | .stream | .dev => vaultPerform s r
      | .dflt | .bypass => startFill s r [r]))
  | .inv => serviceDone s r
  | .putm | .puts | .tlbi | .sweep | .window | .bad => s

/-- Does a record need the vault, when its line has no tag. -/
def needsVault (r : Rec) : Bool :=
  match r.kind with
  | .gets | .getm | .upg => true
  | .bypr | .bypw => r.access.isSome || r.service.isNone
  | .putm | .puts | .inv | .tlbi | .sweep | .window | .bad => false

/-- Has a remap step held a request of a line that is still to be performed (R82). -/
def heldBefore (s : State) (line : Nat) : Bool :=
  (s.vault (vaultOf line)).heldNow.any fun r => r.line == line && recPol s r != .dev

/-- A record waits behind what a remap step has held; while the step lasts a request to the vault counts (R82, R94). -/
def holdLast (s : State) (r : Rec) : State :=
  s.modVault (vaultOf r.line) fun x => { x with
    held := if x.busy && needsVault r then satAdd x.held 1 0xFFFF else x.held, heldNow := x.heldNow ++ [r] }

/-- Requests of a line that a remap step comes to hold go before the younger ones of their line that it holds already
(R82, R94). -/
def holdOlder (s : State) (line : Nat) (l : List Rec) : State :=
  s.modVault (vaultOf line) fun x => { x with
    held := satAdd x.held (l.filter needsVault).length 0xFFFF
    heldNow := x.heldNow.takeWhile (·.line != line) ++ l ++ x.heldNow.dropWhile (·.line != line) }

/-- As homeNew, but a request that meets a remap step is held and counted, and one behind a request of its line that
waits for a tag follows it (R82, R94, R144). -/
def homeEnter (s : State) (r : Rec) : State :=
  if needsVault r && (s.vault (vaultOf r.line)).busy then holdLast s r
  else if needsVault r && (s.slice (vaultOf r.line)).parked.any (·.line == r.line) then park s r
  else homeNew s r

/-- Counts the requests that a tag has come to hold for an owner's supply, notice or write-back, each once (R150). -/
def countHeld (s : State) (line : Nat) : State :=
  match s.tag? line with
  | none => s
  | some t =>
    if !t.waitsOwner then s
    else (s.modSlice (vaultOf line) fun x => { x with
      holds := satAdd x.holds (t.held.filter fun r => !r.counted).length 0xFFFF }).setTag line
        { t with held := t.held.map fun r => { r with counted := true } }

/-- A record joins those held at its tag, or finds none. -/
def homeHold (s : State) (r : Rec) : State :=
  match s.tag? r.line with
  | none => homeEnter s r
  | some t => countHeld (s.setTag r.line { t with held := t.held ++ [r] }) r.line

/-- The requests that wait for tags of a slice try again, in order, but not during a remap step. -/
def unpark (s : State) (slice : Nat) : State :=
  let l := (s.slice slice).parked
  if l.isEmpty || (s.vault slice).busy then s else l.foldl homeHold (s.modSlice slice fun x => { x with parked := [] })

/-- Frees a tag; what it held is taken up anew, or held by a remap step (R82, R144). -/
def freeTag (s : State) (line : Nat) : State :=
  match s.tag? line with
  | none => s
  | some t =>
    if (s.vault (vaultOf line)).busy then holdOlder (dropTag s line) line t.held
    else t.held.foldl homeHold (dropTag s line)

/-- A request that a fill error leaves without data (R82, R84, R145). -/
def failRec (e : Nat) (s : State) (r : Rec) : State :=
  match r.kind with
  | .gets | .getm | .upg => send s (.supply r.line 0 r.src 0 false (some e) (homeNode r.line))
  | .bypr | .bypw =>
    (match r.access with
    | some id => (match mget s.accs id with
      | some a => failAcc s id a e
      | none => s)
    | none => serviceDone s r)
  | .inv => serviceDone s r
  | .putm | .puts | .tlbi | .sweep | .window | .bad => s

/-- The data that a home supplies: none from a fenced vault (R84), or where its entry has an error (R145). -/
def homeData (s : State) (line : Nat) (t : Tag) : Except Nat Line × State :=
  if (s.vault (vaultOf line)).fenced then (.error 2, s) else tagData s t

/-- Makes the requester of a GETM, or of a stale UPG, the owner; where no data can be supplied no copy is left (R84,
R127, R145). -/
def grantM (s : State) (r : Rec) (t : Tag) : State :=
  let g := (t.gen + 1) % 65536
  let t' := { t with gen := g, owner := some r.src, holders := 1 }
  match t.owner with
  | some _ => s.setTag r.line t'
  | none =>
    match homeData s r.line t with
    | (.ok d, s) => send (s.setTag r.line t') (.supply r.line d r.src g true none (homeNode r.line))
    | (.error e, s) => send (s.setTag r.line { t' with owner := none, holders := 0 })
        (.supply r.line 0 r.src g false (some e) (homeNode r.line))

/-- An INV has drawn whatever an owner held: the eviction goes on (R130, R144, R237). -/
def finishInv (s : State) (r : Rec) : State :=
  match s.tag? r.line with
  | none => serviceDone s r
  | some t =>
    if t.dirty then s.setTag r.line { t with writing := true, freeing := true, leaving := some r.service }
    else serviceDone (freeTag s r.line) r

/-- Performs the access of a bypass record at a present tag; a write that needs a data entry while none is free is held
until there is one (R141, R144). -/
def homePerform (s : State) (r : Rec) : State :=
  if !recWrites s r then performTag s r
  else match entryRoom s r.line with
    | some s => performTag s r
    | none => forceEvict (s.modTag r.line fun t => { t with awaits := some .room, held := r :: t.held }) (vaultOf r.line)

/-- A BYPR at the home, once no owner is left: an access is performed, an L2CLEAN starts its vault write
(R127, R237). -/
def finishBypr (s : State) (r : Rec) : State :=
  match r.service with
  | none => homePerform s { r with arg := 1 }
  | some v =>
    match s.tag? r.line with
    | some t => if t.dirty then s.setTag r.line { t with writing := true, clean := t.clean ++ [v] } else endService s v
    | none => endService s v

/-- Counts a record that takes every copy: GEN goes on, and no holder is left (R127). It is counted once,
which ARG 1 records while the owner's data is awaited. -/
def countTaken (t : Tag) (r : Rec) : Tag :=
  if r.arg = 0 then { t with gen := (t.gen + 1) % 65536, holders := 0 } else t

/-- A record acts at a tag that holds nothing back (R127). -/
def homeDo (s : State) (r : Rec) (t : Tag) : State :=
  let first := { r with arg := 1, counted := true }
  match r.kind with
  | .gets =>
    (match t.owner with
    | some _ => s.setTag r.line { t with holders := t.holders + 1, awaits := some .notice }
    | none =>
      let excl := t.holders == 0
      match homeData s r.line t with
      | (.ok d, s) =>
        send (s.setTag r.line { t with holders := t.holders + 1, owner := if excl then some r.src else none })
          (.supply r.line d r.src t.gen excl none (homeNode r.line))
      | (.error e, s) => send s (.supply r.line 0 r.src t.gen false (some e) (homeNode r.line)))
  | .getm => grantM s r t
  | .upg =>
    if r.arg = t.gen then s.setTag r.line { t with gen := (t.gen + 1) % 65536, owner := some r.src, holders := 1 }
    else grantM s r t
  | .putm => if r.arg = t.gen then s.setTag r.line { t with holders := t.holders - 1, awaits := some .writeback } else s
  | .puts =>
    if r.arg = t.gen then s.setTag r.line { t with
      holders := t.holders - 1, owner := if t.owner = some r.src then none else t.owner } else s
  | .bypr =>
    (match t.owner with
    | some _ => s.setTag r.line { t with awaits := some .supply, held := first :: t.held }
    | none => finishBypr s r)
  | .bypw =>
    let t' := countTaken t r
    (match t.owner with
    | some _ => s.setTag r.line { t' with awaits := some .supply, held := first :: t.held }
    | none => homePerform (s.setTag r.line t') first)
  | .inv =>
    let t' := countTaken t r
    (match t.owner with
    | some _ => s.setTag r.line { t' with awaits := some .supply, held := first :: t.held }
    | none => finishInv (s.setTag r.line t') r)
  | .tlbi | .sweep | .window | .bad => s

/-- A record reaches the home in its order, behind what a remap step has held of its line (R82, R127). DESIGN CHOICE (log
80): a request that finds its line's tag while BUSY is 1 is no request to the vault: the L2 serves it, and it is neither
held nor counted in HELD. -/
def homeApply (s : State) (r : Rec) : State :=
  if heldBefore s r.line then holdLast s r
  else match s.tag? r.line with
  | none => homeEnter s r
  | some t => if t.blocked || !t.held.isEmpty then homeHold s r else homeDo s r t

/-- Serves what a tag holds, while nothing is awaited, n records at most. -/
def serveTag (s : State) (line : Nat) : Nat → State
  | 0 => s
  | n + 1 =>
    match s.tag? line with
    | none => s
    | some t =>
      match t.held with
      | [] => s
      | r :: rest =>
        if t.blocked then countHeld s line
        else serveTag (homeDo (s.setTag line { t with held := rest }) r { t with held := rest }) line n

/-- The home goes on after what it awaited. -/
def goOn (s : State) (line : Nat) : State :=
  match s.tag? line with
  | none => s
  | some t => serveTag s line (t.held.length + 1)

/-- A record reaches its home: one whose field's clock stands buffers it, and applies what it has buffered in carousel
order when the clock starts (R427). -/
def homeReceive (s : State) (r : Rec) : State :=
  let slice := vaultOf r.line
  if s.clusterRuns slice then homeApply s r
  else s.modSlice slice fun x => { x with buffered := x.buffered ++ [r] }

/-- A home applies what it has buffered (R427). -/
def applyBuffered (s : State) (slice : Nat) : State :=
  ((s.slice slice).buffered).foldl homeApply (s.modSlice slice fun x => { x with buffered := [] })

/-- A record is applied: at the requester, at every other L1 with the line, and at the home (R124, R126,
R127). -/
def applyRecord (s : State) (r : Rec) : State :=
  let own := r.kind == .gets || r.kind == .getm || r.kind == .upg
  let put := r.kind == .puts || r.kind == .putm
  let s := if own then claimLine s r else if put then departLine s r else s
  let s := if put then s else (holdersOf s r.line).foldl (fun s c => if own && c == r.src then s else snoop s c r) s
  homeReceive s r

/-! Fills. -/

/-- L2_FILL of a tag that waits for its line (R82, R140, R144). -/
def fillLine (s : State) (line : Nat) : State :=
  match s.tag? line with
  | none => s
  | some t =>
    if t.awaits ≠ some .fill || (s.vault (vaultOf line)).busy then s
    else match entryRoom s line with
      | none => forceEvict s (vaultOf line)
      | some s =>
        match vaultError s line with
        | some e => t.held.foldl (failRec e) (dropTag (s.setTag line { t with held := [] }) line)
        | none => goOn ((fillTag s line (vaultLine s line)).modTag line fun t => { t with awaits := none }) line

/-- A write that waits for a data entry goes on when there is one; until then the slice evicts (R144). -/
def serveRoom (s : State) (line : Nat) : State :=
  if ((s.tag? line).bind (·.awaits)) ≠ some .room then s
  else match entryRoom s line with
    | some s => goOn (s.modTag line fun t => { t with awaits := none }) line
    | none => forceEvict s (vaultOf line)

/-! The L1's side of an access with pol 0. -/

/-- What an access with pol 0 meets at its L1 (R126). -/
inductive L1Try where
  /-- it can be performed now, on this line -/
  | hit (l : L1Line)
  /-- its record has been queued, or one that serves it is under way -/
  | miss (s : State)
  /-- it must wait for room or for a line to leave -/
  | stall (s : State)

/-- A new request for a line that a core does not hold: there must be room in the L1, or a line leaves
first, and room in the queue (R125, R129). DESIGN CHOICE (log 94): it alone counts as an L1 miss (R412), neither an UPG nor
an access that joins a request under way. -/
def requestLine (s : State) (c line dom : Nat) (k : RecKind) : L1Try :=
  let l1 := (s.core c).l1
  if 2048 ≤ l1.length then
    (if l1.any fun x => x.2.leaving then .stall s
    else match s.pick ((l1.filter fun x => x.2.wants.isNone && x.2.st != .i).map (·.1)) with
      | some (v, s') => .stall ((evictLine s' c v).getD s)
      | none => .stall s)
  else if !queueRoom s (clusterOf c) (line % 8) then .stall s
  else
    let s := s.modCore c fun x => { x with counters := { x.counters with l1miss := x.counters.l1miss + 1 } }
    .miss ((enqueue s (clusterOf c) (line % 8) { recOf k c line with dom := dom }).setL1 c line
      { st := .i, gen := 0, data := 0, wants := some k, holder := false, held := [], leaving := false, flush := false })

/-- Tries a load (write false) or a store or atomic (write true) at the L1 (R126). -/
def l1Try (s : State) (c line dom : Nat) (write : Bool) : L1Try :=
  match s.l1? c line with
  | none => requestLine s c line dom (if write then .getm else .gets)
  | some l =>
    if l.leaving then .stall s
    -- an applied record that this core still holds has made a shared copy old (R128, R157)
    else if l.st != .i && !l.st.writable && l.held.any (·.kind.takes) then .stall s
    else if !write && l.st != .i then .hit l
    else if write && l.st.writable && l.wants.isNone then .hit l
    else match l.wants with
      | some k =>
        -- a load does not join a request whose data an applied record has already made old (R157)
        if k == .gets && (write || l.held.any fun r => r.kind.takes) then .stall s else .miss s
      | none =>
        -- S or O, and a store
        if !l.due.isEmpty || !queueRoom s (clusterOf c) (line % 8) then .stall s
        else .miss ((enqueue s (clusterOf c) (line % 8) { recOf .upg c line with dom := dom, arg := l.gen }).setL1 c line
          { l with wants := some .upg })

end Sys2Proof.Machine
end

