-- ==== Sys2Proof/Machine/Carousel.lean ====
section
/-! DEFINITION. The carousels' slots and frames (R121 to R125, R433), the application of each kind of record
(R116, R124, R127, R135), the messages of the mesh (R127 to R129), fills (R140), vault writes (R237), and
the registers of the hallmark cache that act when written (R147, R148). -/

namespace Sys2Proof.Machine

/-! Wavelengths (R20, R433). -/

/-- The wavelength of a carousel ring: carousel, waveguide, wavelength; none for a port or host ring (R435). A ring is
named by its RING_SEL value. -/
def ringWave (r : Nat) : Option (Nat × Nat × Nat) :=
  if bitsNat r 26 2 < 2 then some (bitsNat r 23 3, bitsNat r 17 6, bitsNat r 12 5) else none

/-- Masked wavelengths of a waveguide of a carousel, in the order in which a ring of each was first masked. -/
def maskedOn (s : State) (carousel guide : Nat) : List Nat :=
  ((s.link.masked.filterMap ringWave).eraseDups.filter fun x => x.1 == carousel && x.2.1 == guide).map (·.2.2)

/-- Working wavelengths of a cluster's group on a carousel: a masked one takes a spare, 16 or 17, while
one is left (R20, R433). -/
def workingWaves (s : State) (cluster carousel : Nat) : Nat :=
  let m := maskedOn s carousel (cluster / 4)
  let spares := 2 - (m.filter fun w => decide (16 ≤ w)).length
  let lost := (m.filter fun w => decide (w < 16)).drop spares
  4 - (lost.filter fun w => w / 4 == cluster % 4).length

/-- One frame in so many slots, by the working wavelengths (R433). -/
def frameEvery (n : Nat) : Nat := if n = 4 then 1 else if 2 ≤ n then 2 else 4

/-- The cluster at a position of the field of another (R433). -/
def fieldMate (cluster pos : Nat) : Nat :=
  ((cluster / 16 / 2) * 2 + pos / 2) * 16 + (cluster % 16 / 2) * 2 + pos % 2

/-- Position of a cluster in its field (R433). -/
def fieldPos4 (cluster : Nat) : Nat := cluster % 16 % 2 + 2 * (cluster / 16 % 2)

/-- The cluster that relays the records of a group with no working wavelength (R433). -/
def relayTo (s : State) (cluster carousel : Nat) : Option Nat :=
  ([1, 2, 3].map fun d => fieldMate cluster ((fieldPos4 cluster + d) % 4)).find? fun c =>
    decide (0 < workingWaves s c carousel)

/-! Slots. -/

/-- The records that go into one frame: a window record alone, or up to eight command records (R122). -/
def frameLoad (l : List Rec) : List Rec :=
  match l with
  | [] => []
  | r :: _ => if r.kind = .window then [r] else (l.take 8).takeWhile fun x => x.kind != .window

/-- One writer's turn on one carousel in a slot: q is the key of its queue (R122, R125, R422, R427, R433). DESIGN CHOICE (log
96): a slowed group writes in the slots whose number is a multiple of 2 or 4. -/
def writeFrame (s : State) (q : Nat) : State :=
  let cluster := q / 8
  let k := q % 8
  let l := s.queue q
  let f := s.field (fieldOfCluster cluster)
  let n := workingWaves s cluster k
  if !f.running || f.st == .stall then s
  else if n = 0 then
    match relayTo s cluster k with
    | none => s
    | some c =>
      let room := 64 - (s.queue (queueKey c k)).length
      let moved := l.take (min 8 room)
      let s := s.setQueue q (l.drop moved.length)
      s.setQueue (queueKey c k) (s.queue (queueKey c k) ++ moved)
  else if s.time.slot % frameEvery n ≠ 0 then s
  else
    let load := frameLoad l
    { s.setQueue q (l.drop load.length) with
      frames := s.frames ++ load.zipIdx.map fun x => ⟨k, s.time.slot, cluster, x.2, x.1⟩ }

/-- Has a frame reached its visibility slot, with no replay pending at or before it (R124, R434). -/
def visible (s : State) (f : Frame) : Bool :=
  decide (f.slot + 12 ≤ s.time.slot) && (match mget s.time.replayAt f.carousel with
    | some at_ => decide (f.slot < at_)
    | none => true)

/-- The lines of the L1s whose waiting accesses are performed one by one, with their cores (R128). -/
def dueLines (s : State) : List (Nat × Nat) :=
  s.cores.flatMap fun c => (c.2.l1.filter fun l => !l.2.due.isEmpty).map fun l => (c.1, l.1)

/-- What waits goes on where it can: records in their queues, requests for tags, writes for data entries, records held at
the L1s (R125, R128, R144). -/
def pumpWaiting (s : State) : State :=
  let s := (dueLines s).foldl (fun s x => serveHeld s x.1 x.2) (pumpOutbox s)
  let s := ((s.slices.filter fun x => !x.2.parked.isEmpty).map (·.1)).foldl unpark s
  ((s.tags.filter fun x => x.2.awaits == some .room).map (·.1)).foldl serveRoom s

/-- A field that has had a stall notice enters STALL at its slot boundary (R422). -/
def noticed (x : Nat × Field) : Nat × Field :=
  (x.1, { x.2 with
    notice := false, st := if x.2.notice && (x.2.st == .frozen || x.2.st == .follow) then .stall else x.2.st })

/-- Carousels whose slot a replay fills: nothing new is written on them (R434; log 75). -/
def replaying (s : State) (k : Nat) : Bool := s.frames.any fun f => f.carousel == k && decide (s.time.slot ≤ f.slot)

/-- CAROUSEL_SLOT (R125): once its 4 ns have passed and every transaction visible in the last slot has been applied
(R124), the slot number goes on and every snoop agent writes what it has queued; full queues are counted (R150). -/
def execCarouselSlot (s : State) : Out :=
  let due := decide ((s.time.slot + 1) * Config.slotTime ≤ s.now + s.time.shift)
  let s1 := s.modTime fun t => { t with slot := t.slot + 1, fields := t.fields.map noticed }
  let full := ((s1.queues.filter fun q => decide (64 ≤ q.2.length)).map fun q => q.1 / 8).eraseDups
  let s1 := full.foldl (fun s c => s.modSlice c fun x => { x with qfull := x.qfull + 1 }) s1
  let s1 := pumpWaiting (((s1.queues.map (·.1)).filter fun q => !replaying s1 (q % 8)).foldl writeFrame s1)
  let busy := ((s1.services.filter fun x => x.2.kind == .l1).map fun x => x.2.core).eraseDups
  whenCan (due && !s.frames.any (visible s)) (busy.foldl pumpFlush s1) s

/-! Applying records. -/

/-- The record of a carousel that comes next in its order (R123). -/
def nextFrame (s : State) (k : Nat) : Option Frame := s.frames.find? fun f => f.carousel == k

/-- Applies the next record of a carousel, if it is of the kind and visible. -/
def applyNext (k : Nat) (kind : RecKind) (f : State → Rec → State) (s : State) : Out :=
  match nextFrame s k with
  | none => .next s
  | some fr => whenCan (visible s fr && fr.cmd.kind == kind) (f { s with frames := s.frames.erase fr } fr.cmd) s

/-- GETS (R127). -/
def execGets (k : Nat) (s : State) : Out := applyNext k .gets applyRecord s
/-- GETM (R127). -/
def execGetm (k : Nat) (s : State) : Out := applyNext k .getm applyRecord s
/-- UPG (R127). -/
def execUpg (k : Nat) (s : State) : Out := applyNext k .upg applyRecord s
/-- PUTM (R127, R129). -/
def execPutm (k : Nat) (s : State) : Out := applyNext k .putm applyRecord s
/-- PUTS (R127). -/
def execPuts (k : Nat) (s : State) : Out := applyNext k .puts applyRecord s
/-- BYPR (R127, R131). -/
def execBypr (k : Nat) (s : State) : Out := applyNext k .bypr applyRecord s
/-- BYPW (R127, R131). -/
def execBypw (k : Nat) (s : State) : Out := applyNext k .bypw applyRecord s
/-- INV (R127, R130). -/
def execInv (k : Nat) (s : State) : Out := applyNext k .inv applyRecord s

/-- Does a selector of a mode name an ASID (R115). -/
def selects (sel asid : Nat) : Bool := bitsNat sel 8 2 == 2 || sel % 256 == asid

/-- A record of an operation has been applied everywhere; the operation waits for these accesses and items. -/
def serviceVisible (s : State) (r : Rec) (waiting : List Nat) : State :=
  match r.service with
  | none => s
  | some v => { s with services := match mget s.services v with
      | some x => mput s.services v { x with visible := true, waiting := waiting }
      | none => s.services }

/-- The SWEEP that follows a TLBI goes out once the TLBI has been applied on every core (R116, R120, R443). -/
def sweepAfter (s : State) (r : Rec) : State :=
  match r.service.bind (mget s.services) with
  | some x => if x.sweeps then
      post { s with services := mput s.services (r.service.getD 0) { x with sweeps := false } } (clusterOf r.src) 0
        { recOf .sweep r.src 0 with arg := x.asid + 2 ^ 8 * x.mode, service := r.service }
    else serviceVisible s r []
  | none => s

/-- A core applies a TLBI: TLB entries of the selector go, and all cached table entries of its ASIDs (R115, R116). The
record carries bits [51:14] of the address (R122). -/
def tlbiCore (r : Rec) (c : Core) : Core :=
  { c with
    tlb := c.tlb.filter fun t => match bitsNat r.arg 8 2 with
      | 0 => !t.covers (r.arg % 256) (r.line % 2 ^ 52)
      | _ => !selects r.arg t.asid
    tables := c.tables.filter fun x => !selects r.arg x.1 }

/-- Walks of the ASIDs that a TLBI names start afresh: what they have read, or are reading, goes (R116, R117); another
module's read is no walk. -/
def dropWalks (s : State) (sel : Nat) : State :=
  { s with
    replies := s.replies.filter fun x => x.write || !selects sel x.asid
    accs := s.accs.filter fun x => !((match x.2.op with
      | .read (.other _ _) => false
      | .read _ => true
      | .load _ _ | .store _ | .atom _ _ _ | .red _ _ | .piece _ | .cctl _ | .code _ _ | .write _ _ | .swap _ _ _ | .update _ _ _ => false)
      && selects sel x.2.asid) }

/-- TLBI_RECORD (R116): every core applies it at its visibility slot. LINE holds the virtual address. -/
def execTlbiRecord (s : State) : Out :=
  applyNext 0 .tlbi (fun s r =>
    sweepAfter (dropWalks { s with cores := s.cores.map fun c => (c.1, tlbiCore r c.2) } r.arg) r) s

/-- Items of every engine and of every saved workgroup. -/
def allItems (s : State) : List Item :=
  s.cores.flatMap (fun c => c.2.engine.queue) ++ s.wgs.flatMap fun w => match w.2.image with
    | some i => (match i.engine with
      | some e => e.queue
      | none => [])
    | none => []

/-- What has been translated and is still to be sent, by its number and its ASID: the lines that jobs gather, and the pages
that the loader writes (R116). -/
def unsent (s : State) : List (Nat × Nat) :=
  (s.cores.flatMap fun c => c.2.jobs.flatMap fun j => (j.2.line.toList ++ j.2.windows).map fun g => (g.id, j.2.asid))
    ++ s.boot.loadBusy.toList.filterMap fun j => if j.pages.isSome then some (j.id, j.asid) else none

/-- What a sweep waits for: accesses still to be performed or to be sent, and passes that have not started: a save stages
the operands of one that has not started anew (R116, R324, R414). -/
def sweepWaits (s : State) (sel : Nat) : List Nat :=
  (s.accs.filter fun x => selects sel x.2.asid).map (·.1)
    ++ ((unsent s).filter fun x => selects sel x.2).map (·.1)
    ++ ((allItems s).filter fun i => i.started.isNone && i.kind == .pass
        && (selects sel i.asid || i.members.any fun m => selects sel m.asid)).map (·.id)

/-- SWEEP_RECORD (R116): every core clears the lane registers that match, and the sweep waits for the
accesses made so far. -/
def execSweepRecord (s : State) : Out :=
  applyNext 0 .sweep (fun s r =>
    let sweep := fun (c : Core) => { c with lanes := c.lanes.filter fun x => !selects r.arg x.2.asid }
    serviceVisible { s with cores := s.cores.map fun c => (c.1, sweep c.2) } r (sweepWaits s r.arg)) s

/-- Has a sweep been applied everywhere, and everything it waits for been performed (R116). -/
def sweepReady (s : State) (v : Service) : Bool :=
  v.visible && v.waiting.all fun n => (mget s.accs n).isNone && (unsent s).all (fun x => x.1 != n)
    && (allItems s).all fun i => i.started.isSome || i.id != n

/-- SWEEP_COMPLETION (R116). -/
def execSweepCompletion (id : Nat) (s : State) : Out :=
  match mget s.services id with
  | none => .next s
  | some v => whenCan (v.kind == .sweep && v.handle.isSome && sweepReady s v) (endService s id) s

/-- XINV_GO (R120): a TLBI, and a SWEEP if SWP is set, go out for the host; while busy only REJ is set. The
written SWP, MODE and ASID are the register's fields. -/
def execXinvGo (value : Word) (s : State) : Out :=
  let v := value.toNat
  let s := s.modPage fun p => { p with xinvSwp := bitsNat v 10 1 == 1, xinvMode := bitsNat v 8 2, xinvAsid := v % 256 }
  let s := s.modPage fun p => { p with xinvRej := p.xinvRej && bitsNat v 14 1 == 0, xinvDone := p.xinvDone && bitsNat v 13 1 == 0 }
  if bitsNat v 31 1 = 0 then .next s
  else if s.page.xinvBusy then .next (s.modPage fun p => { p with xinvRej := true })
  else
    let p := s.page
    let sel := p.xinvAsid + 2 ^ 8 * (min p.xinvMode 2)
    let n := s.fresh
    let v : Service := ⟨.sweep, 0, none, [], p.xinvAsid, min p.xinvMode 2, false, p.xinvSwp, none⟩
    let s := post { n.2 with services := mput n.2.services n.1 v } 0 0
      { recOf .tlbi 0 p.xinvVa with arg := sel, service := some n.1 }
    .next (s.modPage fun p => { p with xinvBusy := true, xinvSweep := some n.1 })

/-- XINV_DONE (R120). -/
def execXinvDone (s : State) : Out :=
  match s.page.xinvSweep with
  | none => .next s
  | some id =>
    match mget s.services id with
    | none => .next s
    | some v => whenCan (sweepReady s v)
        (({ s with services := mdel s.services id }).modPage fun p =>
          { p with xinvBusy := false, xinvDone := true, xinvSweep := none }) s

/-- BADREC (R122): a record of a kind that the module never writes is discarded and noted. -/
def execBadrec (cluster : Nat) (kind : BitVec 4) (s : State) : Out :=
  whenCan (decide (10 ≤ kind.toNat)) (s.modSlice cluster fun x => { x with badrec := true }) s

/-- Offset of window byte w in cluster c's mirror (R135). -/
def mirrorAt (c w : Nat) : Nat := c * 2 ^ 24 + 12 * 2 ^ 20 + w

/-- Writes the masked bytes of a window frame into every mirror (R135). -/
def writeMirrors (s : State) (bytes : List (Nat × Byte)) : State :=
  { s with wmem := (List.range Config.clusterCount).foldl (fun m c =>
      bytes.foldl (fun m b => memWrite m (mirrorAt c b.1) b.2) m) s.wmem }

/-- WINDOW_DATA (R135). DESIGN CHOICE (log 70): a store that was accepted while EN was 1 reaches the mirrors whatever EN
is at its visibility slot. -/
def execWindowData (k : Nat) (s : State) : Out :=
  applyNext k .window (fun s r => (match r.access with
    | some id => dropAcc (writeMirrors s r.bytes) id
    | none => writeMirrors s r.bytes)) s

/-! Messages. -/

/-- A supplied line arrives at a core: its state is set, the waiting accesses are performed, and the records
held meanwhile are served (R126, R128). -/
def arriveSupply (s : State) (line c gen : Nat) (data : Line) (excl : Bool) (err : Option Nat) : State :=
  match s.l1? c line with
  | none => s
  | some l =>
    match err with
    | some e =>
      let s := (l1Accs s c line).foldl (fun s x => failAcc s x.1 x.2 e) s
      lineLeft (s.delL1 c line) c line
    | none =>
      let st := if l.wants = some .gets then (if excl then .e else .s) else .m
      let s := s.setL1 c line { l with st := st, gen := gen, data := data, wants := none, holder := false }
      serveHeld (settleLine s c line) c line

/-- An owner's data arrives at the home: it enters the tag, the flag clears and held requests go on (R127, R140). -/
def arriveHome (s : State) (line : Nat) (data : Line) (dirty : Bool) : State :=
  goOn ((ownerData s line data dirty).modTag line fun t => { t with awaits := none }) line

/-- As arriveHome once the data has an entry to go to; until then the slice evicts (R144). -/
def takeHome (s : State) (id line : Nat) (data : Line) (dirty : Bool) (after : State → State) : State :=
  match entryRoom s line with
  | some s => after (arriveHome { s with mesh := mdel s.mesh id } line data dirty)
  | none => forceEvict s (vaultOf line)

/-- Does a home await something for a line from a core: it is the line's owner, but for a write-back whose sender a BYPR
ordered before its PUTM has left without the owner flag (R127, R129). -/
def awaitsFrom (s : State) (line : Nat) (x : Awaited) (src : Nat) : Bool :=
  match s.tag? line with
  | some t => t.awaits == some x && (t.owner == some src || (x == .writeback && t.owner.isNone))
  | none => false

/-- SUPPLY_ARRIVAL (R127, R128): data reaches its requester, or the home that waits for it. -/
def execSupplyArrival (id : Nat) (s : State) : Out :=
  match mget s.mesh id with
  | some m =>
    let s' := { s with mesh := mdel s.mesh id }
    (match m with
    | .supply line d c gen excl err _ => whenCan (oldestMsg s id m) (arriveSupply s' line c gen d excl err) s
    | .toHome line d src dirty => whenCan (oldestMsg s id m && awaitsFrom s line .supply src) (takeHome s id line d dirty fun s => s) s
    | .notice _ _ _ | .writeback _ _ _ => .next s)
  | none => .next s

/-- OWNER_NOTICE (R127): the owner's notice, if released, clears the owner flag, and held requests go on. -/
def execOwnerNotice (id : Nat) (s : State) : Out :=
  match mget s.mesh id with
  | some (.notice line retained src) =>
    let s' := { s with mesh := mdel s.mesh id }
    whenCan (oldestMsg s id (.notice line retained src) && awaitsFrom s line .notice src)
      (goOn (s'.modTag line fun t => { t with owner := if retained then t.owner else none, awaits := none }) line) s
  | _ => .next s

/-- WRITEBACK_ARRIVAL (R129, R140): the data enters the tag, the owner flag clears, held records go on, and
an eviction that waited for it is complete (R237). -/
def execWritebackArrival (id : Nat) (s : State) : Out :=
  match mget s.mesh id with
  | some (.writeback line d src) =>
    whenCan (oldestMsg s id (.writeback line d src) && awaitsFrom s line .writeback src)
      (takeHome s id line d true fun s => lineLeft s src line) s
  | _ => .next s

/-- L2_FILL (R140). -/
def execL2Fill (line : Nat) (s : State) : Out := .next (fillLine s line)

/-- VAULT_WRITE_PERFORMED (R144, R237): the line is written, L2CLEAN handles complete, and a tag that is
being evicted is freed. -/
def execVaultWritePerformed (line : Nat) (s : State) : Out :=
  match s.tag? line with
  | none => .next s
  | some t =>
    let s1 := match tagData s t with
      | (.ok d, s) => vaultStore s line d
      | (.error _, s) => s
    let s1 := s1.modTag line fun t => { t with dirty := false, writing := false, clean := [] }
    let s1 := t.clean.foldl endService s1
    let s1 := if !t.freeing then s1 else match t.leaving.bind id with
      | some v => endService (freeTag s1 line) v
      | none => freeTag s1 line
    whenCan (t.writing && (t.freeing || !(s.vault (vaultOf line)).busy)) s1 s

/-- HELD_REQUEST_RELEASE (R82): the oldest request held is performed under the new map. -/
def execHeldRequestRelease (vault : Nat) (s : State) : Out :=
  match (s.vault vault).heldNow with
  | [] => .next s
  | r :: rest =>
    let s1 := s.modVault vault fun x => { x with heldNow := rest }
    let device := r.access.isSome && recPol s r == .dev
    whenCan (!(s.vault vault).busy) (if device then vaultPerform s1 r else match s1.tag? r.line with
      | none => if (s1.slice vault).parked.any (·.line == r.line) then park s1 r else homeNew s1 r
      | some t => if t.blocked || !t.held.isEmpty then homeHold s1 r else homeDo s1 r t) s

/-! Registers of the hallmark cache. -/

/-- DEDUP_CLR (R147). -/
def execDedupClr (slice : Nat) (value : Word) (s : State) : Out :=
  whenCan (value.getLsbD 0) (s.modSlice slice fun x => { x with coll := 0, sat := 0 }) s

/-- HD_KEY3 (R148): commits the selected domain's key; its index entries go. -/
def execHdKey3 (value : Word) (s : State) : Out :=
  let unindex := fun (e : Nat × Entry) => if e.2.dom = s.hdSel then (e.1, { e.2 with indexed := false }) else e
  whenCan (s.hdSel != 0)
    { s with hdKeys := mput s.hdKeys s.hdSel (value ++ s.hdLatch), entries := s.entries.map unindex } s

end Sys2Proof.Machine
end

