-- ==== Sys2Proof/Machine/Vault.lean ====
section
/-! DEFINITION. The vaults: patrol scrub and retirement (R78, R79), the remap step and its vote (R81 to R84),
temperature, refresh and its charge (R85 to R91), and the governors of the matrix passes (R331 to R337). -/

namespace Sys2Proof.Machine

/-! The lifetime record's counters (R418). -/

/-- Adds to an n-byte counter of the lifetime image, which stops at its largest value. -/
def lifeAdd (s : State) (off n amount : Nat) : State :=
  let old := bytesNat (readBytes s.life.image off n)
  { s with life := { s.life with image := writeBytes s.life.image off (natBytes n (satAdd old amount (2 ^ (8 * n) - 1))) } }

/-! Banks (R76 to R79). -/

/-- The live banks of a map, rising (R77). -/
def liveBanks (map : BitVec 512) : List Nat := (List.range 512).filter fun b => map.getLsbD b

/-- The bank that holds a line of a vault (R78). -/
def bankOf (v : Vault) (lineInVault : Nat) : Nat :=
  let l := liveBanks v.map
  l.getD (lineInVault % l.length) 0

/-- A bank becomes pending: the event bit and the message (R79, R441). -/
def pendBank (s : State) (vault bank : Nat) : State :=
  notify ((s.modVault vault fun v => { v with pend := v.pend ||| BitVec.ofNat 512 (2 ^ bank), pendEvt := true }).modPage
    fun u => { u with left := u.left.filter (· != vault) }) 1 vault bank

/-- PATROL_SCRUB (R79): a bank with more than 64 corrected errors in the pass becomes pending; lines with
an uncorrectable error are lost from now on. Errors count in the lifetime record. -/
def execPatrolScrub (vault : Nat) (corrected : List (Nat × Nat)) (lost : List Nat) (s : State) : Out :=
  let s := corrected.foldl (fun s x =>
    let v := s.vault vault
    let s := lifeAdd s (4096 + 4 * (vault * 512 + x.1)) 2 x.2
    if 64 < x.2 && v.map.getLsbD x.1 && !v.pend.getLsbD x.1 then pendBank s vault x.1 else s) s
  .next (lost.foldl (fun s l =>
    let v := s.vault vault
    let line := vault * 2 ^ 28 + l
    if v.lines ≤ l || v.bad.contains line then s
    else lifeAdd (s.modVault vault fun v => { v with bad := v.bad ++ [line] }) (4096 + 4 * (vault * 512 + bankOf v l) + 2) 2 1) s)

/-! The remap step (R81 to R84). -/

/-- VAULT_STAT (R94). -/
def Vault.stat (v : Vault) : Nat :=
  v.held * 2 ^ 16 + v.gen % 2 ^ 8 * 2 ^ 8 + v.goRej.toNat * 2 ^ 4 + v.pendEvt.toNat * 2 ^ 3 + v.fenced.toNat * 2 ^ 2 + v.busy.toNat

/-- Which copies of a vault's table count: the ECC check passes and the holding vault is not fenced (R83). -/
def countedCopies (s : State) (vault : Nat) : List (Nat × MapCopy) :=
  ((s.vault vault).copies.zipIdx.map fun x => (x.2, x.1)).filter fun x =>
    x.2.good && !(s.vault ((vault + (match x.1 with
      | 0 => 0
      | 1 => 85
      | _ => 171)) % 256)).fenced

/-- A table that two counted copies hold (R83). -/
def votedTable (c : List (Nat × MapCopy)) : Option MapCopy :=
  (c.find? fun x => c.any fun y => x.1 != y.1 && x.2 == y.2).map (·.2)

/-- The vote: the table found, with every differing copy rewritten; or the vault is fenced (R83, R84). -/
def voteTable (s : State) (vault : Nat) : Option MapCopy × State :=
  let c := countedCopies s vault
  let agree := c.foldl (fun n x => n + 2 ^ x.1) 0
  match votedTable c with
  | none => (none, notify (s.modVault vault fun v => { v with fenced := true, agree := agree, rewrote := 0 }) 3 vault 0)
  | some t =>
    let differs := fun (x : MapCopy × Nat) => x.1 != t
    let rewrote := ((s.vault vault).copies.zipIdx.filter differs).foldl (fun n x => n + 2 ^ x.2) 0
    (some t, s.modVault vault fun v => { v with agree := agree, rewrote := rewrote, copies := v.copies.map fun _ => t })

/-- A fill that was under way when a remap step starts is held by it (R81, R82). -/
def holdFills (s : State) (vault : Nat) : State :=
  (s.tags.filter fun x => vaultOf x.1 == vault && x.2.awaits == some .fill).foldl (fun s x =>
    holdOlder { s with tags := mdel s.tags x.1 } x.1 x.2.held) s

/-- Writes the INV records of a remap step, as far as the slice's queues have room (R81 stage 4). -/
def pumpRemap (s : State) (vault : Nat) : State :=
  if !(s.vault vault).busy then s
  else (s.tags.filter fun x => vaultOf x.1 == vault && x.2.leaving.isNone).foldl (fun s x =>
    if queueRoom s vault (x.1 % 8) then
      (enqueue s vault (x.1 % 8) (recOf .inv (vault * 32) x.1)).modTag x.1 fun t => { t with leaving := some none }
    else s) s

/-- VAULT_REMAP_GO (R81). -/
def execVaultRemapGo (vault : Nat) (value : Word) (s : State) : Out :=
  let v := s.vault vault
  if !value.getLsbD 0 || v.busy || v.fenced then .next (s.modVault vault fun v => { v with goRej := true })
  else
    let s := s.modVault vault fun v => { v with remapDone := 0, goRej := false, busy := true }
    match voteTable s vault with
    | (none, s) => .next (s.modVault vault fun v => { v with busy := false })
    | (some _, s) =>
      .next (pumpRemap (holdFills (s.modVault vault fun v => { v with retire := v.pend }) vault) vault)

/-- REMAP_STEP_COMPLETION (R81): once no line of the vault is left in the caches, lines move, the map, the
capacity and GEN change, and lines beyond the new capacity are discarded. -/
def execRemapStepCompletion (vault : Nat) (s : State) : Out :=
  let v := s.vault vault
  let s := pumpRemap s vault
  let map := v.map &&& ~~~v.retire
  let cap := (liveBanks map).length
  let top := vault * 2 ^ 35 + cap * 2 ^ 26
  let gen := (v.gen + 1) % 256
  let keep := fun (a : Nat) => decide (a / 2 ^ 35 ≠ vault) || decide (a < top)
  let v' := { v with
    map := map, cap := cap, gen := gen, pend := v.pend &&& ~~~v.retire, retire := 0, busy := false, remapDone := 1
    copies := v.copies.map fun _ => ⟨map, cap, gen, true⟩
    bad := v.bad.filter fun l => keep (l * 128) }
  let s1 := { s with vmem := s.vmem.filter fun x => keep x.1 }.modVault vault fun _ => v'
  whenCan (v.busy && s.tags.all fun x => vaultOf x.1 != vault) (notify s1 2 vault v'.stat) s

/-! Temperature and refresh (R85 to R91). Temperatures are in 1/16 °C. -/

/-- The boundaries of the refresh multiplier (R86). -/
def refreshBounds : List Int := [85 * 16, 95 * 16, 105 * 16]

/-- The multiplier of a temperature by the table alone: 0 for 1× to 3 for 8× (R86). -/
def multOf (t : Int) : Nat := (refreshBounds.filter fun b => decide (b ≤ t)).length

/-- The multiplier after a sample: raised at a boundary, lowered 2 °C below it (R86). -/
def nextMult (m : Nat) (t : Int) : Nat :=
  max (multOf t) ((refreshBounds.take m).filter fun b => decide (b - 32 < t)).length

/-- Is refresh host-assisted (R88, R442). -/
def hostRefresh (s : State) : Bool := s.link.mode.testBit 3

/-- The multiplier a vault applies (R88). -/
def appliedMult (s : State) (v : Vault) : Nat := if hostRefresh s then max v.mult v.ovr else v.mult

/-- Refresh share in percent of a multiplier (R86). -/
def refreshShare (m : Nat) : Nat := 3 * 2 ^ m

/-- Is a workgroup resident on a core: it holds its resources there. -/
def Workgroup.resident (w : Workgroup) : Bool :=
  w.phase == .placed || w.phase == .running || w.phase == .saving

/-- Workgroups resident on the cores of a cluster. -/
def clusterWgs (s : State) (cluster : Nat) : List (Nat × Workgroup) :=
  s.wgs.filter fun x => x.2.resident && clusterOf x.2.core == cluster

/-- The workgroup that takes the remainder of a charge: lowest core, then lowest first slot (R90). -/
def chargeFirst (l : List (Nat × Workgroup)) : Option Nat :=
  (l.foldl (fun (b : Option (Nat × Nat)) x =>
    let key := x.2.core * 2048 + x.2.slots.foldl min 2047
    match b with
    | some y => if key < y.2 then some (x.1, key) else some y
    | none => some (x.1, key)) none).map (·.1)

/-- Charges a vault's refresh to the workgroups of its cluster (R90). -/
def chargeRefresh (s : State) (vault : Nat) : State :=
  let total := refreshShare (appliedMult s (s.vault vault)) * 100
  let l := clusterWgs s vault
  let weight := l.foldl (fun n x => n + x.2.sizes.heat + 1) 0
  let part := fun (w : Workgroup) => total * (w.sizes.heat + 1) / weight
  let given := l.foldl (fun n x => n + part x.2) 0
  match chargeFirst l with
  | none => s
  | some f => l.foldl (fun s x => s.modWg x.1 fun w => { w with
      refcost := w.refcost + part x.2 + (if x.1 = f then total - given else 0) }) s

/-- A sample's count in the lifetime record's histogram of a vault: 16 bins of 5 °C from 40 °C (R418). DESIGN CHOICE
(log 70): a temperature below the first bin or above the last counts in that one. -/
def lifeTemp (s : State) (vault : Nat) (t : Int) : State :=
  lifeAdd s (567360 + 64 * vault + 4 * min 15 ((t / 16 - 40) / 5).toNat) 4 1

/-- VAULT_TEMP_SAMPLE (R85 to R90, R418): each 10 µs. The first sample sets the multiplier by the table. DESIGN CHOICE (log
93): any vault's sample lets every waiting group be tried again (R388). -/
def execVaultTempSample (vault : Nat) (layers : List Int) (s : State) : Out :=
  let v := s.vault vault
  match layers with
  | [] => .next s
  | a :: r =>
    let t := r.foldl max a
    let closes := decide (115 * 16 ≤ t)
    let closed := closes || (v.closed && decide (113 * 16 ≤ t))
    let s1 := s.modVault vault fun v => { v with
      temp := t, mult := nextMult v.mult t, closed := closed, samples := v.samples + 1 }
    let s1 := if closed && !v.closed then s1.modColumn vault fun c => { c with tok := c.tok / 2 } else s1
    let s1 := s1.modLaunch fun u => { u with launches := u.launches.map fun x => (x.1, { x.2 with waits := [] }) }
    whenCan (decide ((v.samples + 1) * 10000 ≤ s.timeNs)) (chargeRefresh (lifeTemp s1 vault t) vault) s

/-- VAULT_FLOOR (R92). -/
def execVaultFloor (value : Word) (s : State) : Out :=
  whenCan (decide (value.toNat % 128 ≤ 100)) { s with vaultFloor := value.toNat % 128 } s

/-! The governors (R331 to R337). -/

/-- Columns after n boundaries of 100 ns; in a field whose clock is stopped the tokens are owed (R331, R427). A column at
its reset values is full and stays so. -/
def refillBy (s : State) (n : Nat) : State :=
  let refill := fun (x : Nat × Column) =>
    let rate := n * (if (s.vault x.1).closed then x.2.rate / 2 else x.2.rate)
    (x.1, if s.clusterRuns x.1 then { x.2 with tok := min (x.2.tok + rate) x.2.cap }
      else { x.2 with owed := x.2.owed + rate })
  { s with refills := s.refills + n, columns := s.columns.map refill }

/-- HEAT_REFILL (R331, R427): at each 100 ns boundary. -/
def execHeatRefill (s : State) : Out :=
  whenCan (decide ((s.refills + 1) * 100 ≤ s.timeNs)) (refillBy s 1) s

/-- CURRENT_LIMIT_STEP (R332): at each 200 ns boundary. -/
def execCurrentLimitStep (s : State) : Out :=
  let roll := fun (x : Nat × PowerRegion) => (x.1, { x.2 with cnt := x.2.now, now := 0 })
  whenCan (decide ((s.steps + 1) * 200 ≤ s.timeNs))
    { s with steps := s.steps + 1, regions := s.regions.map roll } s

/-- What has fallen due at the boundaries of 100 ns and 200 ns takes place, before anything else at this time (R331,
R332). -/
def boundaries (s : State) : State :=
  let s := if (s.refills + 1) * 100 ≤ s.timeNs then refillBy s (s.timeNs / 100 - s.refills) else s
  if (s.steps + 1) * 200 ≤ s.timeNs then
    let once := decide (s.timeNs / 200 = s.steps + 1)
    { s with
      steps := s.timeNs / 200
      regions := s.regions.map fun x => (x.1, { x.2 with cnt := if once then x.2.now else 0, now := 0 }) }
  else s

/-- CURLIM_STEP (R336). -/
def execCurlimStep (region : Nat) (value : Word) (s : State) : Out :=
  whenCan (value.toNat % 65536 != 0) (s.modRegion region fun r => { r with rise := value.toNat % 65536 }) s

/-- The 2 µs of a droop alarm, in ticks (R333). -/
def droopHold : Nat := 2000 * Config.nano

/-- DROOP_ALARM (R333, R337). -/
def execDroopAlarm (region : Nat) (s : State) : Out :=
  .next (lifeAdd (s.modRegion region fun r => { r with
    count := satAdd r.count 1 0xFFFF, evt := true, until_ := some (s.now + droopHold), lastLow := s.timeNs % 2 ^ 32 })
    (565248 + 4 * region) 4 1)

/-- DROOP_EXPIRY (R333). -/
def execDroopExpiry (region : Nat) (s : State) : Out :=
  whenCan (match (s.region region).until_ with
    | some t => decide (t ≤ s.now)
    | none => false) (s.modRegion region fun r => { r with until_ := none }) s

end Sys2Proof.Machine
end

