-- ==== Sys2Proof/Machine/Field.lean ====
section
/-! DEFINITION. Module time, the Ringmaster's election and the fields' clocks (R420 to R430), replays of a
carousel (R434), rings, lasers and the crossbar (R431 to R435), and the fabric ports (R436 to R439). -/

namespace Sys2Proof.Machine

/-- One µs in ticks. -/
def micro : Nat := 1000 * Config.nano

/-! The Ringmaster (R420 to R424). -/

/-- Rank of a field in RM_RANK (R421, R451). -/
def rankOf (s : State) (f : Nat) : Option Nat := (List.range 5).find? fun k => bitsNat s.time.rmRank (6 * k) 6 == f

/-- Does the control node choose the Ringmaster (R424, R442). -/
def hostElects (s : State) : Bool := s.link.mode.testBit 1

/-- A field without a Ringmaster (R421). -/
def Field.lost (f : Field) : Bool := f.st == .frozen || f.st == .stall

/-- Is a field alive: boot has found it so (R421). -/
def alive (s : State) (f : Nat) : Bool := (mget s.time.fields f).isSome

/-- May a field act by the election's table: it is alive and its clock runs (R421, R427). -/
def fieldActs (s : State) (f : Nat) : Bool := alive s f && (s.field f).running

/-- The Ringmaster that serves: it has sent its first beacon, its clock runs, and no field has lost it (R421, R424). -/
def serving (s : State) : Bool :=
  !s.time.fresh && (match s.time.master with
    | some m => (s.field m).st == .master && (s.field m).running
    | none => false) && s.time.fields.all fun x => !x.2.lost

/-- BEACON (R420): once a slot TIME_OFS is measured, and the counter slews by at most 50 ps. -/
def execBeacon (f : Nat) (offset : Int) (s : State) : Out :=
  let beacons := match s.time.master with
    | some m => (s.field m).st == .master && (s.field m).running
    | none => false
  whenCan (beacons && !s.time.fresh && fieldActs s f && !(s.field f).lost && (s.field f).st != .claim
      && decide ((s.field f).mark < s.time.slot))
    (s.modField f fun x => { x with
      ofs := offset, skew := offset - max (-50) (min 50 offset), mark := s.time.slot }) s

/-- BEACON_LOSS (R421): the 8 slots after the last beacon's have passed without one. Where the field had heard the claim
that won, its claimant never served, and the election begins anew. -/
def execBeaconLoss (f : Nat) (s : State) : Out :=
  let x := s.field f
  let failed := x.elect.isSome && x.elect == s.time.won.map (·.1)
  let s1 := s.modField f fun x => { x with
    st := .frozen, since := s.now, mark := s.time.slot, checked := s.time.slot, elect := none, fromStall := false }
  let s1 := if failed then s1.modTime fun t => { t with won := none, bids := [] } else s1
  whenCan (fieldActs s f && x.st == .follow && decide (x.mark + 9 ≤ s.time.slot)) s1 s

/-- A field writes a claim record on carousel 0 (R421). -/
def makeClaim (s : State) (f : Nat) : State :=
  (s.modField f fun x => { x with st := .claim, fromStall := x.st == .stall }).modTime fun t =>
    { t with claims := t.claims ++ [(t.slot, f)] }

/-- CLAIM (R421): a ranked field's time is reached, or no claim has come and it is the lowest bidder. -/
def execClaim (f : Nat) (s : State) : Out :=
  let x := s.field f
  let can := match rankOf s f with
    | some k => decide (1 ≤ k) && decide (x.since + 4 * k * micro ≤ s.now) && (x.st == .frozen || s.time.won.isNone)
    | none => decide (x.since + 18 * micro ≤ s.now) && s.time.won.isNone && s.time.claims.isEmpty
        && s.time.bids.contains f && s.time.bids.all fun b => decide (f ≤ b)
  whenCan (fieldActs s f && x.lost && !hostElects s && can) (makeClaim s f) s

/-- BID (R421): an unranked field that has heard no claim bids at t0 + 16 µs. -/
def execBid (f : Nat) (s : State) : Out :=
  let x := s.field f
  whenCan (fieldActs s f && x.lost && (rankOf s f).isNone && s.time.won.isNone && !s.time.bids.contains f
      && decide (x.since + 16 * micro ≤ s.now)) (s.modTime fun t => { t with bids := t.bids ++ [f] }) s

/-- RM_FORCE (R421, R451). -/
def execRmForce (value : Word) (s : State) : Out :=
  let f := value.toNat % 64
  whenCan (value.getLsbD 31 && fieldActs s f && (s.field f).lost) (makeClaim s f) s

/-- What a claimant does whose claim another precedes (R421). -/
def Field.yieldClaim (f : Field) : Field := { f with st := if f.fromStall then .stall else .follow }

/-- What a field does when the first claim of an election is applied (R421): it waits 16 slots for the new Ringmaster. -/
def hearClaim (winner slot : Nat) (x : Nat × Field) : Nat × Field :=
  let f := x.2
  match f.st with
  | .frozen => (x.1, { f with st := .follow, mark := slot + 16, elect := some winner })
  | .claim =>
    if x.1 = winner then (x.1, { f with elect := some winner })
    else (x.1, { f.yieldClaim with mark := slot + 16, elect := some winner })
  | .stall => (x.1, { f with elect := some winner })
  | .follow | .master => x

/-- The claim that comes first in the order of carousel 0 (R123). -/
def firstClaim (l : List (Nat × Nat)) : Option (Nat × Nat) :=
  l.foldl (fun b x => match b with
    | none => some x
    | some y => if x.1 < y.1 ∨ (x.1 = y.1 ∧ x.2 < y.2) then some x else some y) none

/-- May a record of carousel 0 in a slot be applied: no replay is pending at or before it (R434). -/
def claimReadable (s : State) (slot : Nat) : Bool :=
  match mget s.time.replayAt 0 with
  | some at_ => decide (slot < at_)
  | none => true

/-- CLAIM_RECORD (R421): the first claim decides the election; a later one's claimant gives way. -/
def execClaimRecord (s : State) : Out :=
  match firstClaim s.time.claims with
  | none => .next s
  | some (slot, f) =>
    let s1 := s.modTime fun t => { t with claims := t.claims.erase (slot, f) }
    let s2 :=
      if s.time.won.isNone then
        s1.modTime fun t => { t with won := some (f, t.slot), fields := t.fields.map (hearClaim f t.slot) }
      else if s.time.won.map (·.1) ≠ some f ∧ (s.field f).st = .claim then
        s1.modField f fun x => { x.yieldClaim with mark := s.time.slot + 16, elect := s.time.won.map (·.1) }
      else s1
    whenCan (decide (slot + 12 ≤ s.time.slot) && claimReadable s slot) s2 s

/-- MASTER_TAKEOVER (R421): its claim was applied first, and 16 slots have passed since (log 49). -/
def execMasterTakeover (f : Nat) (s : State) : Out :=
  let can := fieldActs s f && (s.field f).st == .claim && (match s.time.won with
    | some (w, slot) => w == f && decide (slot + 16 ≤ s.time.slot)
    | none => false)
  let e := (s.time.epoch + 1) % 65536
  let s1 := (s.modField f fun x => { x with st := .master }).modTime fun t => { t with
    master := some f, epoch := e, fresh := true, bids := []
    fields := t.fields.map fun x => if x.1 ≠ f ∧ x.2.st = .master then (x.1, { x.2 with st := .follow }) else x }
  whenCan can (notify (s1.modField f fun x => { x with st := .master }) 7 f e) s

/-- NEW_MASTER_BEACON (R421, R423): every field steps its slot counter by 64, and module time with it; whoever still
claims gives way. -/
def execNewMasterBeacon (f : Nat) (s : State) : Out :=
  let follow := fun (slot : Nat) (x : Nat × Field) =>
    (x.1, { x.2 with
      st := if x.2.st = .master then .master else .follow, mark := slot, elect := none, notice := false })
  whenCan (s.time.fresh && s.time.master == some f && fieldActs s f)
    (s.modTime fun t => { t with
      slot := t.slot + 64, shift := t.shift + 64 * Config.slotTime, fresh := false, won := none, claims := [], bids := []
      fields := t.fields.map (follow (t.slot + 64)) }) s

/-- DRIFT_CHECK (R421, R422, R430): every 256 slots a field in FROZEN or FOLLOW compares slot marks with its
neighbours. -/
def execDriftCheck (f : Nat) (skews : List Int) (s : State) : Out :=
  let x := s.field f
  let tooFar := skews.any fun d => decide (s.time.drift < d.natAbs)
  whenCan (fieldActs s f && (x.st == .frozen || x.st == .follow) && decide (x.checked + 256 ≤ s.time.slot))
    (s.modField f fun x => { x with checked := x.checked + 256, ofs := x.skew, st := if tooFar then .stall else x.st }) s

/-- STALL_NOTICE (R421, R422): the notice of a field that has stalled comes; the field enters STALL at its next slot
boundary. -/
def execStallNotice (f : Nat) (s : State) : Out :=
  let x := s.field f
  whenCan (fieldActs s f && (x.st == .frozen || x.st == .follow) && s.time.fields.any fun y => y.1 != f && y.2.st == .stall)
    (s.modField f fun x => { x with notice := true }) s

/-- PTP_SYNC (R425, R426): over a port that is UP, while a Ringmaster serves. A forward offset at the first lock, with no
launch active, is stepped, and every field's slots with it; every other one is slewed by the servo. -/
def execPtpSync (offset : Int) (s : State) : Out :=
  let step := !s.time.ptpLocked && s.launch.launches.isEmpty && decide (offset < 0)
  let n := if step then offset.natAbs / 4 else 0
  whenCan (bitsNat s.time.ptpCtl 31 1 == 1 && serving s && s.link.ports.any fun p => p.1 < 64 && p.2.up)
    (s.modTime fun t => { t with
      ptpOfs := offset, ptpLocked := true
      slot := t.slot + n
      shift := if step then t.shift + offset.natAbs * Config.nano else t.shift
      fields := t.fields.map fun x => (x.1, { x.2 with mark := x.2.mark + n, checked := x.2.checked + n }) }) s

/-! Clocks of the fields (R427 to R430). -/

/-- CLK_STAT (R430). -/
def Field.clkStat (f : Field) : Nat :=
  f.switches * 2 ^ 16 + f.noSrc.toNat * 2 ^ 9 + f.swEvt.toNat * 2 ^ 8 + (f.source.getD 7)

/-- Is there a neighbour of a field on a side: 0 west, 1 south, 2 east, 3 north (R16, R427). -/
def hasEdge (f side : Nat) : Bool :=
  match side with
  | 0 => f % 8 != 0
  | 1 => f / 8 != 0
  | 2 => f % 8 != 7
  | 3 => f / 8 != 7
  | _ => false

/-- The first live source, skipping absent edges: 0 the module reference, then the neighbours (R427). -/
def firstSource (f : Nat) (live : List Nat) : Option Nat :=
  (List.range 5).find? fun n => live.contains n && (n == 0 || hasEdge f (n - 1))

/-- The bands measured, 0 at an absent edge (R429, R430). -/
def bandsOf (f : Nat) (bands : List Nat) : List Nat :=
  (List.range 4).map fun i => if hasEdge f i then bands.getD i 0 % 4 else 0

/-- The heat tokens that fell due in a field's stop are added (R427). -/
def payOwed (s : State) (f : Nat) : State :=
  { s with columns := s.columns.map fun x =>
      if fieldOfCluster x.1 = f then (x.1, { x.2 with tok := min (x.2.tok + x.2.owed) x.2.cap, owed := 0 }) else x }

/-- CLOCK_SOURCE_LOSS (R427): a field that loses the source it uses stops. -/
def execClockSourceLoss (f source : Nat) (s : State) : Out :=
  whenCan (alive s f) (s.modField f fun x => x.reclock s.now fun x => { x with
    live := x.live.filter (· != source), running := x.running && x.source != some source }) s

/-- The homes of a field apply what they have buffered in its stop (R427). -/
def payBuffered (s : State) (f : Nat) : State :=
  ((s.slices.filter fun x => fieldOfCluster x.1 == f && !x.2.buffered.isEmpty).map (·.1)).foldl applyBuffered s

/-- CLOCK_SWITCH_COMPLETE (R427 to R429): the field runs on the first source that lives, or on its own oscillator at
1.2 GHz; the beacons and the records of its stop have been buffered. -/
def execClockSwitchComplete (f : Nat) (bands : List Nat) (s : State) : Out :=
  let b := bandsOf f bands
  let s1 := s.modField f fun x => x.reclock s.now fun x =>
    let src := firstSource f x.live
    { x with
      running := true, source := src, noSrc := src.isNone, switches := satAdd x.switches 1 0xFFFF, swEvt := true
      mark := if serving s && x.st == .follow then s.time.slot else x.mark
      bands := b, xlatGen := if b = x.bands then x.xlatGen else (x.xlatGen + 1) % 256 }
  whenCan (alive s f && !(s.field f).running) (notify (payBuffered (payOwed s1 f) f) 6 f (s1.field f).clkStat) s

/-- CLOCK_SOURCE_RETURN (R428): a field on its own oscillator switches back. -/
def execClockSourceReturn (f source : Nat) (s : State) : Out :=
  whenCan (alive s f && (source == 0 || hasEdge f (source - 1))) (s.modField f fun x => x.reclock s.now fun x => { x with
    live := if x.live.contains source then x.live else x.live ++ [source]
    running := x.running && x.source.isSome }) s

/-! Rings (R431 to R433, R435). A ring is named by its RING_SEL value. -/

/-- A ring that boot has locked (R447). DESIGN CHOICE (log 70): its heater setting, for which the spec gives no value, is
the middle of the range. -/
def Ring.locked : Ring := ⟨.lock, 0x8000, false, false⟩
def State.ring (s : State) (r : Nat) : Ring :=
  (mget s.link.rings r).getD (if 3 ≤ s.boot.step ∧ s.boot.err ≠ 3 then Ring.locked else Ring.reset)
def State.modRing (s : State) (r : Nat) (f : Ring → Ring) : State :=
  s.modLink fun l => { l with rings := mput l.rings r (f (s.ring r)) }

/-! Replays (R434). -/

/-- A receiver reports that it could not read a carousel from a slot on: no frame from there on is applied (R434). -/
def holdCarousel (s : State) (k slot : Nat) : State :=
  s.modTime fun t => { t with replayAt := mput t.replayAt k (match mget t.replayAt k with
    | some x => min x slot
    | none => slot) }

/-- FRAME_CRC_FAILURE (R434): the failure of a frame is reported within 8 slots of it. -/
def execFrameCrcFailure (k slot : Nat) (s : State) : Out :=
  whenCan (decide (slot ≤ s.time.slot) && decide (s.time.slot ≤ slot + 8)) (holdCarousel s k slot) s

/-- May every ring of a carousel be used: it is locked, or masked (R434). -/
def ringsReady (s : State) (k : Nat) : Bool :=
  s.link.rings.all fun x => match ringWave x.1 with
    | some w => w.1 != k || x.2.st == .lock || x.2.st == .masked
    | none => true

/-- What a carousel has not applied from a slot on goes n slots later, in the order it had: frames, and on carousel 0
the claim records (R434; log 75). -/
def shiftFrames (s : State) (k slot n : Nat) : State :=
  let move := fun (x : Nat) => if slot ≤ x then x + n else x
  let frame := fun (f : Frame) => if f.carousel = k then { f with slot := move f.slot } else f
  let claim := fun (c : Nat × Nat) => (move c.1, c.2)
  { s with frames := s.frames.map frame }.modTime fun t => { t with claims := if k = 0 then t.claims.map claim else t.claims }

/-- CAROUSEL_REPLAY (R424, R434): while a Ringmaster serves and every ring is locked or masked, the frames not applied
from the slot on are written again from the next slot on, in their order. -/
def execCarouselReplay (k : Nat) (s : State) : Out :=
  match mget s.time.replayAt k with
  | none => .next s
  | some slot =>
    whenCan (serving s && ringsReady s k)
      ((shiftFrames s k slot (s.time.slot + 1 - slot)).modTime fun t => { t with
        replayAt := mdel t.replayAt k, replays := mput t.replays k (satAdd ((mget t.replays k).getD 0) 1 0xFFFFFFFF) }) s

/-! Ports (R436 to R439). -/

def State.modPort (s : State) (p : Nat) (f : Port → Port) : State :=
  s.modLink fun l => { l with ports := mput l.ports p (f (s.port p)) }

/-- Fewest lanes of a port: MIN, 0 acting as 1 (R439). -/
def Port.least (p : Port) : Nat := max 1 (bitsNat p.ctl.toNat 20 4)

/-- The place of a host link among the ports, and a link whose six lanes are enabled, four of them at work (R440). -/
def hostPort (link : Nat) : Nat := 64 + link
def linkPort : Port := { Port.reset with ctl := 0x8010003F, up := true, lanes := [0, 1, 2, 3] }

/-- The rings of a port's or a host link's lane: transmit and receive (R435). -/
def laneRings (p lane : Nat) : List Nat := [2, 3].map fun kind =>
  kind * 2 ^ 26 + (if p < 64 then p * 2 ^ 17 else 2 ^ 28 + (p - 64) * 2 ^ 17) + lane * 2 ^ 12

/-- The lane of a port, or of a host link, that a ring serves (R435). -/
def portLane (r : Nat) : Option (Nat × Nat) :=
  if bitsNat r 26 2 < 2 then none
  else if bitsNat r 28 1 = 0 then some (bitsNat r 17 6, bitsNat r 12 5) else some (hostPort (bitsNat r 17 1), bitsNat r 12 5)

/-- Lanes a port may use and that have not failed (R437, R439). DESIGN CHOICE (log 95): a failed lane stays out of use when
its ring has locked again, until a write of PORT_CTL clears its bit of LANE_EN; a host link's stays out. -/
def Port.enabled (p : Port) : List Nat := (List.range 18).filter fun l => p.ctl.getLsbD l && !p.failed.contains l

/-- Lanes that work at one time: 16 of a port, four of a host link (R436, R440). -/
def widest (p : Nat) : Nat := if p < 64 then 16 else 4

/-- A port with its lanes in use: UP if it is enabled and has enough (R437, R439). -/
def Port.uses (p : Port) (lanes : List Nat) : Port :=
  { p with lanes := lanes, up := p.ctl.getLsbD 31 && decide (p.least ≤ lanes.length) }

/-- Are both rings of a lane in one of these states. -/
def laneIn (s : State) (p lane : Nat) (l : List RingState) : Bool := (laneRings p lane).all fun r => l.contains (s.ring r).st

/-- A host link goes down and all traffic moves to the other (R440): of a write under way, what has not been performed
by then never is. -/
def linkDown (s : State) (link : Nat) : State :=
  let kept := match s.hostReqs.find? (·.link == link) with
    | some r => if r.write then s.hostReqs.erase r else s.hostReqs
    | none => s.hostReqs
  let move := fun (r : HostReq) => if r.link = link then { r with link := 1 - link } else r
  { forget s (.host link) with hostReqs := kept.map move }.modLink fun l => { l with linkUp := l.linkUp.filter (· ≠ link) }

/-- A host link is up while one of its lanes works (R437, R440; log 79). -/
def settleLink (s : State) (link : Nat) : State :=
  if !(s.port (hostPort link)).up then (if s.link.linkUp.contains link then linkDown s link else s)
  else s.modLink fun l => { l with linkUp := if l.linkUp.contains link then l.linkUp else l.linkUp ++ [link] }

/-- What a change of a port's lanes leaves in PORT_EVT, FAILOVER where a lane has failed, and message 8 (R437, R439,
R441). -/
def portEvent (s : State) (p : Nat) (old : Port) (failover : Bool) : State :=
  let x := s.port p
  let evt := failover.toNat ||| 2 * (old.up && !x.up).toNat ||| 4 * (decide (x.lanes.length < old.lanes.length)).toNat
  if 64 ≤ p then settleLink s (p - 64)
  else if evt = 0 then s
  else
    let s := s.modPort p fun x => { x with evt := x.evt ||| evt }
    notify s 8 p (s.port p).evt

/-- A port takes its lanes: the first whose rings are locked (R436, R437). -/
def settlePort (s : State) (p : Nat) : State :=
  let x := s.port p
  let lanes := (x.enabled.filter fun l => laneIn s p l [.lock]).take (widest p)
  portEvent (s.modPort p fun x => x.uses (if x.ctl.getLsbD 31 then lanes else [])) p x false

/-- A write of PORT_CTL (R439). -/
def writePortCtl (s : State) (p : Nat) (v : Word) : State :=
  settlePort (s.modPort p fun x => { x with ctl := v &&& 0x80F3FFFF, failed := x.failed.filter fun l => v.getLsbD l }) p

/-- Uncorrectable codewords not older than 1 ms (R437). -/
def Port.badSince (p : Port) (now : Nat) : List (Nat × Nat) := p.bad.filter fun x => decide (now ≤ x.2 + 10 ^ 6 * Config.nano)

/-- Is a lane to fail: a ring of it is not locked, or it gave 4 uncorrectable codewords within 1 ms, which 8 consecutive
replays of 400 ns hold too (R437). -/
def laneFails (s : State) (p lane : Nat) : Bool :=
  ((laneRings p lane).any fun r => (s.ring r).st != .lock)
    || decide (4 ≤ (((s.port p).badSince s.now).filter fun x => x.1 == lane).length)

/-- A ring whose heater is off is enabled (R432). -/
def Ring.enable (x : Ring) : Ring := if x.st = .off then { x with st := .sweep } else x

/-- The spare that a port takes in for a lane that fails: an enabled lane out of use whose rings are off or locked. One
that is locking comes in for an earlier lane, and a masked or lost ring waits for a command (R432, R437). -/
def spareOf (s : State) (p : Nat) (y : Port) : Option Nat :=
  y.enabled.find? fun l => !y.lanes.contains l && laneIn s p l [.off, .lock]

/-- A lane of a port fails: a spare that is locked takes its place, or begins to lock while the port runs on without
it, narrowed or down (R437). -/
def failLane (s : State) (p lane : Nat) : State :=
  let x := s.port p
  let y := { x with failed := x.failed ++ [lane], bad := x.bad.filter (·.1 != lane) }
  let rest := x.lanes.filter (· != lane)
  let y := y.uses rest
  let s := match spareOf s p y with
    | none => s.modPort p fun _ => y
    | some spare =>
      if laneIn s p spare [.lock] then s.modPort p fun _ => y.uses (rest ++ [spare])
      else (laneRings p spare).foldl (fun s r => s.modRing r Ring.enable) (s.modPort p fun _ => y)
  portEvent s p x true

/-! What a ring does (R432, R433). -/

/-- A ring is masked (R433). -/
def maskRing (s : State) (r : Nat) : State :=
  (s.modRing r fun x => { x with st := .masked, low := false, high := false }).modLink fun l =>
    if l.masked.contains r then l else { l with masked := l.masked ++ [r] }

/-- RING_SWEEP_END (R432). -/
def execRingSweepEnd (r : Nat) (found : Option Nat) (s : State) : Out :=
  whenCan ((s.ring r).st == .sweep) (match found with
    | some h => if h = 0 ∨ 65535 ≤ h then maskRing s r else s.modRing r fun x => { x with st := .acq, heater := h }
    | none => maskRing s r) s

/-- RING_LOCK (R432): a wavelength is back in service once none of its rings is masked; the relock of a carousel ring
counts in the lifetime record (R418). A port takes its
lane in (R437). RLOW and RHIGH tell a heater within 5 % of a limit. -/
def execRingLock (r heater : Nat) (s : State) : Out :=
  let s1 := s.modRing r fun _ => ⟨.lock, heater % 65536, decide (heater % 65536 ≤ 3276), decide (62259 ≤ heater % 65536)⟩
  let s1 := match ringWave r with
    | some w => lifeAdd (s1.modLink fun l => { l with masked := l.masked.erase r })
        (528384 + 4 * ((w.1 * 64 + w.2.1) * 18 + w.2.2)) 4 1
    | none => s1.modLink fun l => { l with masked := l.masked.erase r }
  let s1 := match portLane r with
    | some (p, _) => settlePort s1 p
    | none => s1
  whenCan ((s.ring r).st == .acq) s1 s

/-- RING_LOCK_LOSS (R432, R434, R437): with hardware retuning the ring sweeps at once; a port's lane fails, and a
carousel that a receive ring served is read no further. -/
def execRingLockLoss (r : Nat) (s : State) : Out :=
  let s1 := s.modRing r fun x => { x with
    st := if s.link.mode.testBit 2 then .lost else .sweep, low := false, high := false }
  let s1 := s1.modLink fun l => { l with ringLoss := satAdd l.ringLoss 1 0xFFFF, lossEvt := true }
  let s1 := notify s1 5 0 r
  let s1 := match portLane r with
    | some (p, lane) => if (s.port p).lanes.contains lane then failLane s1 p lane else s1
    | none => if bitsNat r 26 2 = 1 then holdCarousel s1 (bitsNat r 23 3) s.time.slot else s1
  whenCan ((s.ring r).st == .lock) s1 s

/-- RING_CMD RETUNE (R432). -/
def execRingRetune (s : State) : Out :=
  let r := s.link.ringSel
  whenCan ((s.ring r).st == .off || (s.ring r).st == .lost) (s.modRing r fun x => { x with st := .sweep }) s
/-- RING_CMD MASK (R432, R433). -/
def execRingMask (s : State) : Out :=
  whenCan ((s.ring s.link.ringSel).st == .lost) (maskRing s s.link.ringSel) s
/-- RING_CMD UNMASK (R432). -/
def execRingUnmask (s : State) : Out :=
  whenCan ((s.ring s.link.ringSel).st == .masked) (s.modRing s.link.ringSel fun x => { x with st := .sweep }) s

/-! Events of the ports (R437, R439). -/

/-- CODEWORD_REPLAY (R437). -/
def execCodewordReplay (p lane : Nat) (s : State) : Out :=
  whenCan ((s.port p).lanes.contains lane)
    (s.modPort p fun x => { x with
      fecu := satAdd x.fecu 1 0xFFFFFFFF, rply := satAdd x.rply 1 0xFFFFFFFF, bad := x.badSince s.now ++ [(lane, s.now)] }) s

/-- LANE_FAILOVER (R437, R439): a failing lane leaves, a spare begins to lock, and the port narrows or goes down. -/
def execLaneFailover (p lane : Nat) (s : State) : Out :=
  whenCan ((s.port p).lanes.contains lane && laneFails s p lane) (failLane s p lane) s

/-- Is a lane of the crossbar enabled: a port's lane by PORT_CTL, a host's while its link is up (R431). -/
def laneEnabled (s : State) (lane : Nat) : Bool :=
  if lane < 1152 then (s.port (lane / 18)).ctl.getLsbD 31 && (s.port (lane / 18)).ctl.getLsbD (lane % 18)
  else s.link.linkUp.contains ((lane - 1152) / 6)

/-- XBAR (R431, R435). -/
def execXbar (lane : Nat) (value : Word) (s : State) : Out :=
  .next (s.modLink fun l =>
    if laneEnabled s lane then { l with xrej := true } else { l with xbar := mput l.xbar lane (value.toNat % 2048) })

/-- The laser channel of a lane (R431, R435). -/
def laneChannel (s : State) (lane : Nat) : Nat := (mget s.link.xbar lane).getD (144 + lane)

/-- The four words of LASER_AGE: 16 bits of current, power and change, and the hours (R435). -/
def laserWords (x : Word × Word × Word × Word) : Word × Word × Word × Word :=
  (x.1 &&& 0xFFFF, x.2.1 &&& 0xFFFF, x.2.2.1 &&& 0xFFFF, x.2.2.2)

/-- LASER_AGE_REPORT (R435). -/
def execLaserAgeReport (channel : Nat) (current power change hours : Word) (s : State) : Out :=
  .next (s.modLink fun l => { l with laser := mput l.laser channel (laserWords (current, power, change, hours)) })

end Sys2Proof.Machine
end

