-- ==== Sys2Proof/Machine/Pages.lean ====
section
/-! DEFINITION. Page requests and the page-request engine (R110 to R114), TLBI and SWEEP (R115 to R117), and
hardware page retirement (R443). -/

namespace Sys2Proof.Machine

/-! Page requests (R111, R112). -/

/-- Is a page present, well formed and loadable in a context (R111). DESIGN CHOICE (log 70): the rights U and R decide;
what R97, R98 and R214 say of the physical address is not looked at. -/
def mayLoad (f : Found) (super : Bool) : Bool :=
  match f with
  | .page t => t.allows super true false
  | .absent _ _ | .malformed | .error _ | .busy => false

/-- PGQRY, counted on setA (R111). -/
def execPgqry (a : Reg) (d : PReg) (p : PReg) (s : State) : Out :=
  perThread (.pgqry a d p) p (fun s k _ => withWg s k fun t w =>
    let va := (t.rdPair a).toNat
    if 2 ^ 52 ≤ va then .next (s.setThread k (t.countResult [.p d false]))
    else
      let r := lookup s (.thread k) w.asid w.ptbase va
      if r.1 = .busy then .wait r.2 .busy
      else .next (r.2.setThread k (t.countResult [.p d (mayLoad r.1 (supervisor t w))]))) s

/-- The entry of a core for an address space's page (R112). -/
def reqFor (c : Core) (asid va : Nat) : Option (Nat × PageReq) :=
  c.pageReqs.find? fun x => x.2.asid == asid && x.2.va / 2 ^ 14 == va / 2 ^ 14

/-- Are page requests served by the control node (R113, R442). -/
def hostPages (s : State) : Bool := s.link.mode.testBit 0

/-- An absent page's request joins the entry that is there for it, or takes a new one (R112). leaf is the leaf as read, 0
if a table entry was absent. DESIGN CHOICE (log 70): the record's address is the first requester's, offset included. -/
def requestPage (s : State) (k : Nat) (t : Thread) (w : Workgroup) (d : HReg) (va leaf : Nat) : Effect :=
  let core := coreOf k
  let c := s.core core
  if 16 ≤ c.pageReqs.length then instantJob s k t w d .page .refused
  else match openJob s k t w d (jobOf t w .page) with
    | none => .wait s .jobTable
    | some (num, _, s) =>
      let h := (t.wg, num)
      match reqFor c w.asid va with
      | some (e, r) =>
        .next (s.modCore core fun c => { c with pageReqs := mput c.pageReqs e { r with handles := r.handles ++ [h] } })
      | none =>
        match (List.range 16).find? fun n => (mget c.pageReqs n).isNone with
        | none => .wait s .jobTable
        | some e => .next (s.modCore core fun c => { c with
            pageReqs := mput c.pageReqs e ⟨w.asid, w.ptbase, va, [h], none, hostPages s, leaf, none⟩ })

/-- PGREQ (R112). -/
def execPgreq (a : Reg) (d : HReg) (p : PReg) (s : State) : Out :=
  perThread (.pgreq a d p) p (fun s k _ => withWg s k fun t w =>
    let va := (t.rdPair a).toNat
    if 2 ^ 52 ≤ va then instantJob s k t w d .page .denied
    else
      let r := lookup s (.thread k) w.asid w.ptbase va
      match r.1 with
      | .busy => .wait r.2 .busy
      | .page _ => instantJob r.2 k t w d .page .done
      | .malformed | .error _ => instantJob r.2 k t w d .page .denied
      | .absent leaf _ => requestPage r.2 k t w d va leaf) s

/-! The queue to the control node (R113, R118, R119). -/

/-- Records of the page-request queue (R119). -/
def PageUnit.size (u : PageUnit) : Nat := 2 ^ max 4 (min 11 u.sizeExp)

/-- The first identifier from n on that is not outstanding, m tries at most (R113). -/
def freeReqId (used : SMap (Nat × Nat)) (n : Nat) : Nat → Nat
  | 0 => n
  | m + 1 => if (mget used n).isSome then freeReqId used ((n + 1) % 2 ^ 16) m else n

/-- PRQ_RECORD_WRITE (R113): of an entry that the engine has not begun to install; what its walk has read is of no
further use. DESIGN CHOICE (log 70): PRQ_HEAD goes on modulo the queue's size. -/
def execPrqRecordWrite (core entry : Nat) (s : State) : Out :=
  match mget (s.core core).pageReqs entry with
  | none => .next s
  | some r =>
    let u := s.page
    let id := freeReqId u.open_ u.nextId (u.open_.length + 1)
    let head := (u.head + 1) % u.size
    let bytes := natBytes 8 r.va ++ natBytes 1 r.asid ++ natBytes 1 0 ++ natBytes 2 id ++ natBytes 4 core
      ++ natBytes 8 r.leaf ++ natBytes 8 0
    let s0 := forget s (.request core entry)
    let s1 := { s0 with wmem := writeBytes s.wmem ((u.prqBase + 32 * u.head) % 2 ^ 32) bytes }
    let s1 := s1.modCore core fun c => { c with pageReqs := mput c.pageReqs entry { r with reqId := some id } }
    let s1 := s1.modPage fun u => { u with head := head, nextId := (id + 1) % 2 ^ 16, open_ := mput u.open_ id (core, entry) }
    whenCan (r.reqId.isNone && r.install.isNone && (r.forward || hostPages s) && u.en && head != u.tail % u.size
        && decide (u.open_.length < 65536)) (notify s1 4 core head) s

/-- Completes every handle of a core's entry and frees it (R112); nothing read for it is kept for the next one. -/
def endPageReq (s : State) (core entry : Nat) (st : JobStatus) : State :=
  match mget (s.core core).pageReqs entry with
  | none => s
  | some r =>
    r.handles.foldl (fun s h => closeHandle s h st)
      ((forget s (.request core entry)).modCore core fun c => { c with pageReqs := mdel c.pageReqs entry })

/-- The control node's answer; one to an unknown identifier sets BADRESP (R113, R119). -/
def answer (s : State) (id : Nat) (st : JobStatus) : State :=
  match mget s.page.open_ id with
  | none => s.modPage fun u => { u with badResp := true }
  | some (core, entry) => endPageReq (s.modPage fun u => { u with open_ := mdel u.open_ id }) core entry st

/-- PRQ_RESP_DONE (R113). -/
def execPrqRespDone (request : BitVec 16) (s : State) : Out := .next (answer s request.toNat .done)
/-- PRQ_RESP_DENIED (R113). -/
def execPrqRespDenied (request : BitVec 16) (s : State) : Out := .next (answer s request.toNat .denied)

/-! The page-request engine (R114). -/

/-- Bytes of a page. -/
def pageBytes : Nat := 16384

/-- The frame at a place of the free-frame stack (R118). -/
def stackFrame (s : State) (n : Nat) : Nat := bytesNat (readBytes s.wmem ((s.page.frameBase + 8 * n) % 2 ^ 32) 8)

/-- May the engine use a frame: 16 KiB aligned, in the module's own vault region (R114). -/
def frameOk (s : State) (f : Nat) : Bool :=
  f % pageBytes == 0 && f / 2 ^ 48 == s.page.moduleId && inVault (f % 2 ^ 48)

/-- May a page be read or written as memory: vault memory, of this module or another (R98). -/
def pageInVault (pa : Nat) : Bool := inVault (pa % 2 ^ 48) && inVault (pa % 2 ^ 48 + pageBytes - 1)

/-- Reads a whole page anywhere in the pod; a place that is no vault memory gives PERM (R98, R133). -/
def pageContent (s : State) (who : Asker) (pa : Nat) : Option (Except (Cause × Nat) (List Byte)) × State :=
  if pageInVault pa then askRead s who 256 0 pa pageBytes 129 else (some (.error (.perm, 0)), s)

/-- Writes a whole page. -/
def pageStore (s : State) (who : Asker) (pa : Nat) (b : List Byte) : Option (Except (Cause × Nat) (List Byte)) × State :=
  if pageInVault pa then askWrite s who 256 0 pa b 129 else (some (.error (.perm, 0)), s)

/-- Puts a leaf in place of the one read before, by an atomic compare at its home; what was there (R114). -/
def leafSwap (s : State) (who : Asker) (a old new : Nat) : Option (Except (Cause × Nat) (List Byte)) × State :=
  askOne s (askOf who 256 0 (s.page.moduleId * 2 ^ 48 + a) 8 .bypass (.swap who (natBytes 8 old) (natBytes 8 new)))

/-- Changes an entry of a core's page-request table. -/
def State.modReq (s : State) (core entry : Nat) (f : PageReq → PageReq) : State :=
  s.modCore core fun c => { c with pageReqs := match mget c.pageReqs entry with
    | some r => mput c.pageReqs entry (f r)
    | none => c.pageReqs }

/-- The engine hands an entry to the queue (R114). -/
def forwardReq (s : State) (core entry leaf : Nat) : State :=
  s.modReq core entry fun r => { r with forward := true, leaf := leaf, install := none }

/-- The engine drops the frame that it popped (R114). -/
def badFrame (s : State) : State := s.modPage fun u => { u with frameBad := true }

/-- The engine pushes a frame back (R114). -/
def pushFrame (s : State) (f : Nat) : State :=
  { s with wmem := writeBytes s.wmem ((s.page.frameBase + 8 * s.page.frameCount) % 2 ^ 32) (natBytes 8 f) }.modPage fun u =>
    { u with frameCount := (u.frameCount + 1) % 65536 }

/-- The engine pops a frame for a backing page and begins to install it, or forwards the request (R114). -/
def beginInstall (s : State) (core entry leaf leafAt backing rights : Nat) : State :=
  if s.page.frameCount = 0 then forwardReq s core entry leaf
  else
    let frame := stackFrame s (s.page.frameCount - 1)
    let s := s.modPage fun u => { u with frameCount := u.frameCount - 1 }
    if !frameOk s frame then forwardReq (badFrame s) core entry leaf
    else s.modReq core entry fun r => { r with install := some ⟨leaf, leafAt, backing, rights, frame⟩ }

/-- The engine goes on with a page that it installs: it copies the page, then replaces the leaf; where that has changed
it pushes the frame back and walks again (R114). DESIGN CHOICE (log 86): an error in that compare of the leaf pushes the
frame back and completes the handles with DENIED. -/
def goInstall (s : State) (core entry : Nat) (r : PageReq) (i : Install) : State :=
  let who : Asker := .request core entry
  let stop := fun (s : State) => forget s who
  let page := pageContent s who i.backing
  match page.1 with
  | none => page.2
  | some (.error _) => forwardReq (pushFrame (stop page.2) i.frame) core entry i.leaf
  | some (.ok b) =>
    let copy := pageStore page.2 who i.frame b
    match copy.1 with
    | none => copy.2
    | some (.error _) => forwardReq (badFrame (stop copy.2)) core entry i.leaf
    | some (.ok _) =>
      let leaf := leafSwap copy.2 who i.leafAt i.leaf (i.frame + i.rights * 2 + 1)
      match leaf.1 with
      | none => leaf.2
      | some (.error _) => endPageReq (pushFrame (stop leaf.2) i.frame) core entry .denied
      | some (.ok old) =>
        let s := stop leaf.2
        if bytesNat old ≠ i.leaf then (pushFrame s i.frame).modReq core entry fun r => { r with install := none }
        else
          let done : PageLog := ⟨i.leafAt, i.backing, i.frame, r.asid, r.va / 2 ^ 14 * 2 ^ 14⟩
          endPageReq (s.modPage fun u => { u with log := (u.log ++ [done]).drop (u.log.length + 1 - 65536) }) core entry .done

/-- PAGE_REQUEST_ENGINE (R114): the engine walks afresh, with no core's cached table entries. -/
def execPageRequestEngine (core entry : Nat) (s : State) : Out :=
  match mget (s.core core).pageReqs entry with
  | none => .next s
  | some r =>
    match r.install with
    | some i => .next (goInstall s core entry r i)
    | none =>
      if r.forward || r.reqId.isSome || hostPages s then .next s
      else
        let who : Asker := .request core entry
        let f := walkFrom s who r.asid r.va r.ptbase [] 4
        match f.1 with
        | .busy => .next f.2.2
        | .page _ => .next (endPageReq (forget f.2.2 who) core entry .done)
        | .malformed | .error _ => .next (endPageReq (forget f.2.2 who) core entry .denied)
        | .absent leaf leafAt =>
          match backing? leaf with
          | some (b, rights) => .next (beginInstall (forget f.2.2 who) core entry leaf leafAt b rights)
          | none => .next (forwardReq (forget f.2.2 who) core entry leaf)

/-! TLBI and SWEEP (R115, R116). -/

/-- Is a selector well formed (R115). -/
def selectorOk (v : Word) : Bool := v.toNat / 2 ^ 10 == 0 && bitsNat v.toNat 8 2 != 3

/-- TLBI (R115, R116). -/
def execTlbi (b a : Reg) (p : PReg) (s : State) : Out :=
  perThread (.tlbi b a p) p (fun s k _ => withWg s k fun t w =>
    let cluster := clusterOf (coreOf k)
    if !supervisor t w then .trap s { cause := .priv }
    else if !selectorOk (t.rdG b) then .trap s { cause := .illegalOp }
    else if !queueRoom s cluster 0 then .wait s .recordQueue
    else .next (enqueue s cluster 0
      { recOf .tlbi (coreOf k) (t.rdPair a).toNat with arg := (t.rdG b).toNat })) s

/-- Has a core a TLBI that is not yet applied. -/
def tlbiPending (s : State) (core : Nat) : Bool :=
  let hit := fun (r : Rec) => r.kind == .tlbi && r.src == core
  s.queues.any (fun q => q.2.any hit) || s.frames.any (fun f => hit f.cmd) || s.outbox.any fun x => hit x.2

/-- SWEEP: it is sent once every earlier TLBI of the thread has been applied on every core (R115, R116). -/
def execSweep (b : Reg) (d : HReg) (p : PReg) (s : State) : Out :=
  perThread (.sweep b d p) p (fun s k _ => withWg s k fun t w =>
    let cluster := clusterOf (coreOf k)
    let sel := (t.rdG b).toNat
    if !supervisor t w then .trap s { cause := .priv }
    else if !selectorOk (t.rdG b) then .trap s { cause := .illegalOp }
    else if tlbiPending s (coreOf k) then .wait s .order
    else if !queueRoom s cluster 0 then .wait s .recordQueue
    else match openJob s k t w d (jobOf t w .service) with
      | none => .wait s .jobTable
      | some (num, _, s) =>
        let n := s.fresh
        let v : Service := ⟨.sweep, coreOf k, some (t.wg, num), [], sel % 256, bitsNat sel 8 2, false, false, none⟩
        .next (enqueue { n.2 with services := mput n.2.services n.1 v } cluster 0
          { recOf .sweep (coreOf k) 0 with arg := sel, service := some n.1 })) s

/-! Hardware page retirement (R443). -/

/-- The free-frame stack, bottom first. -/
def stackFrames (s : State) : List Nat := (List.range s.page.frameCount).map (stackFrame s)

/-- Does a frame lie between two addresses of the module's vault region. -/
def frameIn (s : State) (lo hi f : Nat) : Bool :=
  f / 2 ^ 48 == s.page.moduleId && decide (lo ≤ f % 2 ^ 48) && decide (f % 2 ^ 48 < hi)

/-- Stores a new free-frame stack. -/
def setStack (s : State) (l : List Nat) : State :=
  let put := fun (m : Memory) (x : Nat × Nat) => writeBytes m ((s.page.frameBase + 8 * x.2) % 2 ^ 32) (natBytes 8 x.1)
  ({ s with wmem := l.zipIdx.foldl put s.wmem }).modPage fun u => { u with frameCount := l.length }

/-- What a step of a page's return gives. -/
inductive Returned where
  | ok (s : State)
  | wait (s : State)
  | bad (s : State)

/-- A page has been returned: its TLBI goes out from cluster 0, and the SWEEP of its ASID after it (R443). -/
def pageReturned (s : State) (vault : Nat) (e : PageLog) : State :=
  let n := s.fresh
  let s := post { n.2 with services := mput n.2.services n.1 ⟨.sweep, 0, none, [], e.asid, 1, false, true, none⟩ } 0 0
    { recOf .tlbi 0 e.va with arg := e.asid, service := some n.1 }
  s.modPage fun u => { u with log := u.log.erase e, retiring := u.retiring ++ [(vault, n.1)] }

/-- Returns a logged page to its backing page and makes its leaf a backing leaf again (R443); bad where an error meets it
or the leaf no longer maps the frame. -/
def returnPage (s : State) (vault : Nat) (e : PageLog) : Returned :=
  let who : Asker := .retire vault
  let leaf := entryAt s who 256 e.leaf
  match leaf.1 with
  | none => .wait leaf.2
  | some (.error _) => .bad leaf.2
  | some (.ok v) =>
    if v % 2 = 0 ∨ bitsNat v 14 44 * 2 ^ 14 ≠ e.frame then .bad leaf.2
    else
      let page := pageContent leaf.2 who e.frame
      match page.1 with
      | none => .wait page.2
      | some (.error _) => .bad page.2
      | some (.ok b) =>
        let copy := pageStore page.2 who e.backing b
        match copy.1 with
        | none => .wait copy.2
        | some (.error _) => .bad copy.2
        | some (.ok _) =>
          let swap := leafSwap copy.2 who e.leaf v (e.backing + bitsNat v 1 4 * 2 ^ 3 + 2)
          match swap.1 with
          | none => .wait swap.2
          | some (.error _) => .bad swap.2
          | some (.ok old) =>
            if bytesNat old = v then .ok (pageReturned (forget swap.2 who) vault e) else .wait (forget swap.2 who)

/-- Does the engine install a page in a frame between two addresses. -/
def installsIn (s : State) (lo hi : Nat) : Bool :=
  s.cores.any fun c => c.2.pageReqs.any fun r => match r.2.install with
    | some i => frameIn s lo hi i.frame
    | none => false

/-- HW_PAGE_RETIREMENT (R443): the free frames of a vault with pending banks leave the stack, its pages go back one by
one, and once their sweeps are complete the engine writes VAULT_REMAP_GO. A step in which some frame is in use otherwise
is left to the control node, which message 1 tells of the first pending bank. The banks pending now decide each time. -/
def execHwPageRetirement (vault : Nat) (s : State) : Out :=
  let v := s.vault vault
  if s.link.mode.testBit 5 || v.pend == 0 || v.busy || s.page.left.contains vault then .next s
  else
    let lo := vault * 2 ^ 35 + (liveBanks (v.map &&& ~~~v.pend)).length * 2 ^ 26
    let hi := vault * 2 ^ 35 + v.cap * 2 ^ 26
    let stack := stackFrames s
    let free := (stack.filter (frameIn s lo hi)).eraseDups
    let logged := s.page.log.filter fun e => frameIn s lo hi e.frame
    let mine := (s.page.retiring.filter fun x => x.1 == vault).map (·.2)
    let emptied := (mget s.page.emptied vault).getD 0 + free.length
    let giveUp := fun (s : State) =>
      notify ((forget s (.retire vault)).modPage fun u => { u with left := vault :: u.left }) 1 vault ((liveBanks v.pend).headD 0)
    if installsIn s lo hi then .next s
    else if emptied + logged.length + mine.length < (hi - lo) / pageBytes then .next (giveUp s)
    else
      let s := (setStack s (stack.filter fun f => !frameIn s lo hi f)).modPage fun u => { u with emptied := mput u.emptied vault emptied }
      match logged with
      | e :: _ => (match returnPage s vault e with
        | .ok s | .wait s => .next s
        | .bad s => .next (giveUp s))
      | [] =>
        if mine.all fun n => match mget s.services n with
            | some x => sweepReady s x
            | none => true then
          execVaultRemapGo vault 1 ({ s with services := s.services.filter fun x => !mine.contains x.1 }.modPage fun u =>
            { u with retiring := u.retiring.filter fun x => x.1 != vault, emptied := mdel u.emptied vault })
        else .next s

end Sys2Proof.Machine
end

