-- ==== Sys2Proof/Machine/Boot.lean ====
section
/-! DEFINITION. Power and boot (R19, R22, R79, R83, R85, R421, R445 to R447), the loader (R448, R449), quotes
(R450) and the lifetime record (R418). -/

namespace Sys2Proof.Machine

/-! Boot (R447). -/

/-- Does a core work: no row of it has lost two lanes in self-test, and none stopped in service before (R19, R22). -/
def bootCoreOk (r : BootReport) (worn : List Nat) (core : Nat) : Bool :=
  !r.disabledCores.contains core && !worn.contains core && (List.range 4).all fun row =>
    decide (((r.deadLanes.filter fun x => x.1 == core && x.2.1 == row).map (·.2.2)).eraseDups.length ≤ 1)

/-- A lane that failed self-test gives its place to the spare; a failed spare stands for itself (R22). -/
def bootLane (s : State) (x : Nat × Nat × Nat) : State :=
  s.modCore x.1 fun c =>
    if h : x.2.1 < 4 then { c with
      rows := c.rows.set x.2.1 { c.rows[x.2.1] with spare := some x.2.2 } h
      laneGen := (c.laneGen + if x.2.2 < 8 then 1 else 0) % 256 }
    else c

/-- Copy i of a vault's table as boot reads it; one that the report does not list holds the map of the bank repair
(R79, R83). -/
def bootCopy (r : BootReport) (v : Nat) (map : BitVec 512) (i : Nat) : MapCopy :=
  match r.tables.find? fun x => x.vault == v && x.copy == i with
  | some x => ⟨x.map, x.cap, x.gen, x.good⟩
  | none => ⟨map, (liveBanks map).length, 0, true⟩

/-- A vault's map after its bank repair, its table copies and its first sample (R76, R79, R83, R85, R86, R87, R418). -/
def bootVault (r : BootReport) (s : State) (v : Nat) : State :=
  let map := ~~~((r.deadBanks.filter fun x => x.1 == v).foldl (fun m x => m ||| BitVec.ofNat 512 (2 ^ x.2)) 0)
  let t : Int := ((r.layerTemps.find? fun x => x.1 == v).map fun x => x.2.foldl max (x.2.headD 0)).getD 0
  let closed := decide (115 * 16 ≤ t)
  let s := s.modVault v fun x => { x with
    map := map, cap := (liveBanks map).length, temp := t, mult := multOf t, closed := closed, samples := s.timeNs / 10000
    copies := (List.range 3).map (bootCopy r v map) }
  lifeTemp (if closed then s.modColumn v fun c => { c with tok := c.tok / 2 } else s) v t

/-- A living field starts on its first live source or its own oscillator; its cycles count from here (R410, R421, R427,
R428). -/
def bootField (r : BootReport) (s : State) (f : Nat) : State :=
  let live := ((r.clockSources.find? fun x => x.1 == f).map (·.2)).getD []
  let src := firstSource f live
  let b := ((r.bands.find? fun x => x.1 == f).map (·.2)).getD 0
  let s := s.modField f fun x => x.reclock s.now fun x => { x with
    running := true, live := live, source := src, noSrc := src.isNone, since := s.now, mark := s.time.slot, checked := s.time.slot
    bands := bandsOf f [b % 4, b / 4 % 4, b / 16 % 4, b / 64 % 4] }
  if src.isNone then notify s 6 f (s.field f).clkStat else s

/-- The Ringmaster at boot: the rank-0 field, or an election among the living fields (R421). -/
def bootMaster (r : BootReport) (s : State) : State :=
  let f := s.time.rmRank % 64
  if r.aliveFields.contains f then
    (s.modField f fun x => { x with st := .master }).modTime fun t => { t with master := some f }
  else r.aliveFields.foldl (fun s g => s.modField g fun x => { x with st := .frozen }) s

/-- Vaults are fenced until every other vault has two matching copies that count: a copy held by a fenced
vault does not (R83, R84). -/
def bootFence : Nat → State → State
  | 0, s => s
  | n + 1, s =>
    match (List.range Config.clusterCount).filter fun v =>
        !(s.vault v).fenced && (votedTable (countedCopies s v)).isNone with
    | [] => s
    | l => bootFence n (l.foldl (fun s v => (voteTable s v).2) s)

/-- A vault takes its table from the vote (R83); a bank that the repair has taken out stays out (R79). DESIGN CHOICE
(log 85): GEN is the voted table's generation from boot on, low 8 bits, where R94's Reset column has 0. -/
def takeTable (s : State) (v : Nat) : State :=
  match voteTable s v with
  | (none, s) => s
  | (some t, s) => s.modVault v fun x => { x with
      map := t.map &&& x.map, cap := if t.map &&& x.map = t.map then t.cap else (liveBanks (t.map &&& x.map)).length, gen := t.gen % 256 }

/-- Boot step 3 (R447). -/
def bootFields (r : BootReport) (s : State) : State :=
  let s := s.modTime fun t => { t with slot := (s.now + t.shift) / Config.slotTime }
  let s := { s with refills := s.timeNs / 100, steps := s.timeNs / 200 }
  let s := r.lasers.foldl (fun s x => s.modLink fun l => { l with laser := mput l.laser x.1 (laserWords x.2) }) s
  let s := r.deadLanes.foldl bootLane s
  let s := (List.range Config.clusterCount).foldl (bootVault r) s
  let s := bootFence Config.clusterCount s
  let s := ((List.range Config.clusterCount).filter fun v => !(s.vault v).fenced).foldl takeTable s
  bootMaster r (r.aliveFields.foldl (bootField r) s)

/-- The 1,024 bytes of GOODCORE_MAP (R384, R398). -/
def coreMapBytes (cores : List Nat) : List Byte := natBytes 1024 (cores.foldl (fun n c => n + 2 ^ c) 0)

/-- Boot step 4 (R384, R447). -/
def bootCores (r : BootReport) (s : State) : State :=
  let cores := (List.range Config.coreCount).filter (bootCoreOk r s.life.worn)
  s.modLaunch fun u => { u with cores := cores, goodHash := sha3 (coreMapBytes cores) }

/-- A measurement is extended into ATT_MEAS (R449). -/
def extendMeas (s : State) (m : BitVec 384) : State :=
  s.modBoot fun b => { b with meas := sha3 (natBytes 48 b.meas.toNat ++ natBytes 48 m.toNat) }

/-- Bytes of an ML-DSA-65 signature and of a public key (R448). -/
def signatureBytes : Nat := 3309
def keyBytes : Nat := 1952

/-- A segment descriptor (R448). -/
structure Segment where
  kind   : Nat
  size   : Nat
  va     : Nat
  off    : Nat
  sigOff : Nat
  hash   : BitVec 384
  signer : Nat
  raw    : List Byte

/-- Reads a descriptor of a container of a total size; none where a reserved part is not zero, the kind is 3, the address is
not aligned, a key has another size than R448 gives, or the data or the signature ends beyond the container (R448, R449;
log 43). -/
def segment? (b : List Byte) (total : Nat) : Option Segment :=
  let g : Segment := ⟨fieldAt b 0 4 % 4, fieldAt b 4 4, fieldAt b 8 8, fieldAt b 16 8, fieldAt b 24 8,
    BitVec.ofNat 384 (fieldAt b 32 48), fieldAt b 80 4, b⟩
  if g.kind = 3 ∨ 64 ≤ fieldAt b 0 4 ∨ fieldAt b 84 44 ≠ 0 ∨ g.va % pageBytes ≠ 0 ∨ (g.kind = 2 ∧ (g.va ≠ 0 ∨ g.size ≠ keyBytes))
    ∨ total < g.off + g.size ∨ total < g.sigOff + signatureBytes
  then none else some g

/-- Bytes of a field's boot SRAM (R447). -/
def sramBytes : Nat := 262144

/-- Does a signature hold for a descriptor under a key (R448; log 19); bytes that are all zero are no signature (R70). -/
def signatureHolds (key raw sig : List Byte) : Bool := sig.any (· != 0) && Config.mlDsaVerify key (raw.take 84) sig

/-- The first-stage code's descriptor, where the code passes the checks of R449: it fits the boot SRAM, its measurement is
the descriptor's, and it is signed under the vendor root key, whose hash is the fused one (R447, R449; log 19). -/
def codePasses (r : BootReport) : Option Segment :=
  match segment? r.codeDesc (2 ^ 64) with
  | none => none
  | some g =>
    if g.kind = 0 ∧ g.signer = 0 ∧ g.size = r.code.length ∧ r.code.length ≤ sramBytes ∧ sha3 r.code = g.hash
        ∧ sha3 r.rootKey = r.rootHash ∧ signatureHolds r.rootKey g.raw r.codeSig = true
    then some g else none

/-- Boot step 5, where the code passes its checks (R447): every living field's boot SRAM takes it, and its measurement is
extended. -/
def bootCode (r : BootReport) (s : State) : State :=
  match codePasses r with
  | none => s
  | some g => (extendMeas s g.hash).modBoot fun b => { b with rootKey := r.rootKey, sram := r.aliveFields.map fun f => (f, r.code) }

/-- The boot step that fails, 0 where none does: what the environment reports, or the check of the first-stage code
(R447). -/
def bootFails (r : BootReport) : Nat :=
  if 1 ≤ r.failStep ∧ r.failStep ≤ 5 then r.failStep
  else if (codePasses r).isNone then 5
  else if r.failStep = 6 then 6 else 0

/-- The counters of the last lifetime record go on (R418). -/
def bootLife (s : State) : State :=
  let l := { s.life with bootCount := s.life.bootCount + 1, last := s.timeNs }
  { s with life := match s.life.flash.getLast? with
      | none => l
      | some r => { l with seq := r.seq, hours := r.hours, image := r.bytes.filter fun x => decide (4096 ≤ x.1) } }

/-- Boot steps 1 to n (R447). -/
def bootSteps (r : BootReport) (s : State) (n : Nat) : State :=
  let s := bootLife s
  let s := if 2 ≤ n then s.modPage fun p => { p with moduleId := r.moduleId % 1024 } else s
  let s := if 3 ≤ n then bootFields r s else s
  let s := if 4 ≤ n then bootCores r s else s
  let s := if 5 ≤ n then bootCode r s else s
  if 6 ≤ n then (s.modLink fun l => { l with linkUp := [0, 1] }).modPort (hostPort 0) (fun _ => linkPort) |>.modPort (hostPort 1) fun _ => linkPort
  else s

/-- POWER_GOOD (R447): the six steps, or those before the one that fails. -/
def execPowerGood (report : BootReport) (s : State) : Out :=
  let bad := bootFails report
  let s1 := bootSteps report s (if bad = 0 then 6 else bad - 1)
  whenCan (s.boot.step == 0) (s1.modBoot fun b => { b with step := if bad = 0 then 6 else bad, err := bad }) s

/-- POWER_LOSS (R445): all state of the module goes; the carrier's flash stays, with the cores that the next boot harvests
(R22). The numbers of free values and of keys drawn go on, as does the environment's agenda. -/
def execPowerLoss (s : State) : Out :=
  .next { State.reset with
    agenda := s.agenda, free := s.free, nextNum := s.nextNum, hdBoot := s.hdBoot + 1
    life := { LifeUnit.reset with flash := s.life.flash, bootCount := s.life.bootCount, worn := s.life.worn } }

/-! The loader (R448, R449). -/

/-- Is a container's header well formed: its total size holds at least the header and the descriptors (R448). -/
def headerOk (b : List Byte) : Bool :=
  fieldAt b 0 4 == 0x3143424A && decide (1 ≤ fieldAt b 4 4) && decide (fieldAt b 4 4 ≤ 255) && fieldAt b 16 48 == 0
    && decide (64 + 128 * fieldAt b 4 4 ≤ fieldAt b 8 8)

/-- Bytes of the container, which must lie in the module's own vault region; none while they are to come. -/
def containerBytes (s : State) (j : LoadJob) (o n : Nat) : Option (Except (Cause × Nat) (List Byte)) × State :=
  let a := j.addr + o
  if a / 2 ^ 48 ≠ s.page.moduleId ∨ !inVault (a % 2 ^ 48) then (some (.error (.perm, 0)), s)
  else askRead s .loader 256 0 a n (n / 128 + 2)

/-- The table root of LOAD_ASID: that of the first launch queue bound to it; else a free value (log 30). -/
def loadRoot (s : State) (asid : Nat) : Nat :=
  match s.launch.queues.find? fun x => x.2.asid == asid with
  | some (_, q) => q.ptb
  | none => Config.freeNat s.free % 2 ^ 40 * 256

/-- The loader stops: LOAD_STAT and message 12 (R449). -/
def loaderEnd (s : State) (stat : Nat) : State :=
  notify (s.modBoot fun b => { b with loadBusy := none, loadStat := stat }) 12 0 stat

/-- FAIL(i, n) (R449, R451). -/
def loaderFail (s : State) (i n : Nat) : State := loaderEnd s (2 * 2 ^ 16 + n * 2 ^ 8 + i)

/-- What the walk of a load range finds: the frames, or the reason of a failure (R449), 4 too for a table entry that cannot be
read (DESIGN CHOICE, log 91); none while an entry is to come. -/
def loadFrames (s : State) (j : LoadJob) (va : Nat) : Nat → Option (Except Nat (List Nat)) × State
  | 0 => (some (.ok []), s)
  | n + 1 =>
    let f := walkFrom s .loader j.asid va j.root [] 4
    match f.1 with
    | .busy => (none, f.2.2)
    | .absent _ _ => (some (.error 3), f.2.2)
    | .malformed | .error _ => (some (.error 4), f.2.2)
    | .page t =>
      let pa := t.pa va
      if pa / 2 ^ 48 ≠ s.page.moduleId ∨ !inVault (pa % 2 ^ 48) then (some (.error 4), f.2.2)
      else if s.boot.frames.contains (pa % 2 ^ 48 / pageBytes) then (some (.error 5), f.2.2)
      else
        let r := loadFrames f.2.2 j (va + pageBytes) n
        match r.1 with
        | some (.ok l) => (some (.ok (pa % 2 ^ 48 / pageBytes :: l)), r.2)
        | x => (x, r.2)

/-- A segment's data by frame, with zeros to the end of its last page (R449). -/
def pagesOf (data : List Byte) : List Nat → List (Nat × List Byte)
  | [] => []
  | f :: r =>
    let page := data.take pageBytes
    (f, page ++ List.replicate (pageBytes - page.length) 0) :: pagesOf (data.drop pageBytes) r

/-- Does a segment's signature hold: under the vendor's root key, or an earlier key segment's (R448; log 19). -/
def signedBy (root : List Byte) (keys : List (Nat × List Byte)) (g : Segment) (sig : List Byte) : Bool :=
  let key := if g.signer = 0 then some root else (keys.find? fun x => x.1 + 1 == g.signer).map (·.2)
  match key with
  | some k => signatureHolds k g.raw sig
  | none => false

/-- Stores the loader's progress; the answers to what it asked so far are not needed again. -/
def loadGoes (s : State) (j : LoadJob) : State := (forget s .loader).modBoot fun b => { b with loadBusy := some j }

/-- A segment is done: the next one is (R449). -/
def LoadJob.next (j : LoadJob) : LoadJob :=
  { j with descs := j.descs.map (·.drop 128), seg := j.seg + 1, pages := none, marks := [] }

/-- A segment's checks in their order (R449): what they read, or the reason of the failure. A segment that has passed is
extended into ATT_MEAS and its pages are written next. DESIGN CHOICE (log 91): data that cannot be read has reason 1, a
signature that cannot be read reason 2. -/
def loadSegment (s : State) (j : LoadJob) (d : List Byte) : State :=
  let stop := fun (s : State) (n : Nat) => loaderFail (forget s .loader) j.seg n
  match segment? d j.total with
  | none => stop s 7
  | some g =>
    let data := containerBytes s j g.off g.size
    match data.1 with
    | none => data.2
    | some (.error _) => stop data.2 1
    | some (.ok bytes) =>
      if sha3 bytes ≠ g.hash then stop data.2 1
      else
        let sig := containerBytes data.2 j g.sigOff signatureBytes
        match sig.1 with
        | none => sig.2
        | some (.error _) => stop sig.2 2
        | some (.ok sigBytes) =>
          if !signedBy s.boot.rootKey j.keys g sigBytes then stop sig.2 2
          else
            let frames := loadFrames sig.2 j g.va (if g.kind = 2 then 0 else (g.size + pageBytes - 1) / pageBytes)
            match frames.1 with
            | none => frames.2
            | some (.error n) => stop frames.2 n
            | some (.ok l) =>
              let s := extendMeas frames.2 g.hash
              if g.kind = 2 then loadGoes s { j with keys := j.keys ++ [(j.seg, bytes)] }.next
              else loadGoes s.fresh.2 { j with
                pages := some (pagesOf bytes l), marks := if g.kind = 0 then l else [], id := s.fresh.1 }

/-- The loader goes on as far as its reads and writes have come (R449): the header, each segment's checks, its pages, its
marks. DESIGN CHOICE (log 91): a header or descriptors that cannot be read give reason 7. -/
def runLoader (s : State) (j : LoadJob) : State :=
  match j.pages, j.descs with
  | some ((f, b) :: rest), _ =>
    let w := askWrite s .loader 256 0 (s.page.moduleId * 2 ^ 48 + f * pageBytes) b 129
    (match w.1 with
    | none => w.2
    | some (.error _) => loaderFail (forget w.2 .loader) j.seg 6
    | some (.ok _) => loadGoes w.2 { j with pages := some rest })
  | some [], _ => loadGoes (s.modBoot fun b => { b with
      frames := j.marks.foldl (fun l f => if l.contains f then l else l ++ [f]) b.frames }) j.next
  | none, some d => if d.isEmpty then loaderEnd s (2 ^ 16) else loadSegment s j (d.take 128)
  | none, none =>
    let h := containerBytes s j 0 64
    match h.1 with
    | none => h.2
    | some (.error _) => loaderFail (forget h.2 .loader) 0xFF 7
    | some (.ok b) =>
      if !headerOk b then loaderFail (forget h.2 .loader) 0xFF 7
      else
        let d := containerBytes h.2 j 64 (128 * fieldAt b 4 4)
        match d.1 with
        | none => d.2
        | some (.error _) => loaderFail (forget d.2 .loader) 0xFF 7
        | some (.ok l) => loadGoes d.2 { j with descs := some l, total := fieldAt b 8 8 }

/-- LOADER_GO (R449, R451). DESIGN CHOICE (log 43): a GO while the loader works changes nothing. -/
def execLoaderGo (value : Word) (s : State) : Out :=
  let asid := value.toNat % 256
  whenCan s.boot.loadBusy.isNone
    ({ s with free := s.free + 1 }.modBoot fun b => { b with
      loadAsid := value.toNat % 2 ^ 24, loadStat := 2 ^ 31
      loadBusy := some ⟨b.loadAddr, asid, loadRoot s asid, none, 0, [], none, [], 0, 0⟩ }) s

/-- LOADER_COMPLETE (R449): the loader goes on, to its DONE or FAIL at last. -/
def execLoaderComplete (s : State) : Out :=
  match s.boot.loadBusy with
  | none => .next s
  | some j => .next (runLoader s j)

/-- LOAD_UNMARK (R449, R451): the marks of LOAD_ADDR for so many pages go. -/
def execLoadUnmark (value : Word) (s : State) : Out :=
  let lo := s.boot.loadAddr % 2 ^ 48 / pageBytes
  let n := value.toNat % 2 ^ 24
  whenCan (s.boot.loadAddr / 2 ^ 48 == s.page.moduleId)
    (s.modBoot fun b => { b with frames := b.frames.filter fun f => !(decide (lo ≤ f) && decide (f < lo + n)) }) s

/-! Quotes (R450). -/

/-- An ML-DSA-65 signature with the module's identity key (R418, R450; log 19). -/
def identitySign (m : List Byte) : List Byte := (Config.mlDsaSign 0 m).take 3309

/-- QUOTE_GO (R450, R451). -/
def execQuoteGo (s : State) : Out := .next (s.modBoot fun b => { b with quoteBusy := true })

/-- The 152 bytes of a quote (R450). -/
def quoteBytes (s : State) : List Byte :=
  natBytes 48 s.boot.meas.toNat ++ natBytes 48 s.boot.nonce.toNat ++ natBytes 48 s.launch.goodHash.toNat
    ++ natBytes 4 s.page.moduleId ++ natBytes 4 s.life.bootCount

/-- QUOTE_COMPLETE (R450). -/
def execQuoteComplete (s : State) : Out :=
  let q := quoteBytes s
  whenCan s.boot.quoteBusy
    ({ s with wmem := writeBytes s.wmem s.boot.quoteAddr (q ++ identitySign q) }.modBoot fun b => { b with quoteBusy := false }) s

/-! The lifetime record (R418). -/

/-- An hour in ns. -/
def hourNs : Nat := 3600 * 10 ^ 9

/-- LIFETIME_RECORD (R417, R418): LIFE_PERIOD hours are over, 0 acting as 1, or the control node orders a shutdown. -/
def execLifetimeRecord (shutdown : Bool) (s : State) : Out :=
  whenCan (!s.life.busy && (shutdown || decide (s.life.last + max 1 s.life.period * hourNs ≤ s.timeNs)))
    { s with life := { s.life with busy := true, last := s.timeNs } } s

/-- Power-on hours over the life of the part (R418). -/
def powerHours (s : State) : Nat := s.life.hours + s.now / (hourNs * Config.nano)

/-- The record (R418): its header's four values, which the first 512 bytes give in places that the spec does not state
(log 9); the signature lies at 512. -/
def lifeRecord (s : State) (seq : Nat) : LifeRecord :=
  let m := writeBytes s.life.image 0 ((List.range 512).map
    (Config.lifeHeader seq s.life.bootCount (powerHours s) s.launch.goodHash))
  { seq := seq, boots := s.life.bootCount, hours := powerHours s, hash := s.launch.goodHash
    bytes := writeBytes m 512 (identitySign (readBytes m 0 1048576)) }

/-- Bytes of the carrier's flash from an address: a ring of 64 records of 1 MiB, each at its SEQ's place, and 0 where none has
been written (R418; log 82). -/
def flashBytes (s : State) (a n : Nat) : List Byte := (List.range n).map fun i =>
  match s.life.flash.find? fun r => r.seq % 64 == (a + i) / 2 ^ 20 with
  | some r => (readBytes r.bytes ((a + i) % 2 ^ 20) 1).headD 0
  | none => 0

/-- LIFETIME_RECORD_COMPLETE (R418): the flash keeps the last 64 records. -/
def execLifetimeRecordComplete (written : Bool) (s : State) : Out :=
  let seq := (s.life.seq + 1) % 65536
  let flash := s.life.flash ++ [lifeRecord s seq]
  whenCan s.life.busy
    (if written then
      notify { s with life := { s.life with
        busy := false, seq := seq, flash := flash.drop (flash.length - 64) } } 13 0 seq
    else { s with life := { s.life with busy := false, werr := true } }) s

end Sys2Proof.Machine
end

