-- ==== Sys2Proof/Machine/Start.lean ====
section
/-! DEFINITION. The context a workgroup and its threads start with (R194, R242, R343, R359, R383, R402). -/

namespace Sys2Proof.Machine

/-- G at thread start (R194). -/
def rngStart (linear lin : Nat) : Word := rngFix (0x6A09E667 ^^^ BitVec.ofNat 32 (linear * 2048 + lin))

/-- A thread at its start (R343, R383, R402), at a tick and a cycle of its core. -/
def Thread.start (wg linear lin : Nat) (entry : DWord) (now cycle : Nat) : Thread where
  wg := wg
  lin := lin
  g := Vector.replicate 64 0
  p := (Vector.replicate 8 false).set 7 true
  m := Vector.replicate 8 0
  h := Vector.replicate 16 0
  f := Vector.replicate 12 0
  pc := entry
  clause := none
  refetch := false
  immx := none
  meet := none
  held := none
  sstep := 0
  rng := rngStart linear lin
  ta := false
  resume := none
  trapCause := 0
  trapAddr := 0
  trapTid := 0
  retry := 0
  backoff := none
  deferred := []
  run := .running
  wait := none
  woken := none
  inflight := []
  fence := none
  rdv := none
  yielded := none
  ready := some cycle
  troupe := none
  issued := now
  absents := []

/-- Threads of a workgroup (R379). -/
def Sizes.threads (z : Sizes) : Nat := z.wgX * z.wgY * z.wgZ

/-- A workgroup's context at its first dispatch (R359, R383, R402): the binding, the launch's sizes and
CONTAIN, and the argument words. -/
def Workgroup.start (c : Coords) (z : Sizes) (b : Binding) (contain core : Nat) (slots : List Nat)
    (args : List Word) (startAt : Nat) : Workgroup where
  coords := c
  sizes := z
  phase := .placed
  core := core
  slots := slots
  sregs := Vector.ofFn fun i => args.getD i.val 0
  stale := []
  asid := b.asid
  ptbase := b.ptbase
  hashdom := b.hashdom
  grantLo := b.grantLo
  grantHi := b.grantHi
  lead := b.lead
  mhold := 64
  unichk := false
  trapvec := b.tvec
  trapen := b.trapen
  contain := contain
  super := b.super
  queue := b.queue
  crWrites := []
  refcost := 0
  migr := 0
  mstat := Vector.replicate 6 0
  scratch := []
  slices := []
  genCtr := 0
  jobNums := []
  endCtr := 0
  exited := []
  metGone := []
  killed := false
  fired := none
  phasePub := some 0
  lastTime := 0
  image := none
  startAt := startAt
  begun := false
  dispatch := 0
  unseen := []

end Sys2Proof.Machine
end

