-- ==== Sys2Proof/Machine/DevRegs.lean ====
section
/-! DEFINITION. The device registers: what a 32-bit read of a device address returns and what a write does
(R7, R8, R92 to R94, R118 to R120, R147, R150, R336 to R338, R373, R378, R398, R402, R417, R430, R435, R439,
R444, R451). An address is named by its offset o from 0xFF00_0000_0000. -/

namespace Sys2Proof.Machine

/-- A flag at a bit. -/
def bitAt (b : Bool) (n : Nat) : Nat := if b then 2 ^ n else 0

/-- A signed number of n bits. -/
def intField (x : Int) (n : Nat) : Nat := (x % 2 ^ n).toNat

/-- The next state of an event, for a register write that is one. -/
def outState (o : Out) (s : State) : State :=
  match o with
  | .next t => t
  | .fault _ | .refused _ => s

/-- Word k of a vector of words. -/
def wordOf (v k : Nat) : Nat := bitsNat v (32 * k) 32

/-- Does a W1C bit that is set stay set after a write. -/
def w1c (b : Bool) (v n : Nat) : Bool := b && !v.testBit n

/-! Vaults (R92 to R94). -/

/-- VAULT_TEMP (R93). -/
def vaultTempReg (s : State) (v : Vault) : Nat :=
  v.ovr * 2 ^ 20 + bitAt v.closed 19 + appliedMult s v * 2 ^ 16 + intField v.temp 16

/-- The registers of a vault, and the placement registers (R92). -/
def readVaultReg (s : State) (o : Nat) : Nat :=
  if o = 0x100000 then s.heatCoef
  else if o = 0x100004 then s.vaultFloor
  else if 0x100000 ≤ o then 0
  else
    let v := s.vault (o / 0x1000)
    let r := o % 0x1000
    if r < 0x40 then wordOf v.map.toNat (r / 4)
    else if r < 0x80 then wordOf v.pend.toNat (r / 4 - 16)
    else if r = 0x80 then v.cap
    else if r = 0x84 then vaultTempReg s v
    else if r = 0x88 then v.stat
    else if r = 0x90 then v.remapDone
    else if r = 0x94 then v.agree + 8 * v.rewrote
    else 0

/-- A write to a vault's registers (R92 to R94). -/
def writeVaultReg (s : State) (o : Nat) (v : Word) : State :=
  let n := v.toNat
  if o = 0x100000 then { s with heatCoef := n % 256 }
  else if o = 0x100004 then outState (execVaultFloor v s) s
  else if 0x100000 ≤ o then s
  else
    let k := o / 0x1000
    let r := o % 0x1000
    if r = 0x84 then s.modVault k fun x => { x with ovr := bitsNat n 20 2 }
    else if r = 0x88 then s.modVault k fun x => { x with goRej := w1c x.goRej n 4, pendEvt := w1c x.pendEvt n 3 }
    else if r = 0x8C then outState (execVaultRemapGo k v s) s
    else s

/-! Translation and page requests (R118 to R120). -/

/-- The translation register window (R118 to R120). -/
def readPageReg (s : State) (r : Nat) : Nat :=
  let u := s.page
  if r = 0x00 then u.moduleId
  else if r = 0x04 then u.prqBase
  else if r = 0x08 then bitAt u.en 31 + bitAt u.frameBad 6 + bitAt u.badResp 5 + u.sizeExp
  else if r = 0x0C then u.head
  else if r = 0x10 then u.tail
  else if r = 0x18 then u.frameBase
  else if r = 0x1C then u.frameCount
  else if r = 0x20 then wordOf u.xinvVa 0
  else if r = 0x24 then wordOf u.xinvVa 1
  else if r = 0x28 then bitAt u.xinvRej 14 + bitAt u.xinvDone 13 + bitAt u.xinvBusy 12 + bitAt u.xinvSwp 10
    + u.xinvMode * 2 ^ 8 + u.xinvAsid
  else 0

/-- A write of PRQ_RESP: verdict 0 DONE, 1 DENIED, others set BADRESP (R118). -/
def writePrqResp (s : State) (n : Nat) : State :=
  let id := BitVec.ofNat 16 n
  match bitsNat n 16 2 with
  | 0 => outState (execPrqRespDone id s) s
  | 1 => outState (execPrqRespDenied id s) s
  | _ => s.modPage fun u => { u with badResp := true }

/-- A write to the translation register window (R118 to R120). -/
def writePageReg (s : State) (r : Nat) (v : Word) : State :=
  let n := v.toNat
  if r = 0x04 then s.modPage fun u => { u with prqBase := n / 32 * 32 }
  else if r = 0x08 then s.modPage fun u => { u with
    en := n.testBit 31, frameBad := w1c u.frameBad n 6, badResp := w1c u.badResp n 5, sizeExp := n % 16 }
  else if r = 0x10 then s.modPage fun u => { u with tail := n % 2 ^ 16 }
  else if r = 0x14 then writePrqResp s n
  else if r = 0x18 then s.modPage fun u => { u with frameBase := n / 8 * 8 }
  else if r = 0x1C then s.modPage fun u => { u with frameCount := n % 2 ^ 16 }
  else if r = 0x20 then s.modPage fun u => { u with xinvVa := u.xinvVa / 2 ^ 32 * 2 ^ 32 + n }
  else if r = 0x24 then s.modPage fun u => { u with xinvVa := u.xinvVa % 2 ^ 32 + n % 2 ^ 20 * 2 ^ 32 }
  else if r = 0x28 then outState (execXinvGo v s) s
  else s

/-! Slices and the module's coherence registers (R147, R150). -/

/-- Data entries of a slice in use. -/
def entriesOf (s : State) (slice : Nat) : List (Nat × Entry) := s.entries.filter fun x => x.2.slice == slice

/-- The registers of an L2 slice (R147, R150). -/
def readSliceReg (s : State) (o : Nat) : Nat :=
  let k := o / 0x1000
  let x := s.slice k
  let r := o % 0x1000
  if r = 0x00 then intField (((s.tags.filter fun t => vaultOf t.1 == k).length : Int) - (entriesOf s k).length) 20
  else if r = 0x04 then x.coll
  else if r = 0x08 then x.sat
  else if r = 0x0C then (entriesOf s k).length * 2 ^ 12
  else if r = 0x10 then ((entriesOf s k).filter fun e => decide (0 < e.2.pins)).length
  else if r = 0x18 then x.holds * 2 ^ 16 + min 255 (x.qfull / 2 ^ 16) * 2 ^ 8 + bitAt x.badrec 0
  else 0

/-- A write to the registers of an L2 slice (R147, R150). -/
def writeSliceReg (s : State) (o : Nat) (v : Word) : State :=
  let k := o / 0x1000
  if o % 0x1000 = 0x14 then outState (execDedupClr k v s) s
  else if o % 0x1000 = 0x18 then s.modSlice k fun x => { x with badrec := w1c x.badrec v.toNat 0 }
  else s

/-- The module's coherence registers (R147); the key registers read as zero. -/
def readCohReg (s : State) (r : Nat) : Nat :=
  if r = 0x00 then bitAt s.bwin 0
  else if r = 0x04 then bitAt s.hdSvw 0
  else if r = 0x08 then s.hdSel
  else 0

/-- A write to the module's coherence registers (R147, R148). -/
def writeCohReg (s : State) (r : Nat) (v : Word) : State :=
  if r = 0x00 then { s with bwin := v.getLsbD 0 }
  else if r = 0x04 then { s with hdSvw := v.getLsbD 0 }
  else if r = 0x08 then { s with hdSel := v.toNat % 1024 }
  else if r = 0x10 then { s with hdLatch := s.hdLatch.extractLsb' 32 64 ++ v }
  else if r = 0x14 then { s with hdLatch := s.hdLatch.extractLsb' 64 32 ++ v ++ s.hdLatch.extractLsb' 0 32 }
  else if r = 0x18 then { s with hdLatch := v ++ s.hdLatch.extractLsb' 0 64 }
  else if r = 0x1C then outState (execHdKey3 v s) s
  else s

/-! Throttling (R336 to R338) and the thread registers (R373). -/

/-- The registers of columns, regions and the module (R336 to R338). -/
def readHeatReg (s : State) (o : Nat) : Nat :=
  if o < 0x10000 then
    let c := s.column (o / 0x100)
    let r := o % 0x100
    if r = 0x00 then c.tok else if r = 0x04 then c.rate else if r = 0x08 then c.cap
    else if r = 0x0C then c.bub else 0
  else if o < 0x11000 then
    let p := s.region (o / 0x100 % 16)
    let r := o % 0x100
    if r = 0x00 then p.rise else if r = 0x04 then p.cnt else if r = 0x08 then p.bub
    else if r = 0x0C then p.count * 2 ^ 16 + bitAt (p.until_.any fun t => decide (s.now < t)) 1 + bitAt p.evt 0
    else if r = 0x10 then p.lastLow else 0
  else if o = 0x20000 then s.heatCost.toNat
  else 0

/-- A write to the throttling registers (R336 to R338). -/
def writeHeatReg (s : State) (o : Nat) (v : Word) : State :=
  let n := v.toNat
  if o < 0x10000 then
    if o % 0x100 = 0x04 then s.modColumn (o / 0x100) fun c => { c with rate := n % 2 ^ 16 }
    else if o % 0x100 = 0x08 then s.modColumn (o / 0x100) fun c => { c with cap := n % 2 ^ 17 }
    else s
  else if o < 0x11000 then
    if o % 0x100 = 0x00 then outState (execCurlimStep (o / 0x100 % 16) v s) s
    else if o % 0x100 = 0x0C then s.modRegion (o / 0x100 % 16) fun p => { p with evt := w1c p.evt n 0 }
    else s
  else if o = 0x20000 then { s with heatCost := v }
  else s

/-- The thread registers of a core (R373). -/
def readThreadReg (s : State) (o : Nat) : Nat :=
  let c := (s.core (o / 0x20)).counters
  let r := o % 0x20
  if r = 0x00 then c.divHint else if r = 0x04 then c.meetHolds else if r = 0x08 then c.meetExpire
  else if r = 0x0C then c.ageWins else 0

/-- THR_CLR (R373). -/
def execThrClr (core : Nat) (value : Word) (s : State) : Out :=
  whenCan (value.getLsbD 0) (s.modCore core fun c => { c with
    counters := { c.counters with divHint := 0, meetHolds := 0, meetExpire := 0, ageWins := 0 } }) s

/-! Launch queues and the launch unit (R378, R398, R402), the save pool, the watchdog, the lifetime recorder
and HALT_STAT (R417). -/

/-- The registers of a launch queue (R378, R402). -/
def readQueueReg (s : State) (o : Nat) : Nat :=
  let q := s.lqueue (o / 0x40)
  let r := o % 0x40
  if r = 0x00 then q.base
  else if r = 0x04 then bitAt q.en 31 + bitAt q.dev 30 + q.size
  else if r = 0x08 then q.head
  else if r = 0x0C then q.tail
  else if r = 0x10 then q.dom * 2 ^ 16 + q.asid
  else if r = 0x14 then wordOf q.ptb 0
  else if r = 0x18 then wordOf q.ptb 1
  else if r = 0x1C then q.wgBase
  else if r = 0x20 then q.wgLim
  else if r = 0x24 then bitAt q.deven 14 + q.devq * 2 ^ 8 + q.prioMax * 2 ^ 4 + q.lead
  else if r = 0x28 then wordOf q.tvec 0
  else if r = 0x2C then wordOf q.tvec 1
  else if r = 0x30 then q.trapen
  else if r = 0x34 then bitAt q.super 0
  else 0

/-- A write to the registers of a launch queue (R378, R402). -/
def writeQueueReg (s : State) (o : Nat) (v : Word) : State :=
  let n := v.toNat
  let r := o % 0x40
  s.modLqueue (o / 0x40) fun q =>
    if r = 0x00 then { q with base := n / 256 * 256 }
    else if r = 0x04 then { q with en := n.testBit 31, dev := n.testBit 30, size := n % 16 }
    else if r = 0x0C then (if q.dev then q else { q with tail := n % 2 ^ 16 })
    else if r = 0x10 then { q with dom := bitsNat n 16 10, asid := n % 256 }
    else if r = 0x14 then { q with ptb := q.ptb / 2 ^ 32 * 2 ^ 32 + n / 256 * 256 }
    else if r = 0x18 then { q with ptb := q.ptb % 2 ^ 32 + n % 2 ^ 16 * 2 ^ 32 }
    else if r = 0x1C then { q with wgBase := n / 256 * 256 }
    else if r = 0x20 then { q with wgLim := n / 256 * 256 }
    else if r = 0x24 then { q with
      deven := n.testBit 14, devq := bitsNat n 8 6, prioMax := bitsNat n 4 4, lead := n % 8 }
    else if r = 0x28 then { q with tvec := q.tvec / 2 ^ 32 * 2 ^ 32 + n / 4 * 4 }
    else if r = 0x2C then { q with tvec := q.tvec % 2 ^ 32 + n % 2 ^ 20 * 2 ^ 32 }
    else if r = 0x30 then { q with trapen := bitsNat n 1 14 * 2 }
    else if r = 0x34 then { q with super := n.testBit 0 }
    else q

/-- Launches accepted and not yet ended. -/
def activeLaunches (s : State) : Nat := s.launch.launches.length

/-- The launch unit's registers (R398). -/
def readLaunchReg (s : State) (r : Nat) : Nat :=
  let u := s.launch
  if r = 0x00 then u.cores.length
  else if r = 0x04 then u.age
  else if r = 0x08 then activeLaunches s * 2 ^ 16 + bitAt u.qfull 1 + bitAt u.crfault 0
  else if r = 0x0C then u.refuse
  else if r = 0x10 then u.preempt
  else if 0x100 ≤ r ∧ r < 0x500 then
    (u.cores.filter fun c => c / 32 == (r - 0x100) / 4).foldl (fun n c => n + 2 ^ (c % 32)) 0
  else if 0x500 ≤ r ∧ r < 0x530 then wordOf u.goodHash.toNat ((r - 0x500) / 4)
  else 0

/-- A write to the launch unit's registers (R398). -/
def writeLaunchReg (s : State) (r : Nat) (v : Word) : State :=
  if r = 0x04 then s.modLaunch fun u => { u with age := v.toNat % 2 ^ 16 }
  else if r = 0x08 then s.modLaunch fun u => { u with
    qfull := w1c u.qfull v.toNat 1, crfault := w1c u.crfault v.toNat 0 }
  else s

/-- A size rounded up to 256 bytes (R27). -/
def round256 (n : Nat) : Nat := (n + 255) / 256 * 256

/-- Core scratchpad that a workgroup occupies (R27). -/
def Sizes.footprint (z : Sizes) : Nat := round256 z.scratch + round256 (z.threads * z.slice)

/-- Bytes of a workgroup's image, the engine held or not (R415). -/
def imageSize (z : Sizes) (engine : Bool) : Nat :=
  8192 + z.footprint + z.threads * (4 * z.regs + 256) + (if engine then 266240 else 0)

/-- Bytes held by saved images (R414, R415, R417). -/
def savedBytes (s : State) : Nat :=
  (s.wgs.map fun x => match x.2.image with
    | some i => imageSize x.2.sizes i.engine.isSome
    | none => 0).sum

/-- The save pool, watchdog and lifetime registers (R417). -/
def readCtxReg (s : State) (r : Nat) : Nat :=
  let u := s.launch
  if r = 0x00 then wordOf u.ctxBase 0
  else if r = 0x04 then wordOf u.ctxBase 1
  else if r = 0x08 then u.ctxSize
  else if r = 0x0C then (savedBytes s + (2 ^ 20 - 1)) / 2 ^ 20
  else if r = 0x10 then u.wdog
  else if r = 0x14 then s.life.period
  else if r = 0x18 then s.life.seq * 2 ^ 16 + bitAt s.life.werr 1 + bitAt s.life.busy 0
  else 0

/-- A write to the save pool, watchdog and lifetime registers (R417). -/
def writeCtxReg (s : State) (r : Nat) (v : Word) : State :=
  let n := v.toNat
  if r = 0x00 then s.modLaunch fun u => { u with ctxBase := u.ctxBase / 2 ^ 32 * 2 ^ 32 + n / 2 ^ 20 * 2 ^ 20 }
  else if r = 0x04 then s.modLaunch fun u => { u with ctxBase := u.ctxBase % 2 ^ 32 + n % 2 ^ 26 * 2 ^ 32 }
  else if r = 0x08 then s.modLaunch fun u => { u with ctxSize := n % 2 ^ 16 }
  else if r = 0x10 then s.modLaunch fun u => { u with wdog := n }
  else if r = 0x14 then { s with life := { s.life with period := n % 2 ^ 16 } }
  else if r = 0x18 then { s with life := { s.life with werr := w1c s.life.werr n 1 } }
  else s

/-- HALT_STAT of a core (R417). -/
def haltStat (c : Core) : Nat := bitAt c.haltValid 31 + c.haltSlot

/-! Fields, the Ringmaster, rings, lasers, ports, routes, the module and boot (R430, R435, R439, R444, R451). -/

/-- The registers of a field (R430). -/
def readFieldReg (s : State) (o : Nat) : Nat :=
  let f := s.field (o / 0x100)
  let b := fun (i : Nat) => f.bands.getD i 0 % 4
  let r := o % 0x100
  if r = 0x00 then intField f.ofs 32
  else if r = 0x04 then f.xlatGen * 2 ^ 8 + b 3 * 2 ^ 6 + b 2 * 2 ^ 4 + b 1 * 2 ^ 2 + b 0
  else if r = 0x08 then f.clkStat
  else 0

/-- A write to the registers of a field (R430); a field that boot has not found alive keeps none. -/
def writeFieldReg (s : State) (o : Nat) (v : Word) : State :=
  if o % 0x100 = 0x08 ∧ alive s (o / 0x100) then s.modField (o / 0x100) fun f => { f with swEvt := w1c f.swEvt v.toNat 8 } else s

/-- The Ringmaster registers (R451). DESIGN CHOICE (log 45): RM_STAT.STALL is 1 while any field is in STALL. -/
def readMasterReg (s : State) (r : Nat) : Nat :=
  let t := s.time
  if r = 0x00 then t.epoch * 2 ^ 16 + bitAt (t.fields.any fun f => f.2.st == .stall) 9
    + bitAt (t.fields.any fun f => f.2.st == .frozen) 8 + t.master.getD 0 % 64
  else if r = 0x04 then t.rmRank
  else if r = 0x0C then t.drift
  else if r = 0x10 then t.ptpCtl
  else if r = 0x14 then intField t.ptpOfs 32
  else 0

/-- A write to the Ringmaster registers (R451); setting PTP_CTL.EN starts a new lock (R426). -/
def writeMasterReg (s : State) (r : Nat) (v : Word) : State :=
  let n := v.toNat
  if r = 0x04 then s.modTime fun t => { t with rmRank := n % 2 ^ 30 }
  else if r = 0x08 then outState (execRmForce v s) s
  else if r = 0x0C then s.modTime fun t => { t with drift := n % 2 ^ 16 }
  else if r = 0x10 then s.modTime fun t => { t with
    ptpCtl := bitAt (n.testBit 31) 31 + n % 2 ^ 16, ptpLocked := t.ptpLocked && (t.ptpCtl.testBit 31 || !n.testBit 31) }
  else s

/-- Code of a ring's state (R435). -/
def RingState.code : RingState → Nat
  | .off => 0
  | .sweep => 1
  | .acq => 2
  | .lock => 3
  | .lost => 4
  | .masked => 5

/-- The ring registers (R435). -/
def readRingReg (s : State) (r : Nat) : Nat :=
  let x := s.ring s.link.ringSel
  if r = 0x00 then s.link.ringSel
  else if r = 0x04 then x.heater * 2 ^ 16 + x.st.code * 2 ^ 4 + bitAt x.high 2 + bitAt x.low 1 + bitAt (x.st == .lock) 0
  else if r = 0x0C then s.link.ringLoss * 2 ^ 16 + bitAt s.link.xrej 1 + bitAt s.link.lossEvt 0
  else if 0x20 ≤ r ∧ r < 0x40 then (mget s.time.replays ((r - 0x20) / 4)).getD 0
  else if 0x1000 ≤ r ∧ r < 0x1000 + 4 * 1164 then laneChannel s ((r - 0x1000) / 4)
  else 0

/-- A write of RING_CMD (R432, R435). -/
def writeRingCmd (s : State) (n : Nat) : State :=
  match n % 4 with
  | 1 => outState (execRingRetune s) s
  | 2 => outState (execRingMask s) s
  | 3 => outState (execRingUnmask s) s
  | _ => s

/-- The bits of RING_SEL that its kind has (R435). -/
def ringSelMask (v : Word) : Word :=
  if !v.getLsbD 27 then 0x0FFFFFF0 else if v.getLsbD 28 then 0x1C03F000 else 0x0C7FF000

/-- A write to the ring registers (R431, R435). -/
def writeRingReg (s : State) (r : Nat) (v : Word) : State :=
  if r = 0x00 then s.modLink fun l => { l with ringSel := (v &&& ringSelMask v).toNat }
  else if r = 0x08 then writeRingCmd s v.toNat
  else if r = 0x0C then s.modLink fun l => { l with xrej := w1c l.xrej v.toNat 1, lossEvt := w1c l.lossEvt v.toNat 0 }
  else if 0x1000 ≤ r ∧ r < 0x1000 + 4 * 1164 then outState (execXbar ((r - 0x1000) / 4) v s) s
  else s

/-- LASER_AGE (R435). -/
def readLaserReg (s : State) (o : Nat) : Nat :=
  match mget s.link.laser (o / 16) with
  | none => 0
  | some (a, b, c, d) =>
    if o % 16 = 0 then a.toNat else if o % 16 = 4 then b.toNat else if o % 16 = 8 then c.toNat else d.toNat

/-- The registers of a port (R439). -/
def readPortReg (s : State) (o : Nat) : Nat :=
  let p := s.port (o / 0x100)
  let r := o % 0x100
  if r = 0x00 then p.ctl.toNat
  else if r = 0x04 then bitAt p.up 31 + p.lanes.length * 2 ^ 24 + p.lanes.foldl (fun n l => n + 2 ^ l) 0
  else if r = 0x08 then p.fecc
  else if r = 0x0C then p.fecu
  else if r = 0x10 then p.rply
  else if r = 0x14 then p.evt
  else 0

/-- A write to the registers of a port (R439). -/
def writePortReg (s : State) (o : Nat) (v : Word) : State :=
  if o % 0x100 = 0x00 then writePortCtl s (o / 0x100) v
  else if o % 0x100 = 0x14 then
    s.modPort (o / 0x100) fun p => { p with evt := p.evt - (p.evt &&& (v.toNat % 8)) }
  else s

/-- A write of half of a ROUTE entry (R439). -/
def writeRoute (s : State) (o n : Nat) : State :=
  let old := route s (o / 8)
  s.modLink fun l => { l with
    route := mput l.route (o / 8) (if o % 8 = 0 then old / 2 ^ 32 * 2 ^ 32 + n else old % 2 ^ 32 + n * 2 ^ 32) }

/-- The module registers (R444). -/
def readModReg (s : State) (r : Nat) : Nat :=
  if r = 0x00 then s.link.mode
  else if r = 0x04 then s.link.fabTmo
  else if r = 0x08 then bitAt s.link.nlost 31 + bitAt (s.link.linkUp.contains 1) 1 + bitAt (s.link.linkUp.contains 0) 0
  else 0

/-- A lost ring sweeps once the hardware retunes (R432). -/
def Ring.retuned (x : Ring) : Ring := if x.st = .lost then { x with st := .sweep } else x

/-- A write to the module registers (R432, R442, R444). -/
def writeModReg (s : State) (r : Nat) (v : Word) : State :=
  s.modLink fun l =>
    if r = 0x00 then { l with
      mode := v.toNat % 128, rings := if v.getLsbD 2 then l.rings else l.rings.map fun x => (x.1, x.2.retuned) }
    else if r = 0x04 then { l with fabTmo := v.toNat % 2 ^ 20 }
    else if r = 0x08 then { l with nlost := w1c l.nlost v.toNat 31 }
    else l

/-- The boot and loader registers (R451). -/
def readBootReg (s : State) (r : Nat) : Nat :=
  let b := s.boot
  if r = 0x00 then b.err * 2 ^ 4 + b.step
  else if r = 0x04 then wordOf b.loadAddr 0
  else if r = 0x08 then wordOf b.loadAddr 1
  else if r = 0x0C then b.loadAsid
  else if r = 0x10 then b.loadStat
  else if 0x40 ≤ r ∧ r < 0x70 then wordOf b.meas.toNat ((r - 0x40) / 4)
  else if 0x80 ≤ r ∧ r < 0xB0 then wordOf b.nonce.toNat ((r - 0x80) / 4)
  else if r = 0xC0 then b.quoteAddr
  else if r = 0xC4 then bitAt b.quoteBusy 0
  else 0

/-- A write of LOAD_CTL (R449, R451): UNMARK first where both bits are written (log 31). DESIGN CHOICE (log 70): the low
24 bits, for which the spec names no access, are stored and read back. -/
def writeLoadCtl (s : State) (v : Word) : State :=
  let s := s.modBoot fun b => { b with loadAsid := v.toNat % 2 ^ 24 }
  let s := if v.getLsbD 30 then outState (execLoadUnmark v s) s else s
  if v.getLsbD 31 then outState (execLoaderGo v s) s else s

/-- A write to the boot and loader registers (R450, R451). -/
def writeBootReg (s : State) (r : Nat) (v : Word) : State :=
  let n := v.toNat
  if r = 0x04 then s.modBoot fun b => { b with loadAddr := b.loadAddr / 2 ^ 32 * 2 ^ 32 + n }
  else if r = 0x08 then s.modBoot fun b => { b with loadAddr := b.loadAddr % 2 ^ 32 + n % 2 ^ 26 * 2 ^ 32 }
  else if r = 0x0C then writeLoadCtl s v
  else if 0x80 ≤ r ∧ r < 0xB0 then
    let k := (r - 0x80) / 4
    s.modBoot fun b => { b with
      nonce := BitVec.ofNat 384 (b.nonce.toNat - wordOf b.nonce.toNat k * 2 ^ (32 * k) + n * 2 ^ (32 * k)) }
  else if r = 0xC0 then s.modBoot fun b => { b with quoteAddr := n / 16 * 16 }
  else if r = 0xC4 then (if v.getLsbD 31 then outState (execQuoteGo s) s else s)
  else s

/-! The windows. -/

/-- A 32-bit read of the device region, at offset o; an address without a register reads as zero (R98). -/
def devRead (s : State) (o : Nat) : Word :=
  BitVec.ofNat 32 (
    if o < 0x200000 then readVaultReg s o
    else if o < 0x201000 then readPageReg s (o - 0x200000)
    else if 0x300000 ≤ o ∧ o < 0x400000 then readSliceReg s (o - 0x300000)
    else if 0x400000 ≤ o ∧ o < 0x401000 then readCohReg s (o - 0x400000)
    else if 0x500000 ≤ o ∧ o < 0x521000 then readHeatReg s (o - 0x500000)
    else if 0x600000 ≤ o ∧ o < 0x640000 then readThreadReg s (o - 0x600000)
    else if 0x700000 ≤ o ∧ o < 0x701000 then readQueueReg s (o - 0x700000)
    else if 0x710000 ≤ o ∧ o < 0x711000 then readLaunchReg s (o - 0x710000)
    else if 0x720000 ≤ o ∧ o < 0x721000 then readCtxReg s (o - 0x720000)
    else if 0x730000 ≤ o ∧ o < 0x750000 ∧ o % 16 = 0 then haltStat (s.core ((o - 0x730000) / 16))
    else if 0x800000 ≤ o ∧ o < 0x804000 then readFieldReg s (o - 0x800000)
    else if 0x810000 ≤ o ∧ o < 0x811000 then readMasterReg s (o - 0x810000)
    else if 0x820000 ≤ o ∧ o < 0x830000 then readRingReg s (o - 0x820000)
    else if 0x830000 ≤ o ∧ o < 0x840000 then readLaserReg s (o - 0x830000)
    else if 0x840000 ≤ o ∧ o < 0x844000 then readPortReg s (o - 0x840000)
    else if 0x850000 ≤ o ∧ o < 0x852000 then wordOf (route s ((o - 0x850000) / 8)) (o % 8 / 4)
    else if 0x860000 ≤ o ∧ o < 0x861000 then readModReg s (o - 0x860000)
    else if 0x870000 ≤ o ∧ o < 0x871000 then readBootReg s (o - 0x870000)
    else 0)

/-- A 32-bit write to the device region, at offset o; an address without a register discards it (R98). -/
def devWrite (s : State) (o : Nat) (v : Word) : State :=
  if o < 0x200000 then writeVaultReg s o v
  else if o < 0x201000 then writePageReg s (o - 0x200000) v
  else if 0x300000 ≤ o ∧ o < 0x400000 then writeSliceReg s (o - 0x300000) v
  else if 0x400000 ≤ o ∧ o < 0x401000 then writeCohReg s (o - 0x400000) v
  else if 0x500000 ≤ o ∧ o < 0x521000 then writeHeatReg s (o - 0x500000) v
  else if 0x600000 ≤ o ∧ o < 0x640000 then
    (if o % 0x20 = 0x10 then outState (execThrClr ((o - 0x600000) / 0x20) v s) s else s)
  else if 0x700000 ≤ o ∧ o < 0x701000 then writeQueueReg s (o - 0x700000) v
  else if 0x710000 ≤ o ∧ o < 0x711000 then writeLaunchReg s (o - 0x710000) v
  else if 0x720000 ≤ o ∧ o < 0x721000 then writeCtxReg s (o - 0x720000) v
  else if 0x730000 ≤ o ∧ o < 0x750000 ∧ o % 16 = 0 then
    s.modCore ((o - 0x730000) / 16) fun c => { c with haltValid := w1c c.haltValid v.toNat 31 }
  else if 0x800000 ≤ o ∧ o < 0x804000 then writeFieldReg s (o - 0x800000) v
  else if 0x810000 ≤ o ∧ o < 0x811000 then writeMasterReg s (o - 0x810000) v
  else if 0x820000 ≤ o ∧ o < 0x830000 then writeRingReg s (o - 0x820000) v
  else if 0x840000 ≤ o ∧ o < 0x844000 then writePortReg s (o - 0x840000) v
  else if 0x850000 ≤ o ∧ o < 0x852000 then writeRoute s (o - 0x850000) v.toNat
  else if 0x860000 ≤ o ∧ o < 0x861000 then writeModReg s (o - 0x860000) v
  else if 0x870000 ≤ o ∧ o < 0x871000 then writeBootReg s (o - 0x870000) v
  else s

/-- Offset of the device region in a module's addresses (R97). -/
def deviceBase : Nat := 0xFF0000000000

/-- REGISTER_WRITE (R7): a write to the register at an address of the device region. -/
def execRegisterWrite (addr : Nat) (value : Word) (s : State) : Out :=
  whenCan (decide (deviceBase ≤ addr % 2 ^ 48)) (devWrite s (addr % 2 ^ 48 - deviceBase) value) s

end Sys2Proof.Machine
end

