-- ==== Sys2Proof/Machine/Mem.lean ====
section
/-! DEFINITION. Loads, stores and atomics (R209 to R230), the order that fences and ordered accesses keep
(R160 to R166, R231, R232), prefetches (R234, R235) and CCTL (R236 to R238). -/

namespace Sys2Proof.Machine

/-- Does the clock of a place's bank run: the bank of a stopped field performs no event (R427). -/
def bankRuns (s : State) (l : Local) : Bool :=
  match l with
  | .wafer off => s.clusterRuns (off / 2 ^ 24)
  | .slice _ _ _ | .scratch _ _ => true

/-- Does an access to a local place issued now wait: the turn's accesses are performed in turns of their own, or its bank's
clock is stopped (R160, R427). -/
def localLate (s : State) (l : Local) : Bool := s.late || !bankRuns s l

/-! What a thread has under way. -/

/-- Pending accesses of a thread. -/
def ownAccs (s : State) (k : Nat) : List (Nat × Access) :=
  s.accs.filter fun x => x.2.thread == k && x.2.job.isNone && (match s.thread? k with
    | some t => x.2.wg == t.wg && x.2.lin == t.lin
    | none => true)

/-- Is a job one that reads or writes memory. -/
def JobWork.moves : JobWork → Bool
  | .copy _ _ _ | .reduce _ _ _ _ _ _ | .fill _ _ _ | .boxIn _ _ _ | .boxReduce _ _ _ _ _ | .boxOut _ _ _
  | .collect _ _ _ _ => true
  | .arm _ _ | .page | .service => false

/-- Has the thread a job under way that reads or writes memory. -/
def jobsBusy (s : State) (k : Nat) (t : Thread) : Bool :=
  (s.core (coreOf k)).jobs.any fun x => x.2.wg == t.wg && x.2.lin == t.lin && x.2.work.moves

/-- Has the thread matrix operations whose reads or writes have not taken their place (R172). -/
def matrixBusy (s : State) (k : Nat) : Bool :=
  (s.core (coreOf k)).engine.queue.any fun i => match i.kind with
    | .pass => !i.staged && i.members.any (·.thread == k)
    | .load | .store => i.thread == k
    | .zero => false

/-- Must the access be performed before any later one of its thread (R160 row 2). -/
def Access.acquires (a : Access) : Bool := a.op.returns && (a.ord == .acq || a.ord == .sc)

/-! Scopes (R154, R155, R163). -/

/-- Does a thread of workgroup wg' on core' lie within a scope of another of workgroup wg on core (R154). -/
def scopeHolds (x : Scope) (core wg core' wg' : Nat) : Bool :=
  match x with
  | .thread => false
  | .workgroup => wg == wg'
  | .cluster => clusterOf core == clusterOf core'
  | .module | .pod => true

/-- Scopes from the narrowest. -/
def scopeRank : Scope → Nat
  | .thread => 0
  | .workgroup => 1
  | .cluster => 2
  | .module => 3
  | .pod => 4

/-- The scope of an ordered access to a space (R155). -/
def spaceScope (sp : Space) : Scope :=
  match sp with
  | .slice => .thread
  | .scratch => .workgroup
  | .window => .cluster
  | .wafer => .module
  | .global => .pod

/-- The wider of two scopes. -/
def widerScope (x y : Scope) : Scope := if scopeRank x < scopeRank y then y else x

/-- Must the thread keep still: another one's access is pending that an ordering whose scope holds this thread should
have put before what that one has done since (R163). -/
def guardedOff (s : State) (k : Nat) (t : Thread) : Bool :=
  s.accs.any fun x => (match x.2.guard with
    | some g => scopeHolds g x.2.core x.2.wg (coreOf k) t.wg
    | none => false) && !(x.2.thread == k && x.2.wg == t.wg && x.2.lin == t.lin)

/-- May an ordering of a scope be left to the guard of the accesses that are still pending: no other thread within the
scope has an access, a job or a matrix operation under way (R163; log 26). -/
def mayPass (s : State) (k : Nat) (t : Thread) (x : Scope) : Bool :=
  let within := scopeHolds x (coreOf k) t.wg
  s.accs.all (fun y => y.2.job == some askEntry || !within y.2.core y.2.wg
      || (y.2.thread == k && y.2.wg == t.wg && y.2.lin == t.lin))
    && s.cores.all (fun c => c.2.jobs.all (fun j => !j.2.work.moves || !within c.1 j.2.wg)
      && (match c.2.engine.owner with
        | some w => !within c.1 w || c.2.engine.queue.isEmpty
        | none => true))

/-- Marks pending accesses with a scope. -/
def guardAccs (s : State) (x : Scope) (l : List Nat) : State :=
  { s with accs := s.accs.map fun y => if l.contains y.1 then (y.1, { y.2 with guard := some (match y.2.guard with
      | some g => widerScope g x
      | none => x) }) else y }

/-- The thread goes on although these accesses, which an ordering of a scope puts before what follows, are pending: no
thread within the scope can tell, and one outside it makes the ordering void (R163). None: it waits. -/
def orderAt (s : State) (k : Nat) (t : Thread) (x : Scope) (l : List (Nat × Access)) : Option State :=
  if l.isEmpty then some s
  else match x with
    | .thread => some s
    | .pod => none
    | .workgroup | .cluster | .module => if mayPass s k t x then some (guardAccs s x (l.map (·.1))) else none

/-- The accesses that a fence puts before what follows it: at pod scope those of other modules too (R162, R166, R232). -/
def fenceAccs (s : State) (k : Nat) (f : Scope × FenceKind) : List (Nat × Access) :=
  (ownAccs s k).filter fun x => (f.1 == .pod || !x.2.remote) && (f.2 != .acquire || x.2.op.loads)

/-- Does a fence also wait for the acknowledgement counter (R166, R232). -/
def fenceCounts (f : Scope × FenceKind) : Bool := f.1 == .pod && f.2 != .acquire

/-- A wait on the core's acknowledgement counter (R165, R166), for a reason: a deferred trap that is due there is raised
when the counter is clear. -/
def ackGate (s : State) (k : Nat) (t : Thread) (why : WaitReason) (f : Unit → Effect) : Effect :=
  if (s.core (coreOf k)).acks ≠ 0 then .wait s why
  else match t.deferred.find? fun d => d.due == .counter with
    | some d => .trapAt (dropDeferred s k d) d.trap (resumeDeferred t) d.pc
    | none => f ()

/-- What a fence holds later memory instructions for: the thread's jobs and matrix operations, its accesses by the
fence's scope, and for a pod-scope release the acknowledgement counter (R162, R166, R232). -/
def fenceGate (s : State) (k : Nat) (t : Thread) (x : Scope × FenceKind) (f : State → Effect) : Effect :=
  if jobsBusy s k t || matrixBusy s k then .wait s .fence
  else match orderAt s k t x.1 (fenceAccs s k x) with
    | none => .wait s .fence
    | some s => if fenceCounts x then ackGate s k t .fence fun _ => f s else f s

/-- Goes on in the state that an ordering leaves, or waits. -/
def afterOrder (s : State) (r : Option State) (f : State → Effect) : Effect :=
  match r with
  | some s => f s
  | none => .wait s .order

/-- Rows 2 to 4 of R160 before a memory instruction of an order in a space: rel is a release, an sc store or an ordered
atomic (R155, R163, R166, R172). -/
def orderGate (s : State) (k : Nat) (t : Thread) (o : MOrd) (rel : Bool) (sp : Space) (f : State → Effect) : Effect :=
  let accs := ownAccs s k
  let acq := accs.filter fun x => x.2.acquires && x.2.scope != .thread
  let scs := if o == .sc then accs.filter fun x => x.2.ord == .sc && x.2.scope != .thread else []
  let before := if rel then accs.filter fun x => sp == .global || !x.2.remote else []
  if rel && matrixBusy s k then .wait s .order
  else afterOrder s (orderAt s k t (acq.foldl (fun x a => widerScope x a.2.scope) .thread) acq) fun s =>
    afterOrder s (orderAt s k t (scs.foldl (fun x a => widerScope x a.2.scope) (spaceScope sp)) scs) fun s =>
    afterOrder s (orderAt s k t (spaceScope sp) before) fun s =>
      if sp == .global && (rel || o == .sc) then
        (if accs.any fun x => x.2.remote && x.2.op.returns then .wait s .order else ackGate s k t .acks fun _ => f s)
      else f s

/-- What must have been performed before a memory instruction may act: what an earlier fence holds it for, what its own
order asks, and what threads that it is in the scope of have still to do (R160 to R166, R232). -/
def memGate (s : State) (k : Nat) (t : Thread) (o : MOrd) (rel : Bool) (sp : Space) (f : State → Thread → Effect) : Effect :=
  if guardedOff s k t then .wait s .order
  else
    let main := fun (s : State) => orderGate s k t o rel sp fun s => match t.fence with
      | none => f s t
      | some _ => f (s.setThread k { t with fence := none }) { t with fence := none }
    match t.fence with
    | none => main s
    | some x => fenceGate s k t x main

/-! Local spaces. -/

/-- The place a number of bytes further on. -/
def Local.shift (l : Local) (o : Nat) : Local :=
  match l with
  | .slice w i off => .slice w i (off + o)
  | .scratch w off => .scratch w (off + o)
  | .wafer off => .wafer (off + o)

/-- A memory whose bytes are locations: a private slice, a workgroup's scratchpad, the wafer scratchpad but for the
mirrors of the broadcast window, the window itself, and the vault region of the module (R153). -/
inductive Area where
  | slice (wg lin : Nat)
  | scratch (wg : Nat)
  | wafer
  | window
  | vault
deriving DecidableEq, Repr

/-- The location of the first byte at a place: every mirror of a window byte is that byte (R153). -/
def Local.spot (l : Local) (s : State) : Area × Nat :=
  match l with
  | .slice w i off => (.slice w i, off)
  | .scratch w off => (.scratch w, off)
  | .wafer off => if s.bwin && inMirror off then (.window, off % 2 ^ 22) else (.wafer, off)

/-- The location of the first byte at a translated place; other modules' bytes and the device registers are not listed. -/
def Place.spot : Place → Option (Area × Nat)
  | .vault a => some (.vault, a)
  | .window w => some (.window, w)
  | .device _ | .remote _ => none

/-- The location of an access's first byte. A device access takes no part in the order of the others (R177). -/
def Access.spot (a : Access) (s : State) : Option (Area × Nat) :=
  match a.place with
  | some l => some (l.spot s)
  | none =>
    if a.remote || a.pol == .dev then none
    else if inVault (a.pa % 2 ^ 48) then some (.vault, a.pa % 2 ^ 48) else some (.window, a.pa % 2 ^ 22)

/-- Do n bytes from a location and m bytes from another share one (R153). -/
def spotsMeet (p : Area × Nat) (n : Nat) (q : Area × Nat) (m : Nat) : Bool :=
  p.1 == q.1 && decide (p.2 < q.2 + m) && decide (q.2 < p.2 + n)

/-- Earlier pending accesses of the thread to some of n bytes from a location, newest first. -/
def ownAt (s : State) (k : Nat) (p : Option (Area × Nat)) (n : Nat) : List (Nat × Access) :=
  match p with
  | none => []
  | some p => ((ownAccs s k).filter fun x => (x.2.spot s).any fun q => spotsMeet p n q x.2.size).reverse

/-- What an earlier pending access to the same bytes means for a load (R157, R160 row 1). -/
inductive Ahead where
  | clear
  /-- the thread's own store gives all the bytes -/
  | forward (b : List Byte)
  | stall

/-- Looks for an earlier access to some of n bytes from a location. -/
def ahead (s : State) (k : Nat) (p : Option (Area × Nat)) (n : Nat) : Ahead :=
  match p, ownAt s k p n with
  | some p, (_, a) :: _ =>
    (match a.op, a.spot s with
    | .store b, some q => if q.2 ≤ p.2 ∧ p.2 + n ≤ q.2 + a.size then .forward ((b.drop (p.2 - q.2)).take n) else .stall
    | _, _ => .stall)
  | _, _ => .clear

/-- Must an access to n bytes from a location wait for an earlier one of the thread (R160 row 1). -/
def overlaps (s : State) (k : Nat) (p : Option (Area × Nat)) (n : Nat) : Bool := !(ownAt s k p n).isEmpty

/-- As ahead and overlaps, for bytes in a scratchpad. -/
def aheadLocal (s : State) (k : Nat) (l : Local) (n : Nat) : Ahead := ahead s k (some (l.spot s)) n
def localBusy (s : State) (k : Nat) (l : Local) (n : Nat) : Bool := overlaps s k (some (l.spot s)) n

/-- The parts in which an access is made: whole, or in the 8-byte pieces of R152 where the turn's accesses are performed
later; a CCTL operation on a line is one (R237). -/
def partsOf (s : State) (a : Access) : List (Nat × Nat) :=
  match a.op with
  | .cctl _ => [(0, a.size)]
  | .load _ _ | .store _ | .atom _ _ _ | .red _ _ | .piece _ | .read _ | .write _ _ | .swap _ _ _ | .code _ _ | .update _ _ _ =>
    if s.late && decide (8 < a.size) then (List.range (a.size / 8)).map fun i => (8 * i, 8) else [(0, a.size)]

/-- A list in an order that is a free choice, n of its elements at most (log 9). -/
def State.shuffle {α : Type} [BEq α] (s : State) (l : List α) : Nat → List α × State
  | 0 => ([], s)
  | n + 1 =>
    match s.pick l with
    | none => ([], s)
    | some (x, s) =>
      let r := s.shuffle (l.erase x) n
      (x :: r.1, r.2)

/-- A part of an access. -/
def Access.slice (a : Access) (o n : Nat) : Access :=
  { a with
    pa := a.pa + o
    va := a.va + o
    size := n
    part := o
    place := a.place.map (·.shift o)
    op := match a.op with
      | .store b => .store ((b.drop o).take n)
      | op => op }

/-- Lists the parts of an access as pending, each as f does, in an order that is a free choice (R152). -/
def pendParts (s : State) (a : Access) (f : State → Access → Nat × State) : List Nat × State :=
  let parts := partsOf s a
  let order := s.shuffle parts parts.length
  order.1.foldl (fun r x =>
    let n := f r.2 (a.slice x.1 x.2)
    (r.1 ++ [n.1], n.2)) ([], order.2)

/-- A thread's access to a scratchpad. -/
def localAcc (k : Nat) (t : Thread) (sp : Space) (l : Local) (size : Nat) (o : MOrd) (op : AccessOp) : Access where
  thread := k
  wg := t.wg
  lin := t.lin
  core := coreOf k
  pa := 0
  size := size
  va := 0
  asid := 256
  dom := 0
  pol := .dflt
  ord := o
  op := op
  place := some l
  scope := spaceScope sp
  pc := t.pc
  clause := t.clause

/-- A load whose value is known when it issues. -/
def loadNow (s : State) (k : Nat) (f : Fmt) (d : Reg) (shift : Option Bool) (b : List Byte) : Effect :=
  .next (s.modThread k fun t => t.count
    { flag := t.flagA, result := some (spanWrites d (fmtLoad f b)), shift := shift, nf := shift.isSome, pc := t.pc })

/-- A load that waits for pending accesses. -/
def loadLater (s : State) (k : Nat) (shift : Option Bool) (ids : List Nat) : Effect :=
  .next (s.modThread k fun t => t.count
    { flag := t.flagA, result := none, access := ids, shift := shift, nf := shift.isSome, pc := t.pc })

/-- A load from P, S, C or W: performed at the bank as it issues, or in a turn of its own (R158, R160, R217). -/
def loadLocal (i : Instr) (sp : Space) (o : MOrd) (f : Fmt) (b d : Reg) (p : PReg) (s : State) : Out :=
  perThread i p (fun s k _ => withWg s k fun t w => memGate s k t o false sp fun s t =>
    let base := (t.rdG b).toNat
    match resolveLocal s ⟨t.lin, t.wg, w, supervisor t w⟩ sp base (fmtSize f) false with
    | .error c => .trap s (spaceTrap c sp base false)
    | .ok l =>
      match aheadLocal s k l (fmtSize f) with
      | .stall => .wait s .order
      | .forward b => loadNow s k f d none b
      | .clear =>
        if localLate s l then
          let r := pendParts s (localAcc k t sp l (fmtSize f) o (.load f d)) pend
          loadLater r.2 k none r.1
        else .next (s.setThread k (t.countResult (spanWrites d (fmtLoad f (readLocal s l (fmtSize f))))))) s

/-- The order field of a store or an atomic that makes it a release (R160 row 3). -/
def orderReleases : MOrd → Bool
  | .rel | .sc => true
  | .plain | .acq => false

/-- A store to P, S, C or W: performed at the bank as it issues, or in a turn of its own (R158, R160, R218). -/
def storeLocal (i : Instr) (sp : Space) (o : MOrd) (f : Fmt) (b d : Reg) (p : PReg) (s : State) : Out :=
  perThread i p (fun s k _ => withWg s k fun t w => memGate s k t o (orderReleases o) sp fun s t =>
    let base := (t.rdG b).toNat
    match resolveLocal s ⟨t.lin, t.wg, w, supervisor t w⟩ sp base (fmtSize f) true with
    | .error c => .trap s (spaceTrap c sp base true)
    | .ok l =>
      let data := fmtStore f (t.rdSpan d f.regs)
      if localBusy s k l (fmtSize f) then .wait s .order
      else if localLate s l then .next (pendParts s (localAcc k t sp l (fmtSize f) o (.store data)) pend).2
      else .next (writeLocal s l data)) s

/-- LD_P (R217). -/
def execLdP (o : MOrd) (f : Fmt) (b d : Reg) (p : PReg) (s : State) : Out := loadLocal (.ldP o f b d p) .slice o f b d p s
/-- LD_S (R217). -/
def execLdS (o : MOrd) (f : Fmt) (b d : Reg) (p : PReg) (s : State) : Out := loadLocal (.ldS o f b d p) .scratch o f b d p s
/-- LD_C (R217). -/
def execLdC (o : MOrd) (f : Fmt) (b d : Reg) (p : PReg) (s : State) : Out := loadLocal (.ldC o f b d p) .window o f b d p s
/-- LD_W (R217). -/
def execLdW (o : MOrd) (f : Fmt) (b d : Reg) (p : PReg) (s : State) : Out := loadLocal (.ldW o f b d p) .wafer o f b d p s
/-- ST_P (R218). -/
def execStP (o : MOrd) (f : Fmt) (b d : Reg) (p : PReg) (s : State) : Out := storeLocal (.stP o f b d p) .slice o f b d p s
/-- ST_S (R218). -/
def execStS (o : MOrd) (f : Fmt) (b d : Reg) (p : PReg) (s : State) : Out := storeLocal (.stS o f b d p) .scratch o f b d p s
/-- ST_C (R218). -/
def execStC (o : MOrd) (f : Fmt) (b d : Reg) (p : PReg) (s : State) : Out := storeLocal (.stC o f b d p) .window o f b d p s
/-- ST_W (R218). -/
def execStW (o : MOrd) (f : Fmt) (b d : Reg) (p : PReg) (s : State) : Out := storeLocal (.stW o f b d p) .wafer o f b d p s

/-! The global space. -/

/-- A trap of a global access (R403). -/
def globalTrap (c : Cause) (info va : Nat) (write : Bool) : TrapInfo :=
  { cause := c, info := info, addr := some va, space := some .global, write := write }

/-- What a thread's global access is made with. -/
def ctxOf (k lane : Nat) (t : Thread) (w : Workgroup) : Ctx :=
  ⟨.thread k, some (coreOf k, lane), w.asid, w.ptbase, supervisor t w⟩

/-- A thread's access. -/
def accOf (k : Nat) (t : Thread) (w : Workgroup) (va pa size : Nat) (pol : Pol) (o : MOrd) (op : AccessOp) : Access where
  thread := k
  wg := t.wg
  lin := t.lin
  core := coreOf k
  pa := pa
  size := size
  va := va
  asid := w.asid
  dom := w.hashdom
  pol := pol
  ord := o
  op := op
  pc := t.pc
  clause := t.clause

/-- Must a device access wait for earlier ones of its thread: device accesses, and what a fence or an ordered access has
put before it and left pending (R163, R177). -/
def deviceBusy (s : State) (k : Nat) : Bool := (ownAccs s k).any fun x => x.2.pol == .dev || x.2.guard.isSome

/-- An access to another module is sent, part by part (R133, R165, R167, R438): counted unless it only reads. -/
def sendRemote (s : State) (a : Access) (f : List Nat → State → Effect) : Effect :=
  let n := (partsOf s a).length
  if !routeUp s (a.pa / 2 ^ 48) then .trap s (globalTrap .remoteTimeout 0 a.va (!a.op.reads))
  else if !a.op.reads && decide (65535 < (s.core a.core).acks + n) then .wait s .acks
  else
    let s := if a.op.reads then s else s.modCore a.core fun c => { c with acks := c.acks + n }
    let r := pendParts s a pendRemote
    f r.1 r.2

/-- The error that an access finds in the vault: a fenced vault gives nothing, another what is cached nowhere (R82, R84,
R79). -/
def coldError (s : State) (line : Nat) : Option Nat :=
  if (s.vault (vaultOf line)).fenced then some 2
  else if (s.tag? line).isSome then none else vaultError s line

/-- May the records of an access be queued, one for each part (R125). -/
def recordRoom (s : State) (a : Access) : Bool :=
  queueRoom s (clusterOf a.core) (a.line % 8)
    && decide ((s.queue (queueKey (clusterOf a.core) (a.line % 8))).length + (partsOf s a).length ≤ 64)

/-- Is a vault's line held back from a device access by a remap step, by a request that a step held, or by the stop of the
home's clock (R82, R427). -/
def vaultHolds (s : State) (line : Nat) : Bool :=
  let v := s.vault (vaultOf line)
  v.busy || v.heldNow.any (·.line == line) || !s.clusterRuns (vaultOf line)

/-- A device access to the vault waits at the home for the end of a remap step or of a stop, or, in a turn whose accesses
are performed later, for a turn of its own (R82, R94, R177, R427). -/
def holdDevice (s : State) (a : Access) (kind : RecKind) : Nat × State :=
  let n := pend s a
  (n.1, n.2.modVault (vaultOf a.line) fun x => { x with
    held := if x.busy then satAdd x.held 1 0xFFFF else x.held
    heldNow := x.heldNow ++ [{ recOf kind a.core a.line with access := some n.1 }] })

/-- A load from the module's own vault region, by its pol (R126, R131, R132). -/
def loadVault (s : State) (k : Nat) (a : Access) (f : Fmt) (d : Reg) (shift : Option Bool) : Effect :=
  let line := a.line
  let now := fun (x : Line) => loadNow s k f d shift (lineSlice x (a.pa % 128) a.size)
  let later := fun (r : List Nat × State) => loadLater r.2 k shift r.1
  if a.pol = .dev ∧ (s.late ∨ vaultHolds s line) then later (pendParts s a fun s a => holdDevice s a .bypr)
  else match (if a.pol = .dev then vaultError s line else coldError s line) with
  | some e => .trap s (globalTrap .eccUncorr e a.va false)
  | none =>
    match a.pol with
    | .dev => now (vaultLine s line)
    | .bypass | .stream =>
      if recordRoom s a then later (pendParts s a fun s a => pendRecord s a (recOf .bypr 0 0)) else .wait s .recordQueue
    | .dflt => match l1Try s a.core line a.dom false with
      | .hit l => if s.late then later (pendParts s a pend) else now l.data
      | .stall s => .wait s .recordQueue
      | .miss s => later (pendParts s a pend)

/-- A load at a translated place (R131, R133, R135, R177, R214). -/
def loadAt (s : State) (k : Nat) (a : Access) (f : Fmt) (d : Reg) (shift : Option Bool) (p : Place) : Effect :=
  if a.pol = .dev ∧ deviceBusy s k then .wait s .order
  else match p with
  | .device x =>
    if s.late then
      let n := pend s { a with pol := .dev }
      loadLater n.2 k shift [n.1]
    else loadNow s k f d shift (natBytes 4 (devRead s (x - deviceBase)).toNat)
  | .remote _ => sendRemote s a fun ids s => loadLater s k shift ids
  | .vault _ =>
    (match (if a.pol = .dev then .clear else ahead s k p.spot a.size) with
    | .stall => .wait s .order
    | .forward b => loadNow s k f d shift b
    | .clear => loadVault s k a f d shift)
  | .window w =>
    match ahead s k p.spot a.size with
    | .stall => .wait s .order
    | .forward b => loadNow s k f d shift b
    | .clear =>
      let mirror := mirrorAt (clusterOf a.core) w
      if s.late then
        let r := pendParts s { a with place := some (.wafer mirror) } pend
        loadLater r.2 k shift r.1
      else loadNow s k f d shift (readBytes s.wmem mirror a.size)

/-- Number of the page that an address lies in (R97). -/
def pageOf (va : Nat) : Nat := va / 2 ^ 14

/-- Has an earlier load of the same run of non-faulting loads found this aligned access's page absent (R471; DEDUCED,
log 81). -/
def foundAbsent (t : Thread) (va size : Nat) : Bool := t.absents.contains (pageOf va) && va % size == 0

/-- A non-faulting load whose page is absent: no event, zeros, and 1 shifted into m7 (R221). -/
def absentLoad (s : State) (k va : Nat) (f : Fmt) (d : Reg) : Effect :=
  loadNow (s.modThread k fun t => { t with absents := pageOf va :: t.absents }) k f d (some true) (List.replicate (fmtSize f) 0)

/-- LD_G (R109, R217, R221, R222). -/
def execLdG (o : MOrd) (l : Pol) (f : Fmt) (b d : Reg) (n : Bool) (p : PReg) (s : State) : Out :=
  perThread (.ldG o l f b d n p) p (fun s k lane => withWg s k fun t w => memGate s k t o false .global fun s t =>
    let va := (t.rdPair b).toNat
    if n && foundAbsent t va (fmtSize f) then absentLoad s k va f d
    else
    let r := resolveG s (ctxOf k lane t w) va (fmtSize f) l true false false
    match r.1 with
    | .busy => .wait r.2 .busy
    | .trap c info => .trap r.2 (globalTrap c info va false)
    | .absent _ _ =>
      if n then absentLoad r.2 k va f d
      else .trap r.2 (globalTrap .pageAbsent 0 va false)
    | .at place pa =>
      loadAt r.2 k (accOf k t w va pa (fmtSize f) l o (.load f d)) f d (if n then some false else none) place) s

/-- Performs an atomic or a store on an L1 line that is M or E (R126). -/
def storeL1 (s : State) (a : Access) (l : L1Line) (b : List Byte) : State :=
  s.setL1 a.core a.line { l with st := .m, data := patchLine l.data (a.pa % 128) b }

/-- A write access to the module's own vault region with pol 1 or 2: a BYPW for each part (R131). -/
def writeHome (s : State) (a : Access) : Effect :=
  if recordRoom s a then .next (pendParts s a fun s a => pendRecord s a (recOf .bypw 0 0)).2 else .wait s .recordQueue

/-- A store to the module's own vault region, by its pol (R126, R131, R132, R219). -/
def storeVault (s : State) (a : Access) (b : List Byte) : Effect :=
  let line := a.line
  if a.pol = .dev ∧ (s.late ∨ vaultHolds s line) then .next (pendParts s a fun s a => holdDevice s a .bypw).2
  else match (if a.pol = .dev then vaultError s line else coldError s line) with
  | some e => .trap s (globalTrap .eccUncorr e a.va true)
  | none =>
    match a.pol with
    | .dev => .next (vaultStore s line (patchLine (vaultLine s line) (a.pa % 128) b))
    | .bypass | .stream => writeHome s a
    | .dflt => match l1Try s a.core line a.dom true with
      | .hit l => .next (if s.late then (pendParts s a pend).2 else storeL1 s a l b)
      | .stall s => .wait s .recordQueue
      | .miss s => .next (pendParts s a pend).2

/-- A store to the broadcast window: one window-data transaction, whatever its pol (R135, R219). -/
def storeWindow (s : State) (a : Access) (off : Nat) (b : List Byte) : Effect :=
  if !queueRoom s (clusterOf a.core) (a.line % 8) then .wait s .recordQueue
  else .next (pendRecord s { a with pol := .dflt } { recOf .window 0 0 with bytes := b.zipIdx.map fun x => (off + x.2, x.1) }).2

/-- A store at a translated place (R131, R133, R135, R177, R214, R219). -/
def storeAt (s : State) (k : Nat) (a : Access) (b : List Byte) (p : Place) : Effect :=
  let device := match p with
    | .vault _ => a.pol == .dev
    | .window _ | .device _ | .remote _ => false
  if !device && overlaps s k p.spot a.size then .wait s .order
  else match p with
  | .window w => storeWindow s a w b
  | .device x =>
    if deviceBusy s k then .wait s .order
    else if s.late then .next (pend s { a with pol := .dev }).2
    else .next (devWrite s (x - deviceBase) (BitVec.ofNat 32 (bytesNat b)))
  | .remote _ => if a.pol = .dev ∧ deviceBusy s k then .wait s .order else sendRemote s a fun _ s => .next s
  | .vault _ => if a.pol = .dev ∧ deviceBusy s k then .wait s .order else storeVault s a b

/-- ST_G (R218, R219). -/
def execStG (o : MOrd) (l : Pol) (f : Fmt) (b d : Reg) (p : PReg) (s : State) : Out :=
  perThread (.stG o l f b d p) p (fun s k lane => withWg s k fun t w => memGate s k t o (orderReleases o) .global fun s t =>
    let va := (t.rdPair b).toNat
    let r := resolveG s (ctxOf k lane t w) va (fmtSize f) l false true false
    match r.1 with
    | .busy => .wait r.2 .busy
    | .trap c info => .trap r.2 (globalTrap c info va true)
    | .absent _ _ => .trap r.2 (globalTrap .pageAbsent 0 va true)
    | .at place pa =>
      let data := fmtStore f (t.rdSpan d f.regs)
      storeAt r.2 k (accOf k t w va pa (fmtSize f) l o (.store data)) data place) s

/-! LDB (R223 to R225). -/

/-- LDB (R224). -/
def execLdb (e a d : Reg) (f : Fmt) (p : PReg) (s : State) : Out :=
  perThread (.ldb e a d f p) p (fun s k _ => withWg s k fun t w => memGate s k t .plain false .scratch fun s t =>
    let b := (s.core (coreOf k)).buf e.toNat
    let off := (t.rdG a).toNat
    if b.st = .free ∨ !b.opens t.wg then .trap s { cause := .bufState }
    else if b.st = .filling then .wait s .entry
    else if off % fmtSize f ≠ 0 then .trap s (spaceTrap .align .scratch (b.base + off) false)
    else if b.extent < off + fmtSize f then .trap s (spaceTrap .perm .scratch (b.base + off) false)
    else
      let l : Local := .scratch t.wg (b.base + off)
      match aheadLocal s k l (fmtSize f) with
      | .stall => .wait s .order
      | .forward bytes =>
        let s := s.modBuf (coreOf k) e.toNat fun x => { x with ldbs := x.ldbs + 1 }
        .next (s.setThread k (t.count { flag := t.flagA, result := some (spanWrites d (fmtLoad f bytes)), entry := some e.toNat, pc := t.pc }))
      | .clear =>
        let s := s.modBuf (coreOf k) e.toNat fun x => { x with ldbs := x.ldbs + 1 }
        if s.late then
          let r := pendParts s (localAcc k t .scratch l (fmtSize f) .plain (.load f d)) pend
          .next (r.2.setThread k (t.count { flag := t.flagA, result := none, access := r.1, entry := some e.toNat, pc := t.pc }))
        else
          let bytes := readBytes w.scratch (b.base + off) (fmtSize f)
          .next (s.setThread k (t.count { flag := t.flagA, result := some (spanWrites d (fmtLoad f bytes)), entry := some e.toNat, pc := t.pc }))) s

/-! Atomics (R226 to R230). -/

/-- The read and write of an atomic at a bank (R229, R230): the old value and the state after it. -/
def atomLocal (s : State) (l : Local) (c : AtomOp) (v : List Word) : Nat × State :=
  let old := bytesNat (readLocal s l (atomSize c))
  (old, match atomNew c old v with
    | some n => writeLocal s l (natBytes (atomSize c) n)
    | none => s)

/-- An ATOM on an L1 line: performed on a line that is M or E, else pending (R126, R229). -/
def atomL1 (s : State) (k : Nat) (a : Access) (c : AtomOp) (d : Reg) (v : List Word) : Effect :=
  match coldError s a.line with
  | some e => .trap s (globalTrap .eccUncorr e a.va true)
  | none =>
    match l1Try s a.core a.line a.dom true with
    | .stall s => .wait s .recordQueue
    | .miss s =>
      let n := pend s a
      loadLater n.2 k none [n.1]
    | .hit l =>
      if s.late then
        let n := pend s a
        loadLater n.2 k none [n.1]
      else
      let old := bytesNat (lineSlice l.data (a.pa % 128) a.size)
      let s := match atomNew c old v with
        | some n => storeL1 s a l (natBytes (atomSize c) n)
        | none => s.setL1 a.core a.line { l with st := .m }
      .next (s.modThread k fun t => t.countResult (spanWrites d (atomOld c old)))

/-- An atomic in space G (R229): ret is an ATOM. -/
def atomGlobal (s : State) (k lane : Nat) (t : Thread) (w : Workgroup) (va : Nat) (o : MOrd) (c : AtomOp) (d : Reg)
    (ret : Bool) : Effect :=
  let v := t.rdSpan d c.regs
  let r := resolveG s (ctxOf k lane t w) va (atomSize c) .dflt true true true
  match r.1 with
  | .busy => .wait r.2 .busy
  | .trap x info => .trap r.2 (globalTrap x info va true)
  | .absent _ _ => .trap r.2 (globalTrap .pageAbsent 0 va true)
  | .at place pa =>
    let a := accOf k t w va pa (atomSize c) (if ret then .dflt else .bypass) o (if ret then .atom c d v else .red c v)
    match place with
    | .remote _ => sendRemote r.2 a fun ids s => if ret then loadLater s k none ids else .next s
    | .window _ | .device _ => .trap r.2 (globalTrap .perm 0 va true)
    | .vault _ =>
      if overlaps r.2 k place.spot (atomSize c) then .wait r.2 .order
      else if ret then atomL1 r.2 k a c d v
      else match coldError r.2 a.line with
        | some e => .trap r.2 (globalTrap .eccUncorr e va true)
        | none => writeHome r.2 a

/-- ATOM and RED in one thread. -/
def atomic (s : State) (k lane : Nat) (b d : Reg) (o : MOrd) (sp : Space) (c : AtomOp) (ret : Bool) : Effect :=
  withWg s k fun t w => memGate s k t o (orderReleases o) sp fun s t =>
    if sp = .global then atomGlobal s k lane t w (t.rdPair b).toNat o c d ret
    else
      let base := (t.rdG b).toNat
      match resolveLocal s ⟨t.lin, t.wg, w, supervisor t w⟩ sp base (atomSize c) true with
      | .error x => .trap s (spaceTrap x sp base true)
      | .ok l =>
        if localBusy s k l (atomSize c) then .wait s .order
        else if localLate s l then
          let v := t.rdSpan d c.regs
          let n := pend s (localAcc k t sp l (atomSize c) o (if ret then .atom c d v else .red c v))
          if ret then loadLater n.2 k none [n.1] else .next n.2
        else
          let r := atomLocal s l c (t.rdSpan d c.regs)
          .next (if ret then r.2.modThread k fun t => t.countResult (spanWrites d (atomOld c r.1)) else r.2)

/-- ATOM (R230). -/
def execAtom (b d : Reg) (o : MOrd) (sp : Space) (c : AtomOp) (p : PReg) (s : State) : Out :=
  perThread (.atom b d o sp c p) p (fun s k lane => atomic s k lane b d o sp c true) s
/-- RED (R230). -/
def execRed (b d : Reg) (o : MOrd) (sp : Space) (c : AtomOp) (p : PReg) (s : State) : Out :=
  perThread (.red b d o sp c p) p (fun s k lane => atomic s k lane b d o sp c false) s

/-! FENCE, PREF (R231 to R235). -/

/-- FENCE: the thread's later memory instructions are held (R232); a fence behind one that still holds waits
for it. With the counter clear, a trap that is due at it is raised here (R166). -/
def execFence (sc : Scope) (kind : FenceKind) (p : PReg) (s : State) : Out :=
  perThread (.fence sc kind p) p (fun s k _ => withThread s k fun t =>
    let place := fun (s : State) => .next (s.setThread k { t with fence := some (sc, kind) })
    let set := fun (s : State) =>
      if fenceCounts (sc, kind) ∧ (s.core (coreOf k)).acks = 0 then ackGate s k t .fence fun _ => place s else place s
    match t.fence with
    | none => set s
    | some x => fenceGate s k t x set) s

/-- What a prefetch does to a line of the module's own vault region; it is dropped while the carousel's record queue is
full (R235). -/
def prefetch (s : State) (core line dom : Nat) (g : PrefTarget) : Effect :=
  if !queueRoom s (clusterOf core) (line % 8) then .next s
  else match g with
  | .l2 => .next (if (s.tag? line).isSome || heldBefore s line then s else homeEnter s { recOf .bypr (32 * vaultOf line) line with dom := dom })
  | .l1 | .l1w => match l1Try s core line dom (g == .l1w) with
    | .miss s => .next s
    | .hit _ => .next s
    | .stall s => .wait s .recordQueue

/-- PREF: no check of it traps (R235). DESIGN CHOICE (log 70): a page is forbidden to l1 and l2 without R, and to l1w
without W. -/
def execPref (a : Reg) (g : PrefTarget) (p : PReg) (s : State) : Out :=
  perThread (.pref a g p) p (fun s k lane => withWg s k fun t w =>
    let r := resolveG s (ctxOf k lane t w) (t.rdPair a).toNat 1 .dflt (g != .l1w) (g == .l1w) false
    match r.1 with
    | .busy => .wait r.2 .busy
    | .at (.vault x) _ => prefetch r.2 (coreOf k) (x / 128) w.hashdom g
    | .at _ _ | .absent _ _ | .trap _ _ => .next r.2) s

/-! CCTL (R236 to R238). -/

/-- A new operation in progress behind the handle of a job number. -/
def openService (s : State) (kind : ServiceKind) (core wg num : Nat) (waiting : List Nat) : Nat × State :=
  let n := s.fresh
  (n.1, { n.2 with services := mput n.2.services n.1 ⟨kind, core, some (wg, num), waiting, 0, 0, false, false, none⟩ })

/-- Lines of a core's L1 are to leave; the handle completes once they have (R237). -/
def flushLines (s : State) (k : Nat) (t : Thread) (w : Workgroup) (d : HReg) (lines : List Nat) : Effect :=
  let core := coreOf k
  if lines.isEmpty then instantJob s k t w d .service .done
  else match openJob s k t w d (jobOf t w .service) with
    | none => .wait s .jobTable
    | some (num, _, s) =>
      let s := (openService s .l1 core t.wg num lines).2
      let mark := fun (x : Nat × L1Line) => if lines.contains x.1 then (x.1, { x.2 with flush := true }) else x
      .next (pumpFlush (s.modCore core fun c => { c with l1 := c.l1.map mark }) core)

/-- L2CLEAN or L2EVICT of a line of the module: the home writes its record, with the operation that it serves (R237). -/
def homeService (s : State) (k : Nat) (t : Thread) (w : Workgroup) (d : HReg) (kind : ServiceKind) (line : Nat) : Effect :=
  let home := vaultOf line
  if !queueRoom s home (line % 8) then .wait s .recordQueue
  else match openJob s k t w d (jobOf t w .service) with
    | none => .wait s .jobTable
    | some (num, _, s) =>
      let n := openService s kind (coreOf k) t.wg num []
      let r := if kind = .evict then recOf .inv (home * 32) line else { recOf .bypr (home * 32) line with dom := w.hashdom }
      .next (enqueue n.2 home (line % 8) { r with service := some n.1 })

/-- L2CLEAN or L2EVICT of a line of another module: performed there, and counted until it is acknowledged
(R165, R237). -/
def remoteService (s : State) (k : Nat) (t : Thread) (w : Workgroup) (d : HReg) (va pa : Nat) : Effect :=
  let core := coreOf k
  let s0 := s
  match openJob s k t w d (jobOf t w .service) with
  | none => .wait s .jobTable
  | some (num, _, s) =>
    let n := openService s .remote core t.wg num []
    match sendRemote n.2 (accOf k t w va (pa / 128 * 128) 128 .bypass .plain (.cctl n.1)) fun _ s => .next s with
    | .next s => .next s
    | .trap _ ti => .trap s0 ti
    | .wait _ r => .wait s0 r
    | e => e

/-- L1EVICT, L2CLEAN and L2EVICT: the address is translated as a load's, needing R (R237). -/
def cctl (s : State) (k lane : Nat) (a : Reg) (d : HReg) (kind : ServiceKind) : Effect :=
  withWg s k fun t w =>
    let va := (t.rdPair a).toNat
    let r := translate s (ctxOf k lane t w) va true false
    match r.1 with
    | .busy => .wait r.2 .busy
    | .absent _ _ => .trap r.2 (globalTrap .pageAbsent 0 va false)
    | .trap c info => .trap r.2 (globalTrap c info va false)
    | .pa pa =>
      let a := pa % 2 ^ 48
      let line := a / 128
      if !inVault a then
        (if deviceBase ≤ a ∨ (0x080000000000 ≤ a ∧ a < 0x080000400000) then instantJob r.2 k t w d .service .done
        else .trap r.2 (globalTrap .perm 0 va false))
      else if pa / 2 ^ 48 ≠ r.2.page.moduleId then
        (if kind = .l1 then instantJob r.2 k t w d .service .done else remoteService r.2 k t w d va pa)
      else if kind ≠ .l1 then homeService r.2 k t w d kind line
      else match r.2.l1? (coreOf k) line with
        | none => instantJob r.2 k t w d .service .done
        | some l => if l.st = .i then instantJob r.2 k t w d .service .done else flushLines r.2 k t w d [line]

/-- CCTL_L1EVICT (R237). -/
def execCctlL1evict (a : Reg) (d : HReg) (p : PReg) (s : State) : Out :=
  perThread (.cctlL1evict a d p) p (fun s k lane => cctl s k lane a d .l1) s
/-- CCTL_L2CLEAN (R237). -/
def execCctlL2clean (a : Reg) (d : HReg) (p : PReg) (s : State) : Out :=
  perThread (.cctlL2clean a d p) p (fun s k lane => cctl s k lane a d .clean) s
/-- CCTL_L2EVICT (R237). -/
def execCctlL2evict (a : Reg) (d : HReg) (p : PReg) (s : State) : Out :=
  perThread (.cctlL2evict a d p) p (fun s k lane => cctl s k lane a d .evict) s
/-- CCTL_L1FLUSH (R236, R237). -/
def execCctlL1flush (d : HReg) (p : PReg) (s : State) : Out :=
  perThread (.cctlL1flush d p) p (fun s k _ => withWg s k fun t w =>
    if !supervisor t w then .trap s { cause := .priv }
    else flushLines s k t w d ((s.core (coreOf k)).l1.map (·.1))) s

/-! Accesses performed in a turn of their own (R152, R158, R160). -/

/-- What an access meets at its L1 when it is performed: the line that it waited for, where that has come and records are
held until it is performed (R128), or what a new access would (R126). -/
def l1Now (s : State) (id : Nat) (a : Access) : L1Try :=
  match s.l1? a.core a.line with
  | some l => if l.due.contains id then .hit l else l1Try s a.core a.line a.dom (!a.op.reads)
  | none => l1Try s a.core a.line a.dom (!a.op.reads)

/-- Performs an access to a device register (R92, R177). -/
def performDevice (s : State) (id : Nat) (a : Access) : State :=
  let x := a.pa % 2 ^ 48 - deviceBase
  let u := dropAcc (accResult s id a (natBytes 4 (devRead s x).toNat)) id
  match a.op with
  | .store b => devWrite u x (BitVec.ofNat 32 (bytesNat b))
  | .load _ _ | .atom _ _ _ | .red _ _ | .piece _ | .cctl _ | .read _ | .code _ _ | .write _ _ | .swap _ _ _ | .update _ _ _ => u

/-- Is a pending access one to a device register that a turn of its own performs. -/
def Access.onDevice (a : Access) : Bool :=
  a.place.isNone && a.pol == .dev && !a.remote && a.job.isNone && decide (deviceBase ≤ a.pa % 2 ^ 48)

/-- A pending access is performed where no record performs it: at its bank, at its device register, or at its core's L1,
which asks for the line if it has lost it meanwhile (R126, R158, R177). -/
def performAccess (s : State) (id : Nat) : State :=
  match mget s.accs id with
  | none => s
  | some a =>
    match a.place with
    | some l =>
      let old := readLocal s l a.size
      let s := dropAcc (accResult s id a old) id
      (match a.op.stored old with
      | some b => writeLocal s l b
      | none => s)
    | none =>
      if a.onDevice then performDevice s id a
      else if !((l1Accs s a.core a.line).any fun x => x.1 == id) then s
      else match coldError s a.line with
        | some e => failAcc s id a e
        | none => match l1Now s id a with
          | .hit l =>
            let r := performOn s id a l.data
            let s := if a.op.reads then r.1 else r.1.setL1 a.core a.line { l with data := r.2, st := .m }
            serveHeld s a.core a.line
          | .miss s | .stall s => s

/-- Is a pending access one that only a turn of its own performs, at a bank whose clock runs (R427). -/
def performs (s : State) (a : Access) : Bool :=
  (match a.place with
    | some (.wafer off) => waferRuns s off a.size
    | some (.slice _ _ _) | some (.scratch _ _) => true
    | none => false)
  || a.onDevice
  || (a.place.isNone && a.pol == .dflt && !a.remote && a.job.isNone && inVault (a.pa % 2 ^ 48)
    && ((s.l1? a.core a.line).map (·.wants.isNone)).getD true)

end Sys2Proof.Machine
end

