-- ==== Sys2Proof/Machine/Sync.lean ====
section
/-! DEFINITION. Barrier objects (R360 to R366), supersteps (R367 to R370), rendezvous (R371) and LAUNCH
(R372). -/

namespace Sys2Proof.Machine

/-! The barrier instructions (R363 to R366). -/

/-- Space of the object that a pair names: it fixes the barrier's scope (R174, R360). -/
def barSpace (t : Thread) (a : Reg) : Space :=
  match descriptor? (t.rdPair a) with
  | some d => d.space
  | none => .scratch

/-- An arrival's sources are all the thread's earlier events, those on other modules' locations among them (R174). -/
def barSources (s : State) (k : Nat) (t : Thread) (sp : Space) (f : State → Effect) : Effect :=
  if matrixBusy s k then .wait s .order else afterOrder s (orderAt s k t (spaceScope sp) (ownAccs s k)) f

/-- What an instruction does with the object that its pair names; rel is an arrival. -/
def withBar (s : State) (k : Nat) (a : Reg) (write rel : Bool)
    (f : State → Thread → Local → TrapInfo → Bar → Effect) : Effect :=
  withWg s k fun t w => memGate s k t .plain false (barSpace t a) fun s t =>
    let act := fun (s : State) => match resolveBar s t w (t.rdPair a) write with
      | .error ti => Effect.trap s ti
      | .ok (l, over_) =>
        if localBusy s k l 32 || !bankRuns s l then .wait s .order else f s t l over_ (Bar.ofBytes (readLocal s l 32))
    if rel then barSources s k t (barSpace t a) act else act s

/-- BARINIT (R363, R364). -/
def execBarinit (b a : Reg) (p : PReg) (s : State) : Out :=
  perThread (.barinit b a p) p (fun s k _ => withBar s k a true false fun s t l _ x =>
    if x.init && !(t.rdG b).getLsbD 31 then .next s
    else .next (storeBar s l (⟨(t.rdG b).toNat % 65536, 0, 0, 2, 0⟩, false))) s

/-- BARARV: earlier events of the thread are sources of the phase (R174, R364). -/
def execBararv (a d : Reg) (p : PReg) (s : State) : Out :=
  perThread (.bararv a d p) p (fun s k _ => withBar s k a true true fun s _ l over_ x =>
    if !x.init || decide (x.exp ≤ x.arr) then .trap s over_
    else
      let s := storeBar s l ({ x with arr := x.arr + 1 }).test
      .next (s.modThread k fun t => t.wrG d (BitVec.ofNat 32 x.ph))) s

/-- BAREXP (R364). -/
def execBarexp (b a : Reg) (p : PReg) (s : State) : Out :=
  perThread (.barexp b a p) p (fun s k _ => withBar s k a true false fun s t l over_ x =>
    let n := x.pend + (t.rdG b).toNat
    if !x.init || decide (2 ^ 56 ≤ n) then .trap s over_
    else .next (storeBar s l ({ x with pend := n }, false))) s

/-- BARDROP (R174, R364). -/
def execBardrop (a : Reg) (p : PReg) (s : State) : Out :=
  perThread (.bardrop a p) p (fun s k _ => withBar s k a true true fun s _ l over_ x =>
    if !x.init || x.exp == 0 then .trap s over_
    else .next (storeBar s l ({ x with exp := x.exp - 1 }).test)) s

/-- BARWAIT (R366). -/
def execBarwait (b a : Reg) (p : PReg) (s : State) : Out :=
  perThread (.barwait b a p) p (fun s k _ => withBar s k a false false fun s t l over_ x =>
    match t.woken with
    | some (_, true) => .next s
    | some (_, false) => .wait s .barrier
    | none =>
      if !x.init then .trap s over_
      else if x.ph ≠ (t.rdG b).toNat % 256 then .next s
      else .wait (s.setThread k { t with woken := some (l, false) }) .barrier) s

/-- BARTEST (R366). -/
def execBartest (b a : Reg) (d : PReg) (p : PReg) (s : State) : Out :=
  perThread (.bartest b a d p) p (fun s k _ => withBar s k a false false fun s t _ over_ x =>
    if !x.init then .trap s over_
    else .next (s.setThread k (t.wrP d (x.ph != (t.rdG b).toNat % 256)))) s

/-! Supersteps. -/

/-- Phases that a workgroup has reached: what its threads that have not exited have all executed, and every phase,
written none, once all have exited; one that has not started has reached none (R367). -/
def phasesReached (s : State) (wg : Nat) (w : Workgroup) : Option Nat :=
  if w.phase = .placed then some 0 else
  let live := ((s.threads.filter fun x => x.2.wg == wg).map (·.2)) ++ (match w.image with
    | some i => i.threads
    | none => [])
  live.foldl (fun m t => some (match m with
    | some n => min n t.sstep
    | none => t.sstep)) none

/-- Has the workgroup of a launch at a linear index reached a phase, as far as the others have been told;
mine is the asking workgroup, which knows of itself (R367, R368). -/
def reached (s : State) (mine launch lin k : Nat) : Bool :=
  match s.wgs.find? fun x => x.2.coords.launch == launch && x.2.coords.linear == lin && x.2.phase != .ended && x.2.phase != .gone with
  | some x => if x.1 = mine then (match phasesReached s x.1 x.2 with
      | some n => decide (k < n)
      | none => true) else (match x.2.phasePub with
      | some n => decide (k < n)
      | none => true)
  | none => match mget s.launch.launches launch with
    | some l => l.placed.contains lin
    | none => true

/-- Linear index of grid coordinates and stage (R382). -/
def linearOf (z : Sizes) (x y g stage : Nat) : Nat := x + z.gridX * (y + z.gridY * (g + z.gridZ * stage))

/-- The neighbours of a workgroup (R368). -/
def neighbours (w : Workgroup) : List Nat :=
  let z := w.sizes
  let c := w.coords
  let near := fun (n size : Nat) => (if 0 < n then [n - 1] else []) ++ (if n + 1 < size then [n + 1] else [])
  if 1 < z.stages then (near c.stage z.stages).map fun st => linearOf z c.x c.y c.z st
  else (near c.x z.gridX).map (fun x => linearOf z x c.y c.z 0)
    ++ (near c.y z.gridY).map (fun y => linearOf z c.x y c.z 0)
    ++ (near c.z z.gridZ).map (fun g => linearOf z c.x c.y g 0)

/-- May a thread's SSTEP for phase k return (R369). -/
def stepMayReturn (s : State) (wg : Nat) (w : Workgroup) (k : Nat) : Bool :=
  if w.lead = 0 then
    (List.range (w.sizes.gridX * w.sizes.gridY * w.sizes.gridZ * w.sizes.stages)).all fun n =>
      reached s wg w.coords.launch n k
  else decide (k < w.lead) || (neighbours w).all fun n => reached s wg w.coords.launch n (k - w.lead)

/-- Is the thread in an SSTEP that has counted already. -/
def inSuperstep (t : Thread) : Bool :=
  match t.wait with
  | some (r, _) => r == .superstep
  | none => false

/-- The waiting part of SSTEP for phase k (R369). -/
def sstepWait (s : State) (k : Nat) (d : Reg) (phase : Nat) : Effect :=
  withWg s k fun t w =>
    if stepMayReturn s t.wg w phase then .next (s.setThread k (t.wrG d (BitVec.ofNat 32 phase)))
    else .wait s .superstep

/-- SSTEP: counts once the thread's earlier accesses are performed and acknowledged, a stall on the superstep (R175, R345,
R369; DEDUCED, log 83). -/
def execSstep (d : Reg) (p : PReg) (s : State) : Out :=
  perThread (.sstep d p) p (fun s k _ => withWg s k fun t _ =>
    if inSuperstep t then sstepWait s k d (t.sstep - 1)
    else if !(ownAccs s k).isEmpty then .wait s .step
    else ackGate s k t .step fun _ => sstepWait (s.setThread k { t with sstep := t.sstep + 1 }) k d t.sstep) s

/-- PHASE_EXCHANGE (R368): the other workgroups learn how far a workgroup is. -/
def execPhaseExchange (wg : Nat) (s : State) : Out :=
  match s.wg? wg with
  | none => .next s
  | some w => .next (s.modWg wg fun x => { x with phasePub := phasesReached s wg w })

/-! Rendezvous (R371). -/

/-- The thread of a workgroup with a linear index, if it is there. -/
def memberThread (s : State) (w : Workgroup) (lin : Nat) : Option (Nat × Thread) :=
  match w.slots[lin]? with
  | none => none
  | some slot => (s.thread? (tkey w.core slot)).map fun t => (tkey w.core slot, t)

/-- A counted RDV has its value. -/
def rdvResult (t : Thread) (d : Reg) (v : Word) : Thread := { t.countResult [.g d v] with rdv := none }

/-- RDV (R371). A matched pair completes in one step: the partner, which stands at its RDV, goes on after it. One whose
partner has exited orders nothing. -/
def execRdv (b a d : Reg) (p : PReg) (s : State) : Out :=
  perThread (.rdv b a d p) p (fun s k _ => withWg s k fun t w =>
    let q := (t.rdG b).toNat
    if w.sizes.threads ≤ q ∨ q = t.lin then .trap s { cause := .perm }
    else if w.exited.contains q then .next (s.setThread k (rdvResult t d 0))
    else if !(ownAccs s k).isEmpty then .wait s .order
    else
      let post := Effect.wait (s.setThread k { t with rdv := some (t.rdv.getD (q, t.rdG a, d)) }) .rendezvous
      let mine := match t.rdv with
        | some x => x.2.1
        | none => t.rdG a
      match memberThread s w q with
      | none => post
      | some (j, u) =>
        match u.rdv with
        | none => post
        | some (r, v, e) =>
          if r ≠ t.lin then post
          else .next (advance ((s.setThread k (rdvResult t d v)).modThread j fun u => rdvResult u e mine) j 4)) s

/-! LAUNCH (R372). -/

/-- What reading bytes at a global address gives, for an instruction that holds its thread. -/
inductive GlobalRead where
  | ok (b : List Byte) (s : State)
  | wait (s : State) (r : WaitReason)
  | trap (s : State) (ti : TrapInfo)

/-- Reads n bytes for a thread, a multiple of 8, with one load event for each 8-byte piece; their order is a free choice
(R152, R250, R372). -/
def askPieces (s : State) (k asid dom pa n : Nat) : Option (Except (Cause × Nat) (List Byte)) × State :=
  let pieces := (List.range (n / 8)).map fun i => askOf (.thread k) asid dom (pa + 8 * i) 8 .bypass (.read (.thread k))
  let order := s.shuffle (pieces.filter fun a => !asking s a && (a.reply? s).isNone) pieces.length
  let s := order.1.foldl askSend order.2
  (pieces.foldr (fun a r => joinReplies ((a.reply? s).map Reply.result) r) (some (.ok [])), s)

/-- Reads n bytes of a mirror at an offset for a thread, a multiple of 8: at once, or in a turn whose accesses are performed
later, and where some are pending, with a load event for each 8-byte piece (R135, R152, R250, R372). -/
def askMirror (s : State) (k mirror pa n : Nat) : Option (Except (Cause × Nat) (List Byte)) × State :=
  let pieces := (List.range (n / 8)).map fun i =>
    { askOf (.thread k) 256 0 (pa + 8 * i) 8 .bypass (.read (.thread k)) with place := some (.wafer (mirror + 8 * i)) }
  let new := pieces.filter fun a => !asking s a && (a.reply? s).isNone
  if !s.late && decide (new.length = pieces.length) then (some (.ok (readBytes s.wmem mirror n)), s)
  else
    let s := new.foldl (fun s a => (pend s a).2) s
    (pieces.foldr (fun a r => joinReplies ((a.reply? s).map Reply.result) r) (some (.ok [])), s)

/-- Reads n bytes at a global address, n a power of two from 8 on, for a thread: in this module or another at the home, with a
record or a request of the thread's own (R131, R133, R164, R167). -/
def readGlobal (s : State) (k lane : Nat) (t : Thread) (w : Workgroup) (va n : Nat) : GlobalRead :=
  let r := resolveG s (ctxOf k lane t w) va n .bypass true false false
  match r.1 with
  | .busy => .wait r.2 .busy
  | .absent _ _ => .trap r.2 (globalTrap .pageAbsent 0 va false)
  | .trap c info => .trap r.2 (globalTrap c info va false)
  | .at place pa =>
    let give := fun (q : Option (Except (Cause × Nat) (List Byte)) × State) =>
      match q.1 with
      | none => GlobalRead.wait q.2 .busy
      | some (.error e) => .trap q.2 (globalTrap e.1 e.2 va false)
      | some (.ok b) => .ok b q.2
    match place with
    | .vault _ => if overlaps r.2 k place.spot n then .wait r.2 .order else give (askPieces r.2 k w.asid w.hashdom pa n)
    | .remote _ => give (askPieces r.2 k w.asid w.hashdom pa n)
    | .window x =>
      if overlaps r.2 k place.spot n then .wait r.2 .order
      else give (askMirror r.2 k (mirrorAt (clusterOf (coreOf k)) x) pa n)
    | .device _ => .trap r.2 (globalTrap .perm 0 va false)

/-- Records of a launch queue (R376, R378). -/
def LaunchQueue.records (q : LaunchQueue) : Nat := 2 ^ max 1 (min 12 q.size)

/-- Is a launch queue full (R376). -/
def LaunchQueue.full (q : LaunchQueue) : Bool := (q.tail + 1) % q.records == q.head % q.records

/-- Byte of a launch record that holds the priority, in its bits [3:0] (R379). -/
def prioByte : Nat := 41

/-- Appends a record to a device queue (R376). -/
def appendRecord (s : State) (q : Nat) (rec : List Byte) : State :=
  let x := s.lqueue q
  let s := { s with wmem := writeBytes s.wmem ((x.base + 256 * (x.tail % x.records)) % 2 ^ 32) rec }
  s.modLqueue q fun x => { x with tail := (x.tail + 1) % x.records }

/-- The record as LAUNCH appends it: its priority lowered to that of the issuing launch, and the module bytes
(R372, R380). -/
def deviceRecord (rec : List Byte) (l : Launch) (w : Workgroup) : List Byte :=
  let b := fieldAt rec prioByte 1
  let r := if l.priority < b % 16 then patch rec prioByte (natBytes 1 (b / 16 * 16 + l.priority)) else rec
  patch r 240 (natBytes 1 l.binding.queue ++ natBytes 1 w.asid ++ natBytes 2 w.hashdom ++ natBytes 1 1)

/-- LAUNCH (R372). DESIGN CHOICE (log 84): a DEVQ that names a host queue takes no record. -/
def execLaunch (a d : Reg) (p : PReg) (s : State) : Out :=
  perThread (.launch a d p) p (fun s k lane => withWg s k fun t w => memGate s k t .rel true .global fun s t =>
    let va := (t.rdPair a).toNat
    if va % 256 ≠ 0 then .trap s (globalTrap .align 0 va false)
    else match readGlobal s k lane t w va 256 with
      | .wait s r => .wait s r
      | .trap s ti => .trap s ti
      | .ok rec s =>
        let status := fun (s : State) (n : Nat) => Effect.next (s.modThread k fun t => t.wrG d (BitVec.ofNat 32 n))
        match mget s.launch.launches w.coords.launch with
        | none => status s 1
        | some l =>
          let q := s.lqueue l.binding.devq
          if !l.binding.deven || !q.en || !q.dev || q.full then status s 1
          else status (appendRecord s l.binding.devq (deviceRecord rec l w)) 0) s

end Sys2Proof.Machine
end

