-- ==== Sys2Proof/Machine/Shape.lean ====
section
/-! DEFINITION. Shape records and slots (R245 to R250): where the elements of a dense tensor and of a sparse
tile lie. -/

namespace Sys2Proof.Machine

/-- Holds the issue of a job or a matrix operation until every event of the thread before it has taken its
place (R168, R172). -/
def jobGate (s : State) (k : Nat) (t : Thread) (f : State → Thread → Effect) : Effect :=
  memGate s k t .plain false .slice fun s t => if (ownAccs s k).isEmpty then f s t else .wait s .order

/-- A shape record (R246); fmt 15 is rb4. -/
structure Shape where
  base    : Nat
  fmt     : Nat
  rank    : Nat
  sparse  : Bool
  dims    : List Nat
  strides : List Nat
  boxes   : List Nat
deriving DecidableEq, Repr

/-- Element size of a format number, in half bytes (R212, R246). -/
def fmtHalves (f : Nat) : Nat := [2, 2, 4, 4, 8, 16, 32, 64, 4, 4, 2, 2, 16, 8, 8].getD f 1

/-- Element size in bytes; an rb4 code counts as one byte for alignment (R246). -/
def Shape.size (x : Shape) : Nat := if x.fmt = 15 then 1 else fmtHalves x.fmt / 2

/-- Is the element a 4-bit code. -/
def Shape.rb4 (x : Shape) : Bool := x.fmt == 15

/-- Elements of the box (R246). -/
def Shape.elems (x : Shape) : Nat := (x.boxes.take x.rank).foldl (· * ·) 1

/-- The box bytes (R246). -/
def Shape.bytes (x : Shape) : Nat := x.elems * fmtHalves x.fmt / 2

/-- The fields of a record (R246). -/
def Shape.ofBytes (b : List Byte) : Shape where
  base := fieldAt b 0 8
  fmt := bitsNat (fieldAt b 8 1) 0 4
  rank := bitsNat (fieldAt b 8 1) 4 3
  sparse := (fieldAt b 8 1).testBit 7
  dims := (List.range 5).map fun i => fieldAt b (12 + 4 * i) 4
  strides := (List.range 5).map fun i => fieldAt b (32 + 4 * i) 4
  boxes := (List.range 5).map fun i => fieldAt b (52 + 2 * i) 2

/-- Does a record of 64 bytes keep the limits of R246. -/
def shapeOk (b : List Byte) : Bool :=
  let x := Shape.ofBytes b
  decide (x.base < 2 ^ 52) && x.base % x.size == 0 && decide (1 ≤ x.rank) && decide (x.rank ≤ 5)
    && fieldAt b 9 3 == 0 && fieldAt b 62 2 == 0
    && (List.range 5).all (fun i =>
      let d := x.dims.getD i 0
      let q := x.strides.getD i 0
      let n := x.boxes.getD i 0
      if i < x.rank then decide (1 ≤ d) && decide (d < 2 ^ 31) && decide (1 ≤ n) && (!x.sparse || d % n == 0)
      else d == 0 && q == 0 && n == 0)
    && decide (x.bytes ≤ 2 ^ 18)
    && (if x.rb4 then x.boxes.headD 0 % 2 == 0 && x.strides.headD 0 == 0 else x.strides.headD 0 % x.size == 0)
    && (!x.sparse || !([5, 6, 7, 12, 14].contains x.fmt))

/-! Elements. -/

/-- Coordinates of packed box element j (R247). -/
def boxDigits (j : Nat) : List Nat → List Nat
  | [] => []
  | b :: bs => j % b :: boxDigits (j / b) bs

/-- Tensor coordinates of box element j of a box at given coordinates. -/
def Shape.coords (x : Shape) (c : List Int) (j : Nat) : List Int :=
  (c.zip (boxDigits j (x.boxes.take x.rank))).map fun y => y.1 + (y.2 : Int)

/-- Are coordinates those of an element in range (R247). -/
def Shape.inRange (x : Shape) (c : List Int) : Bool :=
  (c.zip (x.dims.take x.rank)).all fun y => decide (0 ≤ y.1) && decide (y.1 < (y.2 : Int))

/-- Byte address of a dense element at coordinates in range (R247). -/
def Shape.addr (x : Shape) (c : List Nat) : Nat :=
  x.base + ((c.zip (x.strides.take x.rank)).map fun y => y.1 * y.2).sum + (if x.rb4 then c.headD 0 / 2 else 0)

/-- Coordinates in range as numbers. -/
def natCoords (c : List Int) : List Nat := c.map Int.toNat

/-- The tile that starts at coordinates (R248). -/
def Shape.tile (x : Shape) (c : List Int) : Nat :=
  x.base + (((natCoords c).zip ((x.boxes.zip x.strides).take x.rank)).map fun y => y.1 / y.2.1 * y.2.2).sum

/-- Bytes of a tile's mask, padded (R248). -/
def Shape.maskLen (x : Shape) : Nat := (x.elems + 127) / 128 * 16

/-- Bits set among the first n of a mask (R248). -/
def maskCount : List Byte → Nat → Nat
  | [], _ => 0
  | b :: bs, n => popNat (b.toNat % 2 ^ min n 8) 8 + maskCount bs (n - 8)

/-- Bit n of a mask. -/
def maskBit (b : List Byte) (n : Nat) : Bool := ((b.getD (n / 8) 0).toNat).testBit (n % 8)

/-- The span in G of the in-range elements of a box, or of a tile (R263; log 32). -/
def Shape.span (x : Shape) (c : List Int) : List Region :=
  if x.sparse then
    (if x.inRange c then [⟨.global, x.tile c, x.maskLen + x.bytes⟩] else [])
  else
    let ends : List (Nat × Int) := (c.zip ((x.dims.zip x.boxes).take x.rank)).map fun y =>
      ((max y.1 0).toNat, min (y.1 + (y.2.2 : Int)) (y.2.1 : Int) - 1)
    if ends.any fun y => decide (y.2 < (y.1 : Int)) then []
    else
      let lo := x.addr (ends.map (·.1))
      let hi := x.addr (ends.map fun y => y.2.toNat)
      [⟨.global, lo, hi + x.size - lo⟩]

/-! The slot instructions. -/

/-- TSLD's record has been read: it enters the slot if it keeps R246 (R250). -/
def fillSlot (s : State) (k : Nat) (n wg : Nat) (b : List Byte) : Effect :=
  if !shapeOk b then .trap s { cause := .illegalOp }
  else .next (s.modCore (coreOf k) fun c => { c with shapes := mput c.shapes n ⟨wg, b⟩ })

/-- Does a slot belong to another workgroup (R245). -/
def slotTaken (s : State) (k n wg : Nat) : Bool :=
  match mget (s.core (coreOf k)).shapes n with
  | some x => x.owner != wg
  | none => false

/-- Is the record of a slot of a core on its way: a thread stands waiting at a TSLD that names the slot (R250). -/
def slotLoading (s : State) (core n : Nat) : Bool := s.threads.any fun x =>
  coreOf x.1 == core && x.2.wait.isSome && (match x.2.clause.bind fun c => decodeBody c x.2.pc with
    | some (.tsld b _ _ _) => b.toNat == n
    | _ => false)

/-- TSLD (R250). -/
def execTsld (b : BitVec 5) (a : Reg) (q : Space) (p : PReg) (s : State) : Out :=
  perThread (.tsld b a q p) p (fun s k lane => withWg s k fun t w =>
    if slotTaken s k b.toNat t.wg then .trap s { cause := .perm }
    else memGate s k t .plain false q fun s t =>
      if q = .global then
        let va := (t.rdPair a).toNat
        match readGlobal s k lane t w va 64 with
        | .wait s r => .wait s r
        | .trap s ti => .trap s ti
        | .ok bytes s => fillSlot s k b.toNat t.wg bytes
      else
        let off := (t.rdG a).toNat
        match resolveLocal s ⟨t.lin, t.wg, w, supervisor t w⟩ q off 64 false with
        | .error c => .trap s (spaceTrap c q off false)
        | .ok l => if localBusy s k l 64 || !bankRuns s l then .wait s .order else fillSlot s k b.toNat t.wg (readLocal s l 64)) s

/-- TSEV (R250). -/
def execTsev (b : BitVec 5) (p : PReg) (s : State) : Out :=
  perThread (.tsev b p) p (fun s k _ => withThread s k fun t =>
    if slotTaken s k b.toNat t.wg then .trap s { cause := .perm }
    else .next (s.modCore (coreOf k) fun c => { c with shapes := mdel c.shapes b.toNat })) s

/-- TSQ: a word of the record, or with st the slot's status (R250). -/
def execTsq (b : BitVec 5) (a : Reg) (h : HReg) (st : Bool) (p : PReg) (s : State) : Out :=
  perThread (.tsq b a h st p) p (fun s k _ => withThread s k fun t =>
    let give := fun (v : Nat) => Effect.next (s.setThread k (t.countResult [.g a (BitVec.ofNat 32 v)]))
    match mget (s.core (coreOf k)).shapes b.toNat with
    | none => if st then give 0 else .trap s { cause := .perm }
    | some x =>
      if st then give (1 + bitAt (x.owner == t.wg) 1)
      else if x.owner ≠ t.wg then .trap s { cause := .perm }
      else give (fieldAt x.bytes (4 * h.toNat) 4)) s

end Sys2Proof.Machine
end

