-- ==== Sys2Proof/Machine/CopyEngine.lean ====
section
/-! DEFINITION. The copy engine at work: the pieces of its jobs, their byte counts and their ends (R168 to
R171, R241, R244, R255 to R265). -/

namespace Sys2Proof.Machine

/-! Accesses of a job. -/

/-- A job with its core and its place in the table. -/
structure JobAt where
  core  : Nat
  entry : Nat
  job   : Job

/-- What a part of a piece gives. A piece is done whole or not at all. -/
inductive JobStep where
  | ok (b : List Byte) (s : State)
  /-- nothing changes -/
  | wait
  /-- something must be asked for first; the piece is taken up again when it has been answered -/
  | later (ask : State → State)
  /-- the job stops (R244) -/
  | fault (ti : TrapInfo)

/-- Goes on after a part. -/
def JobStep.thenDo (x : JobStep) (f : List Byte → State → JobStep) : JobStep :=
  match x with
  | .ok b s => f b s
  | .wait => .wait
  | .later ask => .later ask
  | .fault ti => .fault ti

/-- Parts in order, their bytes joined. -/
def jobSteps (s : State) (f : Nat → State → JobStep) : List Nat → JobStep
  | [] => .ok [] s
  | a :: r => (f a s).thenDo fun b s => (jobSteps s f r).thenDo fun c s => .ok (b ++ c) s

/-- Changes a job in its table. -/
def State.modJob (s : State) (core entry : Nat) (f : Job → Job) : State :=
  s.modCore core fun c => match mget c.jobs entry with
    | some j => { c with jobs := mput c.jobs entry (f j) }
    | none => c

/-- What a job has read for the piece under way. -/
def jobGot (s : State) (x : JobAt) : List (Nat × List Byte) :=
  match mget (s.core x.core).jobs x.entry with
  | some j => j.got
  | none => []

/-- Policy of a job's global accesses (R255). -/
def JobAt.pol (x : JobAt) : Pol := if x.job.stream then .stream else .bypass

/-- An access of a job. -/
def JobAt.access (x : JobAt) (va pa size : Nat) (op : AccessOp) : Access where
  thread := 0
  wg := x.job.wg
  core := x.core
  pa := pa
  size := size
  va := va
  asid := x.job.asid
  dom := x.job.dom
  pol := x.pol
  ord := .plain
  op := op
  job := some x.entry
  pc := x.job.pc

/-- Resolves a global byte of a job through the core's TLB (R244). -/
def jobResolve (s : State) (x : JobAt) (va : Nat) (needR needW atomic : Bool)
    (f : State → Place → Nat → JobStep) : JobStep :=
  let look := fun (s : State) => resolveG s ⟨.job x.core x.entry, none, x.job.asid, x.job.ptbase, x.job.super⟩
    va 1 x.pol needR needW atomic
  let r := look s
  match r.1 with
  | .busy => .later fun s => (look s).2
  | .trap c info => .fault (globalTrap c info va needW)
  | .absent _ _ => .fault (globalTrap .pageAbsent 0 va needW)
  | .at p pa => f r.2 p pa

/-- Bytes that a job has had brought, or what follows without them. -/
def jobBrought (s : State) (x : JobAt) (va n : Nat) (f : JobStep) : JobStep :=
  match (jobGot s x).find? fun y => y.1 == va && y.2.length == n with
  | some y => .ok y.2 s
  | none => f

/-- Queues a record of a job for its carousel; with no place in the queue nothing happens (R125, R131). -/
def jobRecord (s : State) (x : JobAt) (va a n : Nat) (op : AccessOp) : Option State :=
  let acc := x.access va (s.page.moduleId * 2 ^ 48 + a) n op
  if queueRoom s (clusterOf x.core) (acc.line % 8) then
    some (pendRecord s acc (recOf (if op.reads then .bypr else .bypw) 0 0)).2
  else none

/-- Reads bytes of one 8-byte piece at their place (R255). -/
def jobReadAt (s : State) (x : JobAt) (va n : Nat) (write : Bool) (p : Place) : JobStep :=
  match p with
  | .vault a => jobBrought s x va n (.later fun s => (jobRecord s x va a n (.piece x.job.done)).getD s)
  | .window w => .ok (readBytes s.wmem (mirrorAt (clusterOf x.core) w) n) s
  | .device _ => .fault (globalTrap .perm 0 va write)
  | .remote pa =>
    jobBrought s x va n (if !routeUp s (pa / 2 ^ 48) then .fault (globalTrap .remoteTimeout 0 va write)
      else .later fun s => (pendRemote s (x.access va pa n (.piece x.job.done))).2)

/-- Reads n bytes from a global address, split at multiples of 8. -/
def jobRead (s : State) (x : JobAt) (va n : Nat) : Nat → JobStep
  | 0 => .ok [] s
  | m + 1 =>
    if n = 0 then .ok [] s
    else
      let k := min n (8 - va % 8)
      (jobResolve s x va true false false fun s p _ => jobReadAt s x va k false p).thenDo fun b s =>
        (jobRead s x (va + k) (n - k) m).thenDo fun c s => .ok (b ++ c) s

/-- Sends an access of a job to another module, counted until it is acknowledged (R165, R170). -/
def jobSend (s : State) (x : JobAt) (va pa n : Nat) (op : AccessOp) : JobStep :=
  if !routeUp s (pa / 2 ^ 48) then .fault (globalTrap .remoteTimeout 0 va true)
  else if 65535 ≤ (s.core x.core).acks then .wait
  else .ok [] (pendRemote (s.modCore x.core fun c => { c with acks := c.acks + 1 }) (x.access va pa n op)).2

/-! The line that a job gathers (R135, R152, R255). -/

/-- Does a job hold bytes that it has gathered. -/
def Job.gathers (j : Job) : Bool := j.line.isSome || !j.windows.isEmpty

/-- The line of vault memory that a job gathers. -/
def gathered (s : State) (x : JobAt) : Option Gather := (mget (s.core x.core).jobs x.entry).bind (·.line)

/-- The runs of consecutive bytes among masked bytes; cut at the 8-byte pieces where the turn's accesses are performed
piece by piece (R152). -/
def runsOf (late : Bool) : SMap Byte → List (Nat × List Byte)
  | [] => []
  | (o, b) :: r =>
    match runsOf late r with
    | (p, l) :: t => if p = o + 1 ∧ ¬ (late ∧ p % 8 = 0) then (o, b :: l) :: t else (o, [b]) :: (p, l) :: t
    | [] => [(o, [b])]

/-- The run that goes out next: the first, or where the turn's accesses are performed piece by piece a free choice. -/
def nextRun (s : State) (g : Gather) : Option ((Nat × List Byte) × State) :=
  let l := runsOf s.late g.bytes
  if s.late then s.pick l else l.head?.map fun x => (x, s)

/-- What a job gathers after a change; a line with no bytes left is none. -/
def setGathered (s : State) (x : JobAt) (g : Gather) : State :=
  s.modJob x.core x.entry fun j => { j with line := if g.bytes.isEmpty then none else some g }

/-- Whoever waits for a gathered line waits for an access that it has become (R116). -/
def handOver (s : State) (old new : Nat) : State :=
  { s with services := s.services.map fun y =>
      (y.1, { y.2 with waiting := if y.2.waiting.contains old then y.2.waiting ++ [new] else y.2.waiting }) }

/-- A run goes out as one write: a record, or a request to another module; none while there is no room for it. A run that
finds no route stops the job (R125, R131, R133, R244). -/
def sendRun (s : State) (x : JobAt) (g : Gather) (o : Nat) (b : List Byte) : Option State :=
  let a := x.access (g.va + o) (g.pa + o) b.length (.store b)
  let rest := { g with bytes := g.bytes.filter fun y => y.1 < o || o + b.length ≤ y.1 }
  let sent := fun (r : Nat × State) => some (setGathered (handOver r.2 g.id r.1) x rest)
  if g.pa / 2 ^ 48 = s.page.moduleId then
    if queueRoom s (clusterOf x.core) (a.line % 8) then sent (pendRecord s a (recOf .bypw 0 0)) else none
  else if !routeUp s (g.pa / 2 ^ 48) then
    some (s.modJob x.core x.entry fun j => { j with
      line := none, fault := j.fault.or (some (globalTrap .remoteTimeout 0 a.va true)) })
  else if 65535 ≤ (s.core x.core).acks then none
  else sent (pendRemote (s.modCore x.core fun c => { c with acks := c.acks + 1 }) a)

/-- A line of the broadcast window goes out as one transaction with its mask, if there is room for it (R135). -/
def sendWindow (x : JobAt) (s : State) (g : Gather) : State :=
  let w := g.pa % 2 ^ 48 - 0x080000000000
  let a := x.access g.va g.pa 128 (.store [])
  if queueRoom s (clusterOf x.core) (a.line % 8) then
    let r := pendRecord s a { recOf .window 0 0 with bytes := g.bytes.map fun y => (w + y.1, y.2) }
    (handOver r.2 g.id r.1).modJob x.core x.entry fun j => { j with windows := j.windows.filter (·.id != g.id) }
  else s

/-- Does a job do no further piece: it has done all, has met a fault, or is cancelled or recorded. -/
def Job.over (j : Job) : Bool := j.done == j.pieces || j.fault.isSome || j.cancel || j.saved

/-- The lines of the window that go out now: those that have all their bytes, and at the end of the job's pieces every one
(R135). -/
def Job.windowsDue (j : Job) : List Gather := j.windows.filter fun g => j.over || g.bytes.length == 128

/-- The gathered line goes out as far as there is room, n runs at most (R255). -/
def flushLine (s : State) (x : JobAt) : Nat → State
  | 0 => s
  | n + 1 =>
    match gathered s x with
    | none => s
    | some g =>
      match (nextRun s g).bind fun r => sendRun r.2 x g r.1.1 r.1.2 with
      | none => s
      | some s => flushLine s x n

/-- What a job has gathered and is to go out does, as far as there is room (R135, R255). -/
def flushJob (s : State) (core entry : Nat) (j : Job) : State :=
  let x : JobAt := ⟨core, entry, j⟩
  flushLine (j.windowsDue.foldl (sendWindow x) s) x (if j.over || (j.line.bind fun g => mget g.bytes 127).isSome then 128 else 0)

/-- Puts bytes into a gathered line from an offset on. -/
def Gather.put (g : Gather) (o : Nat) (b : List Byte) : Gather :=
  { g with bytes := b.zipIdx.foldl (fun m y => mput m (o + y.2) y.1) g.bytes }

/-- Adds bytes to the line of the window that holds them, new if no bytes of it have been gathered (R135). -/
def putWindow (l : List Gather) (new : Gather) (o : Nat) (b : List Byte) : List Gather :=
  if l.any (·.pa == new.pa) then l.map fun g => if g.pa = new.pa then g.put o b else g else l ++ [new.put o b]

/-- Adds bytes to a line of the window that a job gathers (R135). -/
def gatherWindow (s : State) (x : JobAt) (va pa : Nat) (b : List Byte) : State :=
  let n := s.fresh
  let new : Gather := ⟨pa - pa % 128, va - va % 128, n.1, []⟩
  n.2.modJob x.core x.entry fun j => { j with windows := putWindow j.windows new (pa % 128) b }

/-- A job begins to gather the line of an address with these bytes. -/
def startLine (s : State) (x : JobAt) (va pa : Nat) (b : List Byte) : State :=
  let n := s.fresh
  setGathered n.2 x ⟨pa - pa % 128, va - pa % 128, n.1, b.zipIdx.map fun y => (pa % 128 + y.2, y.1)⟩

/-- Adds bytes to the line that a job gathers; another line goes out first (R135, R255). -/
def gatherBytes (s : State) (x : JobAt) (va pa : Nat) (b : List Byte) : JobStep :=
  match gathered s x with
  | none => .ok [] (startLine s x va pa b)
  | some g =>
    if g.pa = pa - pa % 128 then .ok [] (setGathered s x (g.put (pa % 128) b))
    else
      let s1 := flushLine s x 128
      if (gathered s1 x).isNone then .ok [] (startLine s1 x va pa b) else .later fun s => flushLine s x 128

/-- Queues a write of a job at the home (R131, R255). -/
def jobHome (s : State) (x : JobAt) (va a n : Nat) (op : AccessOp) : JobStep :=
  match jobRecord s x va a n op with
  | some s => .ok [] s
  | none => .wait

/-- Writes bytes of one 8-byte piece at their place (R255). -/
def jobWriteAt (s : State) (x : JobAt) (va : Nat) (b : List Byte) (p : Place) : JobStep :=
  match p with
  | .vault a => gatherBytes s x va (s.page.moduleId * 2 ^ 48 + a) b
  | .window w => .ok [] (gatherWindow s x va (s.page.moduleId * 2 ^ 48 + 0x080000000000 + w) b)
  | .device _ => .fault (globalTrap .perm 0 va true)
  | .remote pa => (gatherBytes s x va pa b).thenDo fun _ s =>
      let renew := fun (y : Nat × List Byte) => if y.1 = va ∧ y.2.length = b.length then (va, b) else y
      .ok [] (s.modJob x.core x.entry fun j => { j with got := j.got.map renew })

/-- Writes bytes from a global address, split at multiples of 8. -/
def jobWrite (s : State) (x : JobAt) (va : Nat) (b : List Byte) : Nat → JobStep
  | 0 => .ok [] s
  | m + 1 =>
    if b.isEmpty then .ok [] s
    else
      let k := min b.length (8 - va % 8)
      (jobResolve s x va false true false fun s p _ => jobWriteAt s x va (b.take k) p).thenDo fun _ s =>
        jobWrite s x (va + k) (b.drop k) m

/-- A byte of a job in a space that is not translated; it waits for a bank whose clock is stopped (R255, R427; log 33). -/
def jobLocal (s : State) (x : JobAt) (sp : Space) (addr : Nat) (write : Bool) (f : Local → JobStep) : JobStep :=
  match s.wg? x.job.wg with
  | none => .fault (spaceTrap .perm sp addr write)
  | some w =>
    match resolveLocal s ⟨x.job.lin, x.job.wg, w, x.job.super⟩ sp addr 1 write with
    | .error c => .fault (spaceTrap c sp addr write)
    | .ok l => if bankRuns s l then f l else .wait

/-- Reads n bytes at an offset from a location. -/
def readLoc (s : State) (x : JobAt) (l : Loc) (o n : Nat) : JobStep :=
  if l.space = .global then jobRead s x (l.addr + o) n n
  else jobLocal s x l.space (l.addr + o) false fun p => .ok (readLocal s p n) s

/-- Writes bytes at an offset from a location. -/
def writeLoc (s : State) (x : JobAt) (l : Loc) (o : Nat) (b : List Byte) : JobStep :=
  if l.space = .global then jobWrite s x (l.addr + o) b b.length
  else jobLocal s x l.space (l.addr + o) true fun p => .ok [] (writeLocal s p b)

/-! Combining (R261). -/

/-- Element size of a combination. -/
def CombineType.size : CombineType → Nat
  | .f32 | .i32 => 4
  | .bf16 => 2

/-- One element combined (R261). -/
def combineElem (t : CombineType) (o : CombineOp) (r s : Nat) : Nat :=
  let a : Word := BitVec.ofNat 32 r
  let b : Word := BitVec.ofNat 32 s
  match t, o with
  | .f32, .add => (fadd a b).toNat
  | .f32, .max => minMaxBits f32Fmt true r s
  | .f32, .min => minMaxBits f32Fmt false r s
  | .bf16, .add => elemAdd bf16Fmt r s
  | .bf16, .max => minMaxBits bf16Fmt true r s
  | .bf16, .min => minMaxBits bf16Fmt false r s
  | .i32, .add => (a + b).toNat
  | .i32, .max => (maxW a b).toNat
  | .i32, .min => (minW a b).toNat

/-- The elements of two byte strings combined. -/
def combineBytes (t : CombineType) (o : CombineOp) (r s : List Byte) : List Byte :=
  let n := r.length / t.size
  ((elements t.size r n).zip (elements t.size s n)).flatMap fun y => natBytes t.size (combineElem t o y.1 y.2)

/-- The RED that a combination is at the home (R395). -/
def CombineType.red : CombineType → AtomOp
  | .f32 => .addF32
  | .bf16 => .addBf16x2
  | .i32 => .addI32

/-- A RED of one word at its home (R395). -/
def jobRed (s : State) (x : JobAt) (va : Nat) (c : AtomOp) (v : Word) : JobStep :=
  jobResolve s x va true true true fun s p _ => match p with
    | .vault a => jobHome s x va a 4 (.red c [v])
    | .remote pa => jobSend s x va pa 4 (.red c [v])
    | .window _ | .device _ => .fault (globalTrap .perm 0 va true)

/-! Boxes. -/

/-- Two codes to the byte, the low nibble first (R200). -/
def packNibbles : List Byte → List Byte
  | a :: b :: r => (a + 16 * b) :: packNibbles r
  | [a] => [a]
  | [] => []

/-- A byte's nibble. -/
def nibble (b : Byte) (i : Nat) : Byte := BitVec.ofNat 8 (b.toNat / 16 ^ i % 16)

/-- Bytes of an element at its address, which must be aligned (R244). -/
def readElem (s : State) (x : JobAt) (size a part n : Nat) : JobStep :=
  if a % size ≠ 0 then .fault (globalTrap .align 0 a false) else jobRead s x (a + part) n n

/-- Bytes of dense box element j, from a part of it on (R247, R260). -/
def denseElem (s : State) (x : JobAt) (sh : Shape) (c : List Int) (j part n : Nat) : JobStep :=
  let q := sh.coords c j
  if !sh.inRange q then .ok (List.replicate n 0) s
  else readElem s x sh.size (sh.addr (natCoords q)) part n

/-- Code of dense box element j of rb4 (R247). -/
def denseCode (s : State) (x : JobAt) (sh : Shape) (c : List Int) (j : Nat) : JobStep :=
  let q := sh.coords c j
  if !sh.inRange q then .ok [0] s
  else (jobRead s x (sh.addr (natCoords q)) 1 1).thenDo fun b s =>
    .ok [nibble (b.headD 0) ((natCoords q).headD 0 % 2)] s

/-- Bytes of element j of a sparse tile whose mask has been read (R248, R260). -/
def sparseElem (s : State) (x : JobAt) (sh : Shape) (tile : Nat) (mask : List Byte) (j part n : Nat) : JobStep :=
  if !maskBit mask j then .ok (List.replicate n 0) s
  else readElem s x sh.size (tile + sh.maskLen + maskCount mask j * sh.size) part n

/-- Code of element j of a sparse tile of rb4 (R248). -/
def sparseCode (s : State) (x : JobAt) (sh : Shape) (tile : Nat) (mask : List Byte) (j : Nat) : JobStep :=
  if !maskBit mask j then .ok [0] s
  else
    let r := maskCount mask j
    (jobRead s x (tile + sh.maskLen + r / 2) 1 1).thenDo fun b s => .ok [nibble (b.headD 0) (r % 2)] s

/-- Box bytes o to o + n, from the elements or the codes that they hold. -/
def boxPart (s : State) (sh : Shape) (o n : Nat) (elem : Nat → Nat → Nat → State → JobStep)
    (code : Nat → State → JobStep) : JobStep :=
  if sh.rb4 then (jobSteps s code ((List.range (2 * n)).map (2 * o + ·))).thenDo fun b s => .ok (packNibbles b) s
  else if 8 ≤ sh.size then elem (o / sh.size) (o % sh.size) n s
  else jobSteps s (fun j => elem j 0 sh.size) ((List.range (n / sh.size)).map (o / sh.size + ·))

/-- Box bytes o to o + n as the tensor gives them (R247, R248, R260). -/
def boxBytes (s : State) (x : JobAt) (sh : Shape) (c : List Int) (o n : Nat) : JobStep :=
  if !sh.sparse then
    boxPart s sh o n (fun j part n s => denseElem s x sh c j part n) (fun j s => denseCode s x sh c j)
  else if !sh.inRange c then .ok (List.replicate n 0) s
  else
    let tile := sh.tile c
    let last := (2 * (o + n) - 1) / fmtHalves sh.fmt
    (jobRead s x tile (last / 8 + 1) (last / 8 + 1)).thenDo fun mask s =>
      boxPart s sh o n (fun j part n s => sparseElem s x sh tile mask j part n) (fun j s => sparseCode s x sh tile mask j)

/-- A byte that a job has gathered. -/
def gatheredByte (s : State) (x : JobAt) (pa : Nat) : Option Byte :=
  let j := mget (s.core x.core).jobs x.entry
  ((j.elim [] fun j => j.line.toList ++ j.windows).find? fun g => g.pa == pa - pa % 128).bind fun g => mget g.bytes (pa % 128)

/-- Stores one code in its nibble; the byte's other code stays (R247). -/
def writeCode (s : State) (x : JobAt) (a i : Nat) (v : Byte) : JobStep :=
  let put := fun (p : Place) (b : Byte) (s : State) => jobWriteAt s x a [nibblePut b (i == 1) v] p
  jobResolve s x a false true false fun s p pa => match gatheredByte s x pa, p with
    | some b, _ => put p b s
    | none, .vault y => jobHome s x a y 1 (.code (i == 1) v)
    | none, _ => (jobReadAt s x a 1 true p).thenDo fun b s => put p (b.headD 0) s

/-- Stores codes at their addresses and nibbles; two that fill a byte are stored together. -/
def writeCodes (s : State) (x : JobAt) : List (Nat × Nat × Byte) → JobStep
  | [] => .ok [] s
  | [(a, i, v)] => writeCode s x a i v
  | (a, i, v) :: (a', i', v') :: r =>
    if a = a' ∧ i = 0 ∧ i' = 1 then (jobWrite s x a [v + 16 * v'] 1).thenDo fun _ s => writeCodes s x r
    else (writeCode s x a i v).thenDo fun _ s => writeCodes s x ((a', i', v') :: r)

/-- Writes box bytes from offset o to the tensor, element by element (R262). -/
def writeBox (s : State) (x : JobAt) (sh : Shape) (c : List Int) (o : Nat) (b : List Byte) : JobStep :=
  if sh.rb4 then
    writeCodes s x ((b.flatMap fun y => [nibble y 0, nibble y 1]).zipIdx.filterMap fun y =>
      let q := sh.coords c (2 * o + y.2)
      if sh.inRange q then some (sh.addr (natCoords q), (natCoords q).headD 0 % 2, y.1) else none)
  else
    let step := min sh.size 8
    jobSteps s (fun i s =>
      let q := sh.coords c ((o + i * step) / sh.size)
      let a := sh.addr (natCoords q)
      if !sh.inRange q then .ok [] s
      else if a % sh.size ≠ 0 then .fault (globalTrap .align 0 a true)
      else jobWrite s x (a + (o + i * step) % sh.size) ((b.drop (i * step)).take step) step) (List.range (b.length / step))

/-! Pieces. -/

/-- Bytes of a job's write region that its pieces cover. -/
def JobWork.length : JobWork → Nat
  | .copy _ _ n | .reduce _ _ _ n _ _ | .fill _ _ n | .collect _ _ n _ => n
  | .boxIn r _ _ | .boxReduce r _ _ _ _ | .boxOut r _ _ => (Shape.ofBytes r).bytes
  | .arm _ n => n
  | .page | .service => 0

/-- 8-byte pieces of a job. -/
def JobWork.pieces (w : JobWork) : Nat := if w.moves then (w.length + 7) / 8 else 0

/-- Bytes of piece i. -/
def JobWork.pieceLen (w : JobWork) (i : Nat) : Nat := min 8 (w.length - 8 * i)

/-- The reads and writes of piece i (R259 to R262, R264, R395). -/
def pieceStep (s : State) (x : JobAt) (i : Nat) : JobStep :=
  let o := 8 * i
  let n := x.job.work.pieceLen i
  match x.job.work with
  | .copy src dst _ => (readLoc s x src o n).thenDo fun b s => writeLoc s x dst o b
  | .reduce src0 src1 dst _ t op =>
    (readLoc s x src0 o n).thenDo fun a s => (readLoc s x src1 o n).thenDo fun b s =>
      writeLoc s x dst o (combineBytes t op a b)
  | .fill v dst _ => writeLoc s x dst o ((natBytes 4 v.toNat ++ natBytes 4 v.toNat).take n)
  | .boxIn r c base => (boxBytes s x (Shape.ofBytes r) c o n).thenDo fun b s => writeLoc s x ⟨.scratch, base⟩ o b
  | .boxReduce r c base t op =>
    (boxBytes s x (Shape.ofBytes r) c o n).thenDo fun b s => (readLoc s x ⟨.scratch, base⟩ o n).thenDo fun a s =>
      writeLoc s x ⟨.scratch, base⟩ o (combineBytes t op a b)
  | .boxOut r c base => (readLoc s x ⟨.scratch, base⟩ o n).thenDo fun b s => writeBox s x (Shape.ofBytes r) c o b
  | .collect src dst _ t => (readLoc s x src o n).thenDo fun b s =>
      jobSteps s (fun j s => jobRed s x (dst.addr + o + 4 * j) t.red (BitVec.ofNat 32 (fieldAt b (4 * j) 4)))
        (List.range (n / 4))
  | .arm _ _ | .page | .service => .wait

/-- Has a job accesses under way. -/
def jobPending (s : State) (core entry : Nat) : Bool :=
  s.accs.any fun x => x.2.core == core && x.2.job == some entry

/-- Do two regions share a byte (R263). -/
def Region.meets (a b : Region) : Bool :=
  a.space == b.space && decide (a.addr < b.addr + b.len) && decide (b.addr < a.addr + a.len)

/-- Is a space one memory for two jobs: G regions of one core are compared by virtual address alone (R263; log 34). -/
def sameSpace (a b : Job) (sp : Space) : Bool :=
  match sp with
  | .slice => a.wg == b.wg && a.lin == b.lin
  | .scratch | .window => a.wg == b.wg
  | .wafer => true
  | .global => true

/-- Do the footprints of two jobs overlap in bytes that one of them writes (R169, R263). -/
def conflicts (a b : Job) : Bool :=
  let hits := fun (x y : Region) => x.meets y && sameSpace a b x.space
  (a.write.toList.any fun x => (b.write.toList ++ b.reads).any (hits x))
    || (b.write.toList.any fun y => a.reads.any fun x => hits x y)

/-- The bytes of a region that lie in another. -/
def Region.clip (a b : Region) : Option Region :=
  let lo := max a.addr b.addr
  let hi := min (a.addr + a.len) (b.addr + b.len)
  if a.space == b.space && decide (lo < hi) then some ⟨a.space, lo, hi - lo⟩ else none

/-- Bytes o to o + n from a location. -/
def Loc.part (l : Loc) (o n : Nat) : Region := ⟨l.space, l.addr + o, n⟩

/-- What bytes o to o + n of a job's transfer read and write, as far as their places follow from the offset: the rest of the
footprint is taken for any piece of a box (R169, R259 to R264). -/
def JobWork.touches (w : JobWork) (j : Job) (o n : Nat) : List Region × List Region :=
  match w with
  | .copy src dst _ | .collect src dst _ _ => ([src.part o n], [dst.part o n])
  | .reduce a b dst _ _ _ => ([a.part o n, b.part o n], [dst.part o n])
  | .fill _ dst _ => ([], [dst.part o n])
  | .boxIn _ _ base => (j.reads, [⟨.scratch, base + o, n⟩])
  | .boxReduce _ _ base _ _ => (j.reads, [⟨.scratch, base + o, n⟩])
  | .boxOut _ _ base => ([⟨.scratch, base + o, n⟩], j.write.toList)
  | .arm _ _ | .page | .service => ([], [])

/-- A job with only those bytes of its footprint that a part of its transfer touches: accesses outside the declared regions
are ordered by none (R169). -/
def Job.only (j : Job) (o n : Nat) (more : List Region) : List Region × List Region :=
  let t := j.work.touches j o n
  let within := fun (l m : List Region) => l.flatMap fun x => m.filterMap x.clip
  (within t.1 j.reads, within (t.2 ++ more) j.write.toList)

/-- What a job has written and not yet seen performed: the lines that it gathers, and its accesses under way. -/
def openWrites (s : State) (core entry : Nat) (j : Job) : List Region :=
  ((j.line.toList ++ j.windows).map fun g => ⟨.global, g.va, 128⟩)
    ++ (s.accs.filter fun x => x.2.core == core && x.2.job == some entry).map fun x => ⟨.global, x.2.va, x.2.size⟩

/-- Has an earlier job something still to do on bytes that the next piece of a later one touches, one of the two writing
them (R169; log 34). -/
def holdsBack (s : State) (core : Nat) (e : Nat) (a b : Job) : Bool :=
  let x := a.only (8 * a.done) (a.work.length - 8 * a.done) (openWrites s core e a)
  let y := b.only (8 * b.done) (b.work.pieceLen b.done) []
  let hits := fun (l m : List Region) => l.any fun p => m.any fun q => p.meets q && sameSpace a b p.space
  hits x.2 (y.1 ++ y.2) || hits x.1 y.2

/-- Does a job's next piece wait for an earlier job (R169; log 34). -/
def jobBlocked (s : State) (core : Nat) (j : Job) : Bool :=
  (s.core core).jobs.any fun y => decide (y.2.order < j.order) && y.2.work.moves && conflicts y.2 j && holdsBack s core y.1 y.2 j

/-- Does a job count bytes against a barrier object (R256). -/
def Job.counts (j : Job) : Bool :=
  match j.sync with
  | .barrier _ => true
  | .none | .flag _ => false

/-- Bytes of a job that have taken their place and are not yet counted (R171). -/
def countable (s : State) (core entry : Nat) (j : Job) : Nat :=
  if jobPending s core entry || j.gathers then j.toCount else j.toCount + j.owed

/-- Can a job's next piece be done now. -/
def jobReady (s : State) (core entry : Nat) (j : Job) : Bool :=
  j.work.moves && !j.saved && j.fault.isNone && !j.cancel && decide (j.done < j.pieces)
    && !jobPending s core entry && !jobBlocked s core j

/-- Does a job keep what it has read between its pieces: the mask of a tile. -/
def JobWork.keepsGot : JobWork → Bool
  | .boxIn r _ _ => (Shape.ofBytes r).sparse
  | .copy _ _ _ | .reduce _ _ _ _ _ _ | .fill _ _ _ | .boxReduce _ _ _ _ _ | .boxOut _ _ _ | .arm _ _
  | .collect _ _ _ _ | .page | .service => false

/-- A job after its next piece; bytes counted once their writes have taken their place (R171). -/
def Job.pieceDone (j : Job) (settled : Nat) : Job :=
  { j with
    done := j.done + 1
    toCount := if j.counts then settled else 0
    owed := if j.counts then (j.toCount + j.owed - settled) + j.work.pieceLen j.done else 0
    got := if j.work.keepsGot then j.got else [] }

/-- Is something that the job has gathered to go out now: a line that is full to its end, a line of the window that has all
its bytes, or whatever there is when the job does no further piece (R135, R255). -/
def Job.lineEnds (j : Job) : Bool :=
  !j.windowsDue.isEmpty || (match j.line with
    | none => false
    | some g => j.over || (mget g.bytes 127).isSome)

/-- The engine does a job's next piece. -/
def runPiece (s : State) (core entry : Nat) (j : Job) : State :=
  match pieceStep s ⟨core, entry, j⟩ j.done with
  | .wait => s
  | .later ask => ask s
  | .fault ti => s.modJob core entry fun j => { j with fault := some ti }
  | .ok _ s' =>
    let settled := countable s core entry j
    let s1 := (forget s' (.job core entry)).modJob core entry fun x => x.pieceDone settled
    let s1 := s1.modCore core fun c => { c with
      counters := { c.counters with bytes := c.counters.bytes + j.work.pieceLen j.done } }
    match mget (s1.core core).jobs entry with
    | some j => flushJob s1 core entry j
    | none => s1

/-- The lines that are to go out do, as far as there is room. -/
def flushEnded (s : State) (core : Nat) : State :=
  ((s.core core).jobs.filter fun x => x.2.lineEnds).foldl (fun s x => flushJob s core x.1 x.2) s

/-- Turns of the engine, shared among the jobs whose next piece can be done (R241). -/
def engineTurns (s : State) (core : Nat) : Nat → State
  | 0 => s
  | n + 1 =>
    let l := (s.core core).jobs.filter fun x => jobReady s core x.1 x.2
    match l[n % l.length]? with
    | some (e, j) => engineTurns (runPiece s core e j) core n
    | none => s

/-- COPY_ENGINE_CYCLE: up to 128 bytes, 16 pieces (R241). -/
def execCopyEngineCycle (core : Nat) (s : State) : Out := whenCan (coreRuns s core) (engineTurns (flushEnded s core) core 16) s

/-! Counts. -/

/-- Counts bytes of a job against its barrier object: the state, and whether the count marks the job (R256). -/
def countJob (s : State) (j : Job) (n : Nat) : State × Bool :=
  match j.sync, s.wg? j.wg with
  | .barrier l, some w =>
    if n = 0 then (s, false)
    else match resolveLocal s ⟨j.lin, j.wg, w, true⟩ l.space l.addr 32 false with
      | .ok p => countBytes s p n
      | .error _ => (s, false)
  | _, _ => (s, false)

/-- Does the clock run of the bank at which a job counts its bytes (R427). -/
def syncRuns (s : State) (j : Job) : Bool :=
  match j.sync with
  | .none => true
  | .barrier l => l.space != .wafer || waferRuns s l.addr 32
  | .flag o => waferRuns s o 4

/-- BARRIER_BYTE_COUNT (R171, R256): up to count bytes of a job reach its barrier object. -/
def execBarrierByteCount (core entry count : Nat) (s : State) : Out :=
  match mget (s.core core).jobs entry with
  | none => .next s
  | some j =>
    let all := countable s core entry j
    let n := min count all
    if !j.counts || n == 0 || !syncRuns s j then .next s
    else
      let r := countJob s j n
      .next (r.1.modJob core entry fun j => { j with
        toCount := all - n, owed := j.toCount + j.owed - all, marked := j.marked || r.2 })

/-! Ends. -/

/-- The status that a job that has stopped takes (R256). -/
def Job.final (j : Job) (marked : Bool) : JobStatus × Option TrapInfo :=
  match j.fault with
  | some ti => (.faulted, some ti)
  | none =>
    if marked then (.faulted, some (overflowTrap j.sync))
    else if j.done < j.pieces then (.cancelled, none)
    else (.done, none)

/-- What a job's end does to its buffer entry (R251). -/
def endEntry (s : State) (core : Nat) (j : Job) (st : JobStatus) : State :=
  match j.entry, j.work with
  | some e, .boxIn _ _ _ | some e, .boxReduce _ _ _ _ _ => s.modBuf core e fun b => b.filled (st == .done)
  | some e, .boxOut _ _ _ => s.modBuf core e BufEntry.drained
  | _, _ => s

/-- A job that reads or writes memory ends: what is left is counted, a chunk flag is added to if all was
written, and the handle completes (R256). -/
def endMove (s : State) (core entry : Nat) (j : Job) : State :=
  let left := j.toCount + j.owed + (j.work.length - min j.work.length (8 * j.done))
  let r := countJob s j left
  let f := j.final (j.marked || r.2)
  let s := match j.sync with
    | .flag o => if f.1 = .done then addFlag r.1 o else r.1
    | .none | .barrier _ => r.1
  closeJob (endEntry (forget s (.job core entry)) core j f.1) core entry f.1 f.2

/-- An ARM that ends before its bytes have come: they are counted against a barrier all the same (R256, R265). -/
def endArm (s : State) (core entry : Nat) (j : Job) (n : Nat) (st : JobStatus) (trap : Option TrapInfo) : State :=
  let r := countJob { s with chunks := s.chunks.filter fun c => c.handle ≠ some (j.wg, j.num) } j n
  if r.2 && st == .cancelled then closeJob r.1 core entry .faulted (some (overflowTrap j.sync))
  else closeJob r.1 core entry st trap

/-- Marks the handle of a page request CANCELLED; the request stays in service (R112). -/
def cancelPage (s : State) (h : Nat × Nat) : State :=
  let drop := fun (r : PageReq) => { r with handles := r.handles.filter (· ≠ h) }
  let strip := fun (c : Core) => { c with pageReqs := c.pageReqs.map fun e => (e.1, drop e.2) }
  closeHandle { s with cores := s.cores.map fun c => (c.1, strip c.2) } h .cancelled

/-- JOB_COMPLETION: a job that has done all its pieces, has met a fault or has been cancelled ends, once its
accesses have been performed and acknowledged (R170, R244, R256, R265). -/
def execJobCompletion (core entry : Nat) (s : State) : Out :=
  match mget (s.core core).jobs entry with
  | none => .next s
  | some j =>
    match j.work with
    | .arm _ n => whenCan (j.cancel && !j.saved && syncRuns s j) (endArm s core entry j n .cancelled none) s
    | .page => whenCan j.cancel (cancelPage s (j.wg, j.num)) s
    | .service => .next s
    | _ =>
      whenCan (j.over && !j.saved && !j.gathers && !jobPending s core entry && syncRuns s j) (endMove s core entry j) s

/-- JOB_DRAIN_TIMEOUT: 3,200 cycles after the jobs of a cluster group that is being saved began to drain, those that have not completed
are recorded (R270). group is the key of a workgroup of the group. -/
def execJobDrainTimeout (group : Nat) (s : State) : Out :=
  match s.wg? group with
  | none => .next s
  | some w =>
    let due := s.launch.saving.any fun x =>
      x.1 == w.coords.launch && x.2.1 == w.coords.group && (match x.2.2 with
        | some t => decide (t + 3200 ≤ s.cycles w.core)
        | none => false)
    let mine := groupWgs s w.coords.launch w.coords.group
    let record := fun (e : Nat × Job) => if mine.contains e.2.wg then (e.1, { e.2 with saved := true }) else e
    whenCan due { s with cores := s.cores.map fun c => (c.1, { c.2 with jobs := c.2.jobs.map record }) } s

end Sys2Proof.Machine
end

