-- ==== Sys2Proof/Machine/Copy.lean ====
section
/-! DEFINITION. The copy instructions and JOB cards: their checks at issue (R253 to R264), ARM (R265), and
BUFQ and BUFREL (R251, R252). -/

namespace Sys2Proof.Machine

/-! Checks. -/

/-- Space of a code (R23). -/
def spaceAt : Nat → Option Space
  | 0 => some .slice
  | 1 => some .scratch
  | 2 => some .window
  | 3 => some .wafer
  | 4 => some .global
  | _ => none

/-- What a thread's jobs reach outside the global space. -/
def localCtx (t : Thread) (w : Workgroup) : LocalCtx := ⟨t.lin, t.wg, w, supervisor t w⟩

/-- Do n bytes from a W offset lie in a grant, and may they be written (R135, R210). -/
def grantOk (s : State) (super : Bool) (lo hi addr n : Nat) (write : Bool) : Bool :=
  (super || (decide (lo ≤ addr) && decide (addr + n ≤ hi))) && decide (addr + n ≤ 2 ^ 32)
    && !(write && s.bwin && decide (12 * 2 ^ 20 < addr % 2 ^ 24 + n))

/-- Are n bytes from a base within the bounds of their space (R209, R210, R135, R258). -/
def rangeOk (s : State) (x : LocalCtx) (l : Loc) (n : Nat) (write : Bool) : Bool :=
  match l.space with
  | .global => true
  | .slice => decide (l.addr + n ≤ x.w.sizes.slice)
  | .scratch => decide (l.addr + n ≤ x.w.sizes.scratch)
  | .window => (match resolveLocal s x .window l.addr 1 write with
      | .ok _ => decide (l.addr % 2 ^ 24 + n ≤ x.w.sizes.window)
      | .error _ => false)
  | .wafer => grantOk s x.super x.w.grantLo x.w.grantHi l.addr n write

/-- A trap that names a place. -/
def locTrap (c : Cause) (l : Loc) (write : Bool) : TrapInfo := spaceTrap c l.space l.addr write

/-- The alignment of addresses, each a multiple of 4, then of the length, then the bounds (R258, R259). -/
def checkPlaces (s : State) (x : LocalCtx) (n : Nat) (l : List (Loc × Bool)) : Option TrapInfo :=
  match l.find? fun y => y.1.addr % 4 != 0 with
  | some y => some (locTrap .align y.1 y.2)
  | none =>
    if n % 4 ≠ 0 then some { cause := .align }
    else (l.find? fun y => !rangeOk s x y.1 n y.2).map fun y => locTrap .perm y.1 y.2

/-- The sync location (R256). -/
def syncOf (s : State) (x : LocalCtx) (code addr : Nat) : Except TrapInfo JobSync :=
  if code = 0 then .ok .none
  else
    let sp : Space := if code = 1 then .scratch else if code = 2 then .window else .wafer
    match resolveLocal s x sp addr (if code = 4 then 4 else 32) true with
    | .error c => .error (spaceTrap c sp addr true)
    | .ok _ => .ok (if code = 4 then .flag addr else .barrier ⟨sp, addr⟩)

/-- Issues a job whose places have been checked: the sync location, then a job number and a table entry (R258). -/
def issueJob (s : State) (k : Nat) (t : Thread) (w : Workgroup) (h : HReg) (sync addr : Nat) (j : Job)
    (f : State → State) : Effect :=
  match syncOf s (localCtx t w) sync addr with
  | .error ti => .trap s ti
  | .ok y =>
    match openJob s k t w h { j with sync := y, pieces := j.work.pieces } with
    | none => .wait s .jobTable
    | some (_, _, s) => .next (f s)

/-! The copy block. -/

/-- The control word (R254). -/
structure CopyCtl where
  rtype  : Nat
  rop    : Nat
  stream : Bool
  sync   : Nat
  dspace : Nat
  sspace : Nat
  slot   : Nat

/-- The fields of a control word; none where a bit that is not named is set or SYNC is reserved (R254). -/
def copyCtl? (v : Nat) : Option CopyCtl :=
  if 2 ^ 19 ≤ v ∨ 4 < bitsNat v 11 3 then none
  else some ⟨bitsNat v 17 2, bitsNat v 15 2, v.testBit 14, bitsNat v 11 3, bitsNat v 8 3, bitsNat v 5 3, v % 32⟩

/-- Register a + n of the copy block. -/
def blockReg (t : Thread) (a : Reg) (n : Nat) : Word := t.rdG (a + BitVec.ofNat 6 n)

/-- An address of the copy block in a space (R253). -/
def blockLoc (t : Thread) (a : Reg) (n : Nat) (sp : Space) : Loc :=
  ⟨sp, if sp = .global then (t.rdPair (a + BitVec.ofNat 6 n)).toNat else (blockReg t a n).toNat⟩

/-- The longest CPY (R259). -/
def maxCopy : Nat := 2 ^ 24

/-- Region of n bytes at a place. -/
def Loc.region (l : Loc) (n : Nat) : Region := ⟨l.space, l.addr, n⟩

/-- CPY in one thread (R259). -/
def copyPlain (s : State) (k : Nat) (t : Thread) (w : Workgroup) (a : Reg) (h : HReg) (sc : Scope) : Effect :=
  match copyCtl? (blockReg t a 0).toNat with
  | none => .trap s { cause := .illegalOp }
  | some c =>
    match spaceAt c.sspace, spaceAt c.dspace with
    | some ss, some ds =>
      let n := (blockReg t a 1).toNat
      let src := blockLoc t a 4 ss
      let dst := blockLoc t a 6 ds
      if c.rtype ≠ 0 ∨ c.rop ≠ 0 ∨ c.slot ≠ 0 ∨ blockReg t a 3 ≠ 0 ∨ n = 0 ∨ maxCopy < n then
        .trap s { cause := .illegalOp }
      else match checkPlaces s (localCtx t w) n [(src, false), (dst, true)] with
        | some ti => .trap s ti
        | none => issueJob s k t w h c.sync (blockReg t a 2).toNat
            { jobOf t w (.copy src dst n) with
              scope := sc, stream := c.stream, reads := [src.region n], write := some (dst.region n) } id
    | _, _ => .trap s { cause := .illegalOp }

/-- CPY (R258, R259). -/
def execCpy (a : Reg) (h : HReg) (sc : Scope) (p : PReg) (s : State) : Out :=
  perThread (.cpy a h sc p) p (fun s k _ => withWg s k fun t w =>
    if a.toNat % 8 ≠ 0 then .trap s { cause := .illegalOp }
    else jobGate s k t fun s t => copyPlain s k t w a h sc) s

/-! The shape copies. -/

/-- The four shape copies (R257). -/
inductive BoxKind where
  | dense | sparse | out | reduce
deriving DecidableEq, Repr

/-- Do the fields that a shape copy does not use hold zero, and are RTYPE and ROP defined (R254). -/
def boxCtlOk (kind : BoxKind) (c : CopyCtl) : Bool :=
  c.dspace == 0 && c.sspace == 0 && (if kind = .reduce then c.rtype != 3 && c.rop != 3 else c.rtype == 0 && c.rop == 0)

/-- RTYPE (R254). -/
def combineType (n : Nat) : CombineType := if n = 0 then .f32 else if n = 1 then .bf16 else .i32
/-- ROP (R254). -/
def combineOp (n : Nat) : CombineOp := if n = 0 then .add else if n = 1 then .max else .min

/-- May a shape copy take the buffer entry (R251). -/
def entryAccepts (kind : BoxKind) (b : BufEntry) (wg : Nat) : Bool :=
  b.opens wg && (match kind with
    | .dense | .sparse => b.st == .free
    | .reduce => b.st == .free || b.st == .full
    | .out => b.st == .full || (b.st == .draining && !b.release))

/-- The entry's transition as the job is accepted (R251). -/
def BufEntry.taken (b : BufEntry) (kind : BoxKind) (wg base extent : Nat) : BufEntry :=
  match kind with
  | .out => { b with st := .draining, cpyos := b.cpyos + 1 }
  | .dense | .sparse | .reduce =>
    if b.st = .full then { b with st := .filling }
    else { b with st := .filling, owner := wg, base := base, extent := extent, cpyos := 0, release := false }

/-- The job of a shape copy (R260 to R263). -/
def boxJob (t : Thread) (w : Workgroup) (kind : BoxKind) (c : CopyCtl) (rec : List Byte) (coords : List Int)
    (base : Nat) : Job :=
  let x := Shape.ofBytes rec
  let here : Region := ⟨.scratch, base, x.bytes⟩
  match kind with
  | .dense | .sparse =>
    { jobOf t w (.boxIn rec coords base) with reads := x.span coords, write := some here }
  | .reduce =>
    { jobOf t w (.boxReduce rec coords base (combineType c.rtype) (combineOp c.rop)) with
      reads := x.span coords ++ [here], write := some here }
  | .out =>
    { jobOf t w (.boxOut rec coords base) with reads := [here], write := (x.span coords).head? }

/-- A shape copy in one thread, once its control word has been read: the checks in the order of R258. The engine takes
none that names a slot whose record is on its way (R250). -/
def copyBox (s : State) (k : Nat) (t : Thread) (w : Workgroup) (kind : BoxKind) (e a : Reg) (h : HReg) (sc : Scope)
    (c : CopyCtl) : Effect :=
  if slotLoading s (coreOf k) c.slot then .wait s .jobTable
  else match mget (s.core (coreOf k)).shapes c.slot with
  | none => .trap s { cause := .perm }
  | some slot =>
    let x := Shape.ofBytes slot.bytes
    let coords := (List.range x.rank).map fun i => (blockReg t a (3 + i)).toInt
    let b := (s.core (coreOf k)).buf e.toNat
    let off := (blockReg t a 1).toNat
    let kept := kind == .reduce && b.st == .full
    let limit := if kind = .out then b.extent else w.sizes.scratch
    if slot.owner ≠ t.wg then .trap s { cause := .perm }
    else if x.sparse != (kind == .sparse) then .trap s { cause := .illegalOp }
    else if kind == .reduce && (x.rb4 || x.size != (combineType c.rtype).size) then .trap s { cause := .illegalOp }
    else if kind == .sparse && (coords.zip x.boxes).any fun y => y.1 % (y.2 : Int) != 0 then .trap s { cause := .align }
    else if !entryAccepts kind b t.wg then .trap s { cause := .bufState }
    else if kept && (off != b.base || x.bytes != b.extent) then .trap s { cause := .illegalOp }
    else if off % 16 ≠ 0 then .trap s (spaceTrap .align .scratch off (kind != .out))
    else if limit < off + x.bytes then .trap s (spaceTrap .perm .scratch off (kind != .out))
    else
      let base := if kind = .out then b.base + off else off
      issueJob s k t w h c.sync (blockReg t a 2).toNat
        { boxJob t w kind c slot.bytes coords base with scope := sc, stream := c.stream, entry := some e.toNat }
        fun s => s.modBuf (coreOf k) e.toNat fun b => b.taken kind t.wg off x.bytes

/-- CPYT, CPYS, CPYR and CPYO in each thread (R258). -/
def shapeCopy (i : Instr) (kind : BoxKind) (e a : Reg) (h : HReg) (sc : Scope) (p : PReg) (s : State) : Out :=
  perThread i p (fun s k _ => withWg s k fun t w =>
    if a.toNat % 8 ≠ 0 then .trap s { cause := .illegalOp }
    else jobGate s k t fun s t =>
      match copyCtl? (blockReg t a 0).toNat with
      | none => .trap s { cause := .illegalOp }
      | some c => if !boxCtlOk kind c then .trap s { cause := .illegalOp } else copyBox s k t w kind e a h sc c) s

/-- CPYT (R260). -/
def execCpyt (b a : Reg) (h : HReg) (sc : Scope) (p : PReg) (s : State) : Out := shapeCopy (.cpyt b a h sc p) .dense b a h sc p s
/-- CPYS (R260). -/
def execCpys (b a : Reg) (h : HReg) (sc : Scope) (p : PReg) (s : State) : Out := shapeCopy (.cpys b a h sc p) .sparse b a h sc p s
/-- CPYO (R262). -/
def execCpyo (b a : Reg) (h : HReg) (sc : Scope) (p : PReg) (s : State) : Out := shapeCopy (.cpyo b a h sc p) .out b a h sc p s
/-- CPYR (R261). -/
def execCpyr (b a : Reg) (h : HReg) (sc : Scope) (p : PReg) (s : State) : Out := shapeCopy (.cpyr b a h sc p) .reduce b a h sc p s

/-! JOB cards. -/

/-- A card's fields (R264). -/
structure Card where
  op     : Nat
  rop    : Nat
  rtype  : Nat
  space0 : Space
  space1 : Space
  spaceD : Space
  sync   : Nat
  stream : Bool
  len    : Nat
  src0   : Nat
  src1   : Nat
  dst    : Nat
  loc    : Nat
  reads  : List Region
  write  : Option Region

/-- A declared region: none if it breaks R264, absent if it is not valid. -/
def cardRegion (b : List Byte) : Option (Option Region) :=
  let c := fieldAt b 12 4
  match spaceAt (c % 8) with
  | none => none
  | some sp =>
    if 16 ≤ c ∨ (sp ≠ .global ∧ 2 ^ 32 ≤ fieldAt b 0 8) then none
    else some (if c.testBit 3 then some ⟨sp, fieldAt b 0 8, fieldAt b 8 4⟩ else none)

/-- Does a card hold zero in the fields that its OP does not use, and in the high half of an address that is not
global (R264). -/
def cardUses (x : Card) : Bool :=
  let low := fun (sp : Space) (a : Nat) => sp == .global || decide (a < 2 ^ 32)
  let none0 := x.space0 == .slice && x.src0 == 0
  let none1 := x.space1 == .slice && x.src1 == 0
  low x.spaceD x.dst && (match x.op with
    | 0 => low x.space0 x.src0 && none1 && x.rop == 0 && x.rtype == 0
    | 1 => low x.space0 x.src0 && low x.space1 x.src1 && x.rop != 3 && x.rtype != 3
    | 2 => none0 && x.space1 == .slice && decide (x.src1 < 2 ^ 32) && x.rop == 0 && x.rtype == 0
    | 3 => none0 && none1 && x.rop == 0 && x.rtype == 0 && !x.stream && decide (3 ≤ x.sync)
        && (x.spaceD == .global || x.spaceD == .wafer)
    | _ => false)

/-- Reads a card; none where a field breaks R264. -/
def card? (b : List Byte) : Option Card :=
  let c := fieldAt b 0 4
  let n := fieldAt b 4 4
  match spaceAt (bitsNat c 8 3), spaceAt (bitsNat c 11 3), spaceAt (bitsNat c 14 3) with
  | some s0, some s1, some sd =>
    (match cardRegion (b.drop 64), cardRegion (b.drop 80), cardRegion (b.drop 96) with
    | some f0, some f1, some fw =>
      let x : Card := ⟨c % 16, bitsNat c 4 2, bitsNat c 6 2, s0, s1, sd, bitsNat c 17 3, c.testBit 20, n,
        fieldAt b 8 8, fieldAt b 16 8, fieldAt b 24 8, fieldAt b 32 4, f0.toList ++ f1.toList, fw⟩
      if 2 ^ 21 ≤ c ∨ 4 < x.sync ∨ n < 4 ∨ maxCopy < n ∨ n % 4 ≠ 0 ∨ fieldAt b 36 28 ≠ 0 ∨ fieldAt b 112 16 ≠ 0
        then none
      else if cardUses x then some x else none
    | _, _, _ => none)
  | _, _, _ => none

/-- The watched range of an ARM in parts: none where it must be waited for (R265). A global range is translated
page by page, needing U; DESIGN CHOICE (log 35): one outside this module's vault region ends the job FAULTED with PERM. -/
def watchParts (tr : State → Nat → Translated × State) (s : State) (va n : Nat) :
    Nat → Option (Except TrapInfo (List (Nat × Nat))) × State
  | 0 => (some (.ok []), s)
  | m + 1 =>
    if n = 0 then (some (.ok []), s)
    else
      let k := min n (2 ^ 14 - va % 2 ^ 14)
      let r := tr s va
      match r.1 with
      | .busy => (none, r.2)
      | .trap c info => (some (.error (globalTrap c info va false)), r.2)
      | .absent _ _ => (some (.error (globalTrap .pageAbsent 0 va false)), r.2)
      | .pa pa =>
        if pa / 2 ^ 48 % 1024 ≠ r.2.page.moduleId ∨ !inVault (pa % 2 ^ 48) then
          (some (.error (globalTrap .perm 0 va false)), r.2)
        else match watchParts tr r.2 (va + k) (n - k) m with
          | (some (.ok l), s) => (some (.ok ((pa % 2 ^ 48, k) :: l)), s)
          | y => y

/-- Do two lists of ranges share an address. -/
def partsMeet (a b : List (Nat × Nat)) : Bool :=
  a.any fun x => b.any fun y => decide (x.1 < y.1 + y.2) && decide (y.1 < x.1 + x.2)

/-- Can a chunk be armed: the table has room, and its range meets no other (R265). -/
def canArm (s : State) (sp : Space) (parts : List (Nat × Nat)) : Bool :=
  decide (s.chunks.length < 1024) && !(s.chunks.any fun c => c.space == sp && partsMeet c.parts parts)

/-- ARM (R265). Its range is translated as a job's, through no lane register (R244, R258). -/
def issueArm (s : State) (k lane : Nat) (t : Thread) (w : Workgroup) (h : HReg) (sc : Scope) (x : Card) : Effect :=
  let job := { jobOf t w (.arm ⟨x.spaceD, x.dst⟩ x.len) with scope := sc, reads := x.reads, write := x.write }
  let parts := if x.spaceD = .global then
      watchParts (fun s va => translate s { ctxOf k lane t w with lane := none } va false false) s x.dst x.len (x.len / 2 ^ 14 + 2)
    else (some (.ok [(x.dst, x.len)]), s)
  match parts with
  | (none, s) => .wait s .busy
  | (some ps, s) =>
    match syncOf s (localCtx t w) x.sync x.loc with
    | .error ti => .trap s ti
    | .ok y =>
      match openJob s k t w h { job with sync := y } with
      | none => .wait s .jobTable
      | some (num, e, s) =>
        match ps with
        | .error ti => .next (endArm s (coreOf k) e { job with num := num, sync := y } x.len .faulted (some ti))
        | .ok l =>
          if canArm s x.spaceD l then
            .next { s with chunks := s.chunks ++ [⟨some (t.wg, num), x.spaceD, l, x.len, x.len, y, none⟩] }
          else .next (closeJob s (coreOf k) e .refused none)

/-- The work and the places of a COPY, REDUCE or FILL card. -/
def cardWork (x : Card) : JobWork × List (Loc × Bool) :=
  let a : Loc := ⟨x.space0, x.src0⟩
  let b : Loc := ⟨x.space1, x.src1⟩
  let d : Loc := ⟨x.spaceD, x.dst⟩
  match x.op with
  | 0 => (.copy a d x.len, [(a, false), (d, true)])
  | 1 => (.reduce a b d x.len (combineType x.rtype) (combineOp x.rop), [(a, false), (b, false), (d, true)])
  | _ => (.fill (BitVec.ofNat 32 x.src1) d x.len, [(d, true)])

/-- A card that has been read: its checks in the order of R258 (R264). -/
def issueCard (s : State) (k lane : Nat) (t : Thread) (w : Workgroup) (h : HReg) (sc : Scope) (x : Card) : Effect :=
  if x.op = 3 then
    match checkPlaces s (localCtx t w) x.len [(⟨x.spaceD, x.dst⟩, false)] with
    | some ti => .trap s ti
    | none => issueArm s k lane t w h sc x
  else
    let y := cardWork x
    match checkPlaces s (localCtx t w) x.len y.2 with
    | some ti => .trap s ti
    | none => issueJob s k t w h x.sync x.loc
        { jobOf t w y.1 with scope := sc, stream := x.stream, reads := x.reads, write := x.write } id

/-- JOB (R264). -/
def execJob (a : Reg) (h : HReg) (sc : Scope) (p : PReg) (s : State) : Out :=
  perThread (.job a h sc p) p (fun s k lane => withWg s k fun t w => jobGate s k t fun s t =>
    let off := (t.rdG a).toNat
    match resolveLocal s (localCtx t w) .scratch off 128 false with
    | .error c => .trap s (spaceTrap c .scratch off false)
    | .ok l =>
      match card? (readLocal s l 128) with
      | none => .trap s { cause := .illegalOp }
      | some x => issueCard s k lane t w h sc x) s

/-! Buffer entries. -/

/-- What BUFQ reads of an entry (R252). -/
def bufWord (b : BufEntry) (wg : Nat) : Nat :=
  let st := match b.st with
    | .free => 0
    | .filling => 1
    | .full => 2
    | .draining => 3
  st + bitAt (b.owner == wg) 2 + bitAt b.release 3 + (if b.owner = wg then b.extent * 2 ^ 11 else 0)

/-- BUFQ (R252). -/
def execBufq (b a : Reg) (p : PReg) (s : State) : Out :=
  perThread (.bufq b a p) p (fun s k _ => withThread s k fun t =>
    .next (s.setThread k (t.countResult [.g a (BitVec.ofNat 32 (bufWord ((s.core (coreOf k)).buf b.toNat) t.wg))]))) s

/-- BUFREL's transition (R251). -/
def BufEntry.released (b : BufEntry) : BufEntry :=
  if b.st = .full ∧ b.ldbs = 0 then BufEntry.empty else { b with st := .draining, release := true }

/-- BUFREL (R251). -/
def execBufrel (b : Reg) (p : PReg) (s : State) : Out :=
  perThread (.bufrel b p) p (fun s k _ => withThread s k fun t =>
    let x := (s.core (coreOf k)).buf b.toNat
    if !x.opens t.wg || x.st == .free || x.st == .filling then .trap s { cause := .bufState }
    else .next (s.modBuf (coreOf k) b.toNat BufEntry.released)) s

end Sys2Proof.Machine
end

