-- ==== Sys2Proof/Machine/Uniform.lean ====
section
/-! DEFINITION. Uniform forms (R60, R294 to R296). -/

namespace Sys2Proof.Machine

/-- What the members of a troupe may read in a uniform register: its settled value, and an older one
while every member still has a clause boundary to reach (R296). -/
def sregViews (w : Workgroup) (lins : List Nat) (r : Reg) : List Word :=
  let now := w.sregs[r.toNat]'r.isLt
  let old := (w.stale.filter fun u => u.reg == r && lins.all (u.readers.contains ·)).map (·.value)
  now :: (old.filter (· != now)).eraseDups

/-- One of the values a troupe may read (log 10). -/
def rdS (s : State) (w : Workgroup) (lins : List Nat) (r : Reg) : Word × State :=
  (s.pick (sregViews w lins r)).getD (w.sregs[r.toNat]'r.isLt, s)

/-- Writes a uniform register: the writing troupe sees it at once, the other threads of the workgroup
may read the older value until their next clause boundary (R60, R296). -/
def wrS (s : State) (wg : Nat) (lins : List Nat) (r : Reg) (v : Word) : State :=
  s.modWg wg fun w =>
    let old := w.sregs[r.toNat]'r.isLt
    let others := (List.range (w.sizes.wgX * w.sizes.wgY * w.sizes.wgZ)).filter fun l =>
      !lins.contains l && !w.exited.contains l
    { w with
      sregs := w.sregs.set r.toNat v r.isLt
      stale := ((w.stale.map fun (u : StaleUniform) => if u.reg = r then { u with readers := u.readers.filter (!lins.contains ·) } else u)
          ++ (if old = v then [] else [StaleUniform.mk r old others])).filter fun u => u.readers != [] }

/-- Members that exist, with their threads. -/
def troupeThreads (s : State) : List (Nat × Thread) :=
  (memberLanes s.cur).filterMap fun x => (s.thread? x.1).map (x.1, ·)

/-- An instruction that executes once per troupe when its predicate holds in some member: f changes the
state, given the workgroup's number and the members' linear indices (R60, R294, R295). -/
def oncePerTroupe (i : Instr) (p : PReg) (f : Nat → Workgroup → List (Nat × Thread) → State → State) (s : State) : Out :=
  let ms := troupeThreads s
  match ms with
  | [] => .next s
  | (_, t) :: _ =>
    match s.wg? t.wg with
    | none => .next s
    | some w =>
      let ok := ms.filter fun x => issueOk x.2 w i
      let s' := if ok.any fun x => x.2.rdP p then f t.wg w ok s else s
      let s' := ok.foldl (fun s x => advance s x.1 (instrLen i)) s'
      .next (raiseTraps s' ((ms.filter fun x => !issueOk x.2 w i).map fun x => raised x.1 x.2 i { cause := .illegalOp }))

/-- A uniform instruction of two sources. -/
def uniform2 (i : Instr) (p : PReg) (a b d : Reg) (f : Word → Word → Word) (s : State) : Out :=
  oncePerTroupe i p (fun k w ms s =>
    let lins := ms.map (·.2.lin)
    let x := rdS s w lins a
    let y := rdS x.2 w lins b
    wrS y.2 k lins d (f x.1 y.1)) s

/-- A uniform instruction of one source. -/
def uniform1 (i : Instr) (p : PReg) (a d : Reg) (f : Word → Word) (s : State) : Out :=
  oncePerTroupe i p (fun k w ms s =>
    let lins := ms.map (·.2.lin)
    let x := rdS s w lins a
    wrS x.2 k lins d (f x.1)) s

/-- U_ADD (R294). -/
def execUAdd (b a d : Reg) (p : PReg) (s : State) : Out :=
  uniform2 (.uAdd b a d p) p a b d (fun x y => x + y) s
/-- U_SUB (R294). -/
def execUSub (b a d : Reg) (p : PReg) (s : State) : Out :=
  uniform2 (.uSub b a d p) p a b d (fun x y => x - y) s
/-- U_MUL (R294). -/
def execUMul (b a d : Reg) (p : PReg) (s : State) : Out :=
  uniform2 (.uMul b a d p) p a b d (fun x y => x * y) s
/-- U_MULH (R294). -/
def execUMulh (b a d : Reg) (p : PReg) (s : State) : Out :=
  uniform2 (.uMulh b a d p) p a b d (fun x y => mulhW (x) (y)) s
/-- U_MULHN (R294). -/
def execUMulhn (b a d : Reg) (p : PReg) (s : State) : Out :=
  uniform2 (.uMulhn b a d p) p a b d (fun x y => mulhnW (x) (y)) s
/-- U_AND (R294). -/
def execUAnd (b a d : Reg) (p : PReg) (s : State) : Out :=
  uniform2 (.uAnd b a d p) p a b d (fun x y => x &&& y) s
/-- U_OR (R294). -/
def execUOr (b a d : Reg) (p : PReg) (s : State) : Out :=
  uniform2 (.uOr b a d p) p a b d (fun x y => x ||| y) s
/-- U_XOR (R294). -/
def execUXor (b a d : Reg) (p : PReg) (s : State) : Out :=
  uniform2 (.uXor b a d p) p a b d (fun x y => x ^^^ y) s
/-- U_ANDN (R294). -/
def execUAndn (b a d : Reg) (p : PReg) (s : State) : Out :=
  uniform2 (.uAndn b a d p) p a b d (fun x y => x &&& ~~~(y)) s
/-- U_SHL (R294). -/
def execUShl (b a d : Reg) (p : PReg) (s : State) : Out :=
  uniform2 (.uShl b a d p) p a b d (fun x y => shlW (x) (y)) s
/-- U_SHR (R294). -/
def execUShr (b a d : Reg) (p : PReg) (s : State) : Out :=
  uniform2 (.uShr b a d p) p a b d (fun x y => shrW (x) (y)) s
/-- U_SAR (R294). -/
def execUSar (b a d : Reg) (p : PReg) (s : State) : Out :=
  uniform2 (.uSar b a d p) p a b d (fun x y => sarW (x) (y)) s
/-- U_ROT (R294). -/
def execURot (b a d : Reg) (p : PReg) (s : State) : Out :=
  uniform2 (.uRot b a d p) p a b d (fun x y => rotW (x) (y)) s
/-- U_MIN (R294). -/
def execUMin (b a d : Reg) (p : PReg) (s : State) : Out :=
  uniform2 (.uMin b a d p) p a b d (fun x y => minW (x) (y)) s
/-- U_MAX (R294). -/
def execUMax (b a d : Reg) (p : PReg) (s : State) : Out :=
  uniform2 (.uMax b a d p) p a b d (fun x y => maxW (x) (y)) s
/-- U_MINN (R294). -/
def execUMinn (b a d : Reg) (p : PReg) (s : State) : Out :=
  uniform2 (.uMinn b a d p) p a b d (fun x y => minnW (x) (y)) s
/-- U_MAXN (R294). -/
def execUMaxn (b a d : Reg) (p : PReg) (s : State) : Out :=
  uniform2 (.uMaxn b a d p) p a b d (fun x y => maxnW (x) (y)) s
/-- U_ABS (R294). -/
def execUAbs (a d : Reg) (p : PReg) (s : State) : Out :=
  uniform1 (.uAbs a d p) p a d (fun x => absW (x)) s
/-- U_NEG (R294). -/
def execUNeg (a d : Reg) (p : PReg) (s : State) : Out :=
  uniform1 (.uNeg a d p) p a d (fun x => 0 - x) s
/-- U_CLZ (R294). -/
def execUClz (a d : Reg) (p : PReg) (s : State) : Out :=
  uniform1 (.uClz a d p) p a d (fun x => clzW (x)) s
/-- U_POPC (R294). -/
def execUPopc (a d : Reg) (p : PReg) (s : State) : Out :=
  uniform1 (.uPopc a d p) p a d (fun x => popcW (x)) s
/-- U_BREV (R294). -/
def execUBrev (a d : Reg) (p : PReg) (s : State) : Out :=
  uniform1 (.uBrev a d p) p a d (fun x => brevW (x)) s
/-- U_MOV (R294). -/
def execUMov (a d : Reg) (p : PReg) (s : State) : Out :=
  uniform1 (.uMov a d p) p a d (fun x => x) s
/-- USEL: the selector is that of the member in the lowest thread slot (R60, R295). -/
def execUsel (b a d : Reg) (q : PReg) (s : State) : Out :=
  oncePerTroupe (.usel b a d q) 7 (fun k w ms s =>
    let lins := ms.map (·.2.lin)
    let sel := match ms with
      | (_, t) :: _ => t.rdP q
      | [] => true
    let x := rdS s w lins a
    let y := rdS x.2 w lins b
    wrS y.2 k lins d (if sel then x.1 else y.1)) s
/-- U_LEA (R294). -/
def execULea (b a d : Reg) (p : PReg) (s : State) : Out :=
  oncePerTroupe (.uLea b a d p) p (fun k w ms s =>
    let lins := ms.map (·.2.lin)
    let lo := rdS s w lins a
    let hi := rdS lo.2 w lins (a + 1)
    let y := rdS hi.2 w lins b
    let v := leaD (hi.1 ++ lo.1) y.1
    wrS (wrS y.2 k lins d (v.extractLsb' 0 32)) k lins (d + 1) (v.extractLsb' 32 32)) s
/-- S2G, per thread (R60, R294). -/
def execS2g (a d : Reg) (p : PReg) (s : State) : Out :=
  perThread (.s2g a d p) p (fun s k _ =>
    match s.thread? k with
    | none => .next s
    | some t => match s.wg? t.wg with
      | none => .next s
      | some w =>
        let x := rdS s w [t.lin] a
        .next (x.2.setThread k (t.wrG d x.1))) s
/-- G2S: each thread whose predicate holds writes, and the register keeps one of the values (R39, R60). -/
def execG2s (a d : Reg) (p : PReg) (s : State) : Out :=
  oncePerTroupe (.g2s a d p) p (fun k _ ms s =>
    let vs := ((ms.filter (·.2.rdP p)).map (·.2.rdG a)).eraseDups
    match s.pick vs with
    | some (v, s) => wrS s k (ms.map (·.2.lin)) d v
    | none => s) s

end Sys2Proof.Machine
end

