-- ==== Sys2Proof/Machine/Matrix.lean ====
section
/-! DEFINITION. The matrix engine: reservation, operands, passes, MLD and MST, and the governors of a pass's
start (R172, R173, R205 to R207, R315 to R339). -/

namespace Sys2Proof.Machine

/-! The reservation. -/

/-- May threads of the workgroup add items to the engine (R315, R319). -/
def Engine.serves (e : Engine) (wg : Nat) : Bool := e.owner == some wg && !e.releasing

def State.engine (s : State) (core : Nat) : Engine := (s.core core).engine
def State.modEngine (s : State) (core : Nat) (f : Engine → Engine) : State :=
  s.modCore core fun c => { c with engine := f c.engine }

/-- MRSV (R318). -/
def execMrsv (d : PReg) (p : PReg) (s : State) : Out :=
  perThread (.mrsv d p) p (fun s k _ => withThread s k fun t =>
    let e := s.engine (coreOf k)
    if e.serves t.wg then .next (s.setThread k (t.wrP d true))
    else if e.owner.isNone then
      .next ((s.modEngine (coreOf k) fun e => { e with owner := some t.wg, releasing := false }).setThread k (t.wrP d true))
    else .next (s.setThread k (t.wrP d false))) s

/-- MREL (R319). -/
def execMrel (p : PReg) (s : State) : Out :=
  perThread (.mrel p) p (fun s k _ => withThread s k fun t =>
    .next (s.modEngine (coreOf k) fun e => e.release t.wg false)) s

/-! Items. -/

/-- The flag that matrix operations of the thread count on (R40). -/
def Thread.flagB (t : Thread) : Nat :=
  match t.clause with
  | some c => c.setB.toNat
  | none => 15

/-- A matrix operation is in flight on the thread's setB flag (R47). -/
def Thread.countB (t : Thread) : Thread := t.wrF t.flagB (t.rdF t.flagB + 1)

/-- An item with no pass part and no memory. -/
def itemOf (id : Nat) (kind : ItemKind) (t : Thread) (k tile band asid : Nat) : Item where
  id := id
  kind := kind
  mma := .bf16
  bsel := false
  bKey := (0, 0)
  b := []
  members := []
  opened := 0
  closed := true
  staged := false
  started := none
  bBad := none
  bData := []
  ready := none
  tests := 0
  pins := []
  got := []
  tile := tile
  band := band
  whole := false
  fmt := .f32
  mem := []
  thread := k
  pc := t.pc
  flag := none
  asid := asid

/-- Places of the engine queue (R316). -/
def queuePlaces : Nat := 8

/-- Adds an item, if the queue has a place (R316). -/
def addItem (s : State) (core : Nat) (x : Nat → Item) (f : State → State) : Effect :=
  if queuePlaces ≤ (s.engine core).queue.length then .wait s .engineQueue
  else
    let n := s.fresh
    .next (f (n.2.modEngine core fun e => { e with queue := e.queue ++ [x n.1] }))

/-- MZERO (R320). -/
def execMzero (whole : Bool) (n : PReg) (d : HReg) (p : PReg) (s : State) : Out :=
  perThread (.mzero whole n d p) p (fun s k _ => withWg s k fun t w =>
    if !(s.engine (coreOf k)).serves t.wg then .trap s { cause := .mrsvNone }
    else addItem s (coreOf k) (fun id => { itemOf id .zero t k d.toNat n.toNat w.asid with whole := whole }) id) s

/-! Operands (R321, R323, R324). -/

/-- What translating and checking operand lines gives. -/
inductive Lines where
  | ok (l : List Operand) (s : State)
  | wait (s : State)
  | trap (s : State) (ti : TrapInfo)

/-- The place of the operand line at an address of a descriptor's space; a module without a port that is UP is refused here
(R324, R400, R438). DESIGN CHOICE (log 90): a wafer line beyond the 4 GiB of R23 raises PERM in supervisor context too. -/
def operandLine (s : State) (k lane : Nat) (t : Thread) (w : Workgroup) (sp : Space) (a : Nat) (write : Bool) : Lines :=
  if sp = .global then
    let r := resolveG s (ctxOf k lane t w) a 128 .bypass true false false
    match r.1 with
    | .busy => .wait r.2
    | .trap c info => .trap r.2 (globalTrap c info a false)
    | .absent _ _ => .trap r.2 (globalTrap .pageAbsent 0 a false)
    | .at p _ =>
      match p with
      | .vault x => .ok [.vault x a] r.2
      | .window x => .ok [.window x] r.2
      | .remote x => if routeUp r.2 (x / 2 ^ 48) then .ok [.remote x a] r.2 else .trap r.2 (globalTrap .remoteTimeout 0 a false)
      | .device _ => .trap r.2 (globalTrap .perm 0 a false)
  else match resolveLocal s (localCtx t w) sp a 128 write with
    | .error c => .trap s (spaceTrap c sp a write)
    | .ok (.scratch g off) => .ok [.scratch g off] s
    | .ok (.wafer off) => if 2 ^ 32 < off + 128 then .trap s (spaceTrap .perm sp a write) else .ok [.wafer off] s
    | .ok (.slice _ _ _) => .trap s (spaceTrap .perm sp a write)

/-- The places of n lines from an address. -/
def operandLines (s : State) (k lane : Nat) (t : Thread) (w : Workgroup) (sp : Space) (a : Nat) (write : Bool) :
    Nat → Lines
  | 0 => .ok [] s
  | n + 1 =>
    match operandLine s k lane t w sp a write with
    | .ok l s =>
      (match operandLines s k lane t w sp (a + 128) write n with
      | .ok r s => .ok (l ++ r) s
      | x => x)
    | x => x

/-- Has a multiply scales (R323). -/
def MmaKind.scaled : MmaKind → Bool
  | .bf16 | .f16 => false
  | .e4m3 | .e5m2 | .rb4 | .i8 => true

/-- The key of a pass: the B descriptor without BOFS (R326). -/
def Descriptor.key (d : Descriptor) : Nat × Nat := (spaceNat d.space, d.addr)

/-- Cycles after which a forming pass is closed (R326). -/
def formCycles : Nat := 32

/-- May an MMA join a forming pass: the item and those accepted after it; now is the core's cycle (R326). DESIGN CHOICE (log
97): one that arrives exactly 32 cycles after the pass opened comes too late (R456). -/
def passTakes (now : Nat) (x : Item) (later : List Item) (kind : MmaKind) (bsel : Bool) (key : Nat × Nat) (m : Member) : Bool :=
  x.mma == kind && x.bsel == bsel && x.bKey == key && decide (x.members.length < 8)
    && x.members.all (fun y => y.tile != m.tile || y.band != m.band)
    && later.all (fun y => y.kind == .pass || y.tile != m.tile)
    && decide (now < x.opened + formCycles)

/-- The queue with an MMA in its forming pass; none if it cannot join (R326). -/
def joinPass (now : Nat) (kind : MmaKind) (bsel : Bool) (key : Nat × Nat) (m : Member) : List Item → Option (List Item)
  | [] => none
  | x :: r =>
    if x.kind == .pass && !x.closed then
      (if passTakes now x r kind bsel key m then
        some ({ x with members := x.members ++ [m], closed := decide (8 ≤ x.members.length + 1) } :: r)
      else none)
    else (joinPass now kind bsel key m r).map (x :: ·)

/-- Closes the forming pass. -/
def closeForming (q : List Item) : List Item := q.map fun x => { x with closed := true }

/-- An MMA that has been checked is accepted as a member of a pass (R324, R326). -/
def acceptMma (s : State) (k : Nat) (t : Thread) (w : Workgroup) (kind : MmaKind) (bsel : Bool) (key : Nat × Nat)
    (b : List Operand) (m : Member) : Effect :=
  let core := coreOf k
  let count := fun (s : State) => s.modThread k fun t => t.countB
  match joinPass (s.cycles core) kind bsel key m (s.engine core).queue with
  | some q => .next (count (s.modEngine core fun e => { e with queue := q }))
  | none =>
    if queuePlaces ≤ (s.engine core).queue.length then .wait s .engineQueue
    else
      let s := s.modEngine core fun e => { e with queue := closeForming e.queue }
      addItem s core (fun id => { itemOf id .pass t k 0 0 w.asid with
        mma := kind, bsel := bsel, bKey := key, b := b, members := [m], opened := s.cycles core, closed := false }) count

/-- The six multiplies (R324). -/
def mma (i : Instr) (kind : MmaKind) (b a : Reg) (bsel : Bool) (band : PReg) (acc : HReg) (p : PReg) (s : State) : Out :=
  perThread i p (fun s k lane => withWg s k fun t w =>
    if !(s.engine (coreOf k)).serves t.wg then .trap s { cause := .mrsvNone }
    else jobGate s k t fun s t =>
      let lo := rdS s w [t.lin] b
      let hi := rdS lo.2 w [t.lin] (b + 1)
      let s := hi.2
      match descriptor? (t.rdPair a), descriptor? (hi.1 ++ lo.1) with
      | some da, some db =>
        if da.addr % 128 ≠ 0 then .trap s (spaceTrap .align da.space da.addr false)
        else if db.addr % 256 ≠ 0 then .trap s (spaceTrap .align db.space db.addr false)
        else (match operandLines s k lane t w da.space da.addr false 6 with
          | .wait s => .wait s .busy
          | .trap s ti => .trap s ti
          | .ok la s =>
            match operandLines s k lane t w db.space db.addr false (if kind.scaled then 50 else 48) with
            | .wait s => .wait s .busy
            | .trap s ti => .trap s ti
            | .ok lb s =>
              let scales := if kind.scaled then t.rdSpan 56 8 else []
              acceptMma s k t w kind bsel db.key lb
                ⟨k, t.pc, t.flagB, acc.toNat, (band.toNat + da.bofs) % 8, la, scales, none, [], w.asid⟩)
      | _, _ => .trap s { cause := .perm }) s

/-- MMA_H_BF16 (R324). -/
def execMmaHBf16 (b a : Reg) (n : PReg) (c : HReg) (p : PReg) (s : State) : Out := mma (.mmaHBf16 b a n c p) .bf16 b a false n c p s
/-- MMA_H_F16 (R324). -/
def execMmaHF16 (b a : Reg) (n : PReg) (c : HReg) (p : PReg) (s : State) : Out := mma (.mmaHF16 b a n c p) .f16 b a false n c p s
/-- MMA_Q_E4M3 (R324). -/
def execMmaQE4m3 (b a : Reg) (x : Bool) (n : PReg) (c : HReg) (p : PReg) (s : State) : Out := mma (.mmaQE4m3 b a x n c p) .e4m3 b a x n c p s
/-- MMA_Q_E5M2 (R324). -/
def execMmaQE5m2 (b a : Reg) (x : Bool) (n : PReg) (c : HReg) (p : PReg) (s : State) : Out := mma (.mmaQE5m2 b a x n c p) .e5m2 b a x n c p s
/-- MMA_N_RB4 (R324). -/
def execMmaNRb4 (b a : Reg) (n : PReg) (c : HReg) (p : PReg) (s : State) : Out := mma (.mmaNRb4 b a n c p) .rb4 b a false n c p s
/-- MMA_N_I8 (R324). -/
def execMmaNI8 (b a : Reg) (x : Bool) (n : PReg) (c : HReg) (p : PReg) (s : State) : Out := mma (.mmaNI8 b a x n c p) .i8 b a x n c p s

/-- Size of a value that an MST stores (R328). -/
def mstSize : MstFmt → Nat
  | .f32 => 4
  | .bf16 => 2
  | .e4m3 | .e5m2 => 1

/-- MLD and MST (R328, R329). -/
def bandMove (i : Instr) (kind : ItemKind) (f : MstFmt) (a : Reg) (band : PReg) (acc : HReg) (p : PReg) (s : State) : Out :=
  perThread i p (fun s k lane => withWg s k fun t w =>
    if !(s.engine (coreOf k)).serves t.wg then .trap s { cause := .mrsvNone }
    else jobGate s k t fun s t =>
      let write := kind == .store
      match descriptor? (t.rdPair a) with
      | none => .trap s { cause := .perm }
      | some d =>
        if d.space = .global then .trap s { cause := .perm }
        else if d.addr % 128 ≠ 0 then .trap s (spaceTrap .align d.space d.addr write)
        else match operandLines s k lane t w d.space d.addr write (4 * mstSize f) with
          | .wait s => .wait s .busy
          | .trap s ti => .trap s ti
          | .ok l s =>
            addItem s (coreOf k) (fun id => { itemOf id kind t k acc.toNat ((band.toNat + d.bofs) % 8) w.asid with
              fmt := f, mem := l, flag := some t.flagB }) fun s => s.modThread k fun t => t.countB) s

/-- MLD (R329). -/
def execMld (a : Reg) (n : PReg) (c : HReg) (p : PReg) (s : State) : Out := bandMove (.mld a n c p) .load .f32 a n c p s
/-- MST (R329). -/
def execMst (a : Reg) (f : MstFmt) (n : PReg) (c : HReg) (p : PReg) (s : State) : Out := bandMove (.mst a f n c p) .store f a n c p s

/-! MSTAT. -/

/-- Selector 0 of MSTAT (R330). -/
def engineWord (e : Engine) (wg : Nat) : Nat :=
  let mine := e.owner == some wg
  let st := match e.owner with
    | none => 0
    | some _ => if e.releasing then 3 else if mine then 1 else 2
  let forming := ((e.queue.filter fun x => x.kind == .pass && !x.closed).map (·.members.length)).sum
  st + (if mine then e.queue.length * 2 ^ 4 + forming * 2 ^ 8 else 0)

/-- MSTAT (R330). -/
def execMstat (n d : Reg) (p : PReg) (s : State) : Out :=
  perThread (.mstat n d p) p (fun s k _ => withWg s k fun t w =>
    if 5 < n.toNat then .trap s { cause := .illegalOp }
    else
      let v := if n = 0 then engineWord (s.engine (coreOf k)) t.wg else w.mstat.toList.getD n.toNat 0
      .next (s.setThread k (t.countResult [.g d (BitVec.ofNat 32 v)]))) s

/-! Passes. -/

/-- PASS_CLOSE_TIMEOUT (R326). -/
def execPassCloseTimeout (core : Nat) (s : State) : Out :=
  whenCan ((s.engine core).queue.any fun x =>
      x.kind == .pass && !x.closed && decide (x.opened + formCycles ≤ s.cycles core))
    (s.modEngine core fun e => { e with queue := closeForming e.queue }) s

/-- A trap of an operand line, taken later (R325). -/
def operandTrap (c : Cause) (info va : Nat) : TrapInfo := { globalTrap c info va false with defer := true }

/-- Bytes gathered from operand lines, the entries pinned, and the first line that could not be read. -/
structure Staged where
  bytes : List Byte
  pins  : List Nat
  bad   : Option TrapInfo

/-- Pins that a slice may hold (R143). -/
def maxPins : Nat := 8192

/-- Pins the data entry of a line; none while the slice holds as many as it can (R143, R327). -/
def pinLine (s : State) (line : Nat) : Option (Nat × State) :=
  match (s.tag? line).bind (·.entry) with
  | none => none
  | some n =>
    match s.entry? n with
    | none => none
    | some e =>
      let held := (s.entries.filter fun x => x.2.slice == e.slice && decide (0 < x.2.pins)).length
      if maxPins ≤ held then none else some (n, s.setEntry n { e with pins := e.pins + 1 })

/-- Reads one operand line of an item; none while it must be waited for (R327). -/
def stageLine (s : State) (core : Nat) (x : Item) (o : Operand) : Option (Staged × State) :=
  match o with
  | .scratch g off => some (⟨readLocal s (.scratch g off) 128, [], none⟩, s)
  | .wafer off => if waferRuns s off 128 then some (⟨readBytes s.wmem off 128, [], none⟩, s) else none
  | .window w => some (⟨readBytes s.wmem (mirrorAt (clusterOf core) w) 128, [], none⟩, s)
  | .remote pa va => (x.got.find? (·.1 == pa)).map fun y =>
      (if y.2.isEmpty then ⟨List.replicate 128 0, [], some (operandTrap .remoteTimeout 0 va)⟩ else ⟨y.2, [], none⟩, s)
  | .vault a va =>
    let bad := fun (e : Nat) => (⟨List.replicate 128 0, [], some (operandTrap .eccUncorr e va)⟩ : Staged)
    match mget x.lost (a / 128) with
    | some e => some (bad e, s)
    | none => match homeRead s (a / 128) with
      | none => none
      | some (.error e, s) => some (bad e, s)
      | some (.ok d, s) => (pinLine s (a / 128)).map fun r => (⟨lineBytes d, [r.1], none⟩, r.2)

/-- Reads operand lines in order. -/
def stageLines (s : State) (core : Nat) (x : Item) : List Operand → Option (Staged × State)
  | [] => some (⟨[], [], none⟩, s)
  | o :: r =>
    match stageLine s core x o with
    | none => none
    | some (y, s) => (stageLines s core x r).map fun z =>
        (⟨y.bytes ++ z.1.bytes, y.pins ++ z.1.pins, y.bad.or z.1.bad⟩, z.2)

/-- Reads A for each member (R327). -/
def stageMembers (s : State) (core : Nat) (x : Item) : List Member → Option (List Member × List Nat × State)
  | [] => some ([], [], s)
  | m :: r =>
    match stageLines s core x m.a with
    | none => none
    | some (y, s) => (stageMembers s core x r).map fun z =>
        ({ m with aData := y.bytes, bad := y.bad } :: z.1, y.pins ++ z.2.1, z.2.2)

/-- The closed pass that the tile fetch unit stages next: its buffer holds two (R327). -/
def toStage (e : Engine) : Option Item :=
  if 2 ≤ (e.queue.filter (·.staged)).length then none
  else e.queue.find? fun x => x.kind == .pass && x.closed && !x.staged

/-- The operand lines of a pass: B once, and A for each member (R327). -/
def Item.lines (x : Item) : List Operand := x.b ++ x.members.flatMap (·.a)

/-- Is an operand line that the home of another unit gives still to be brought, or to be brought again: a line of this
module whose home no longer has its newest data, and one of another module that has not come (R133, R134). -/
def lacks (s : State) (x : Item) (o : Operand) : Bool :=
  match o with
  | .scratch _ _ | .wafer _ | .window _ => false
  | .remote pa _ => !x.got.any (·.1 == pa)
  | .vault a _ => (mget x.lost (a / 128)).isNone && (!x.brought.contains (a / 128) || (match s.tag? (a / 128) with
      | some t => t.owner.isSome
      | none => true))

/-- Replaces an item of the queue. -/
def Engine.setItem (e : Engine) (id : Nat) (f : Item → Item) : Engine :=
  { e with queue := e.queue.map fun x => if x.id = id then f x else x }

/-- The tile fetch unit's read of a line for an item (R133, R134). -/
def fetchAccess (s : State) (core : Nat) (x : Item) (pa va : Nat) : Access where
  thread := x.thread
  wg := (s.engine core).owner.getD 0
  core := core
  pa := pa
  size := 128
  va := va
  asid := x.asid
  dom := (((s.engine core).owner.bind s.wg?).map (·.hashdom)).getD 0
  pol := .bypass
  ord := .plain
  op := .piece x.id
  job := some fetchEntry

/-- Sends the read of an operand line once: a BYPR at its home, or a request to another module, which with no route
counts as timed out (R133, R134, R438). -/
def askLine (core : Nat) (x : Item) (s : State) (o : Operand) : State :=
  let sent := fun (pa : Nat) => s.accs.any fun a =>
    a.2.core == core && a.2.job == some fetchEntry && a.2.pa == pa && a.2.op == .piece x.id
  match o with
  | .scratch _ _ | .wafer _ | .window _ => s
  | .vault a va =>
    let acc := fetchAccess s core x (s.page.moduleId * 2 ^ 48 + a) va
    if sent acc.pa || !queueRoom s (clusterOf core) (acc.line % 8) then s else (pendRecord s acc (recOf .bypr 0 0)).2
  | .remote pa va =>
    if sent pa then s
    else if !routeUp s (pa / 2 ^ 48) then s.modEngine core fun e => e.setItem x.id fun i => { i with got := i.got ++ [(pa, [])] }
    else (pendRemote s (fetchAccess s core x pa va)).2

/-- Does the workgroup that holds the engine run (R339). -/
def ownerRuns (s : State) (e : Engine) : Bool :=
  match e.owner.bind s.wg? with
  | some w => w.phase == .running || (w.phase == .saving && !groupStopped s w.coords.launch w.coords.group)
  | none => false

/-- Stages a pass: the lines that it lacks are asked for, and when the last is there every operand read takes its place
at once (R134, R172, R327). -/
def stagePass (s : State) (core : Nat) (x : Item) : Option State :=
  let lack := x.lines.filter (lacks s x)
  if !lack.isEmpty then some (lack.foldl (askLine core x) s)
  else
    match stageLines s core x x.b with
    | none => none
    | some (b, s) =>
      match stageMembers s core x x.members with
      | none => none
      | some (ms, pins, s) => some (s.modEngine core fun e => e.setItem x.id fun i => { i with
          staged := true, bData := b.bytes, bBad := b.bad, members := ms, pins := b.pins ++ pins, got := [], brought := []
          lost := [] })

/-- TILE_FETCH_STAGED (R327). -/
def execTileFetchStaged (core : Nat) (s : State) : Out :=
  let e := s.engine core
  match toStage e with
  | none => .next s
  | some x => whenCan (coreRuns s core && ownerRuns s e) ((stagePass s core x).getD s) s

/-! The start of a pass (R331 to R334). -/

/-- Cycles that a pass holds the array (R316), between tests (R334), and between starts in a droop (R333). -/
def passCycles : Nat := 96
def testCycles : Nat := 8
def droopCycles : Nat := 192

/-- The pass at the head of the queue that waits to start: every item before it is a pass that has run 96
cycles; now is the core's cycle (R334). -/
def headPass (now : Nat) : List Item → Option Item
  | [] => none
  | x :: r =>
    if x.kind != .pass then none
    else match x.started with
      | none => some x
      | some t => if t + passCycles ≤ now then headPass now r else none

/-- Tokens per member of a format (R338). -/
def memberCost (s : State) (k : MmaKind) : Nat :=
  let n := s.heatCost.toNat
  match k with
  | .bf16 | .f16 => bitsNat n 0 8
  | .e4m3 | .e5m2 => bitsNat n 8 8
  | .i8 => bitsNat n 16 8
  | .rb4 => bitsNat n 24 8

/-- What a test of a ready pass finds: the first governor that holds it back (R334). -/
inductive Governor where
  | droop | limit | heat | none
deriving DecidableEq, Repr

/-- The three checks in order (R331 to R334). -/
def governor (s : State) (core : Nat) (x : Item) : Governor :=
  let r := s.region (regionOfCore core)
  let alarm := match r.until_ with
    | some t => decide (s.now < t)
    | none => false
  let near := match (s.engine core).lastStart with
    | some t => decide (s.cycles core < t + droopCycles)
    | none => false
  if alarm && near then .droop
  else if r.cnt + r.rise ≤ r.now then .limit
  else if (s.column (clusterOf core)).tok < memberCost s x.mma * x.members.length then .heat
  else .none

/-- Adds to a matrix counter of the workgroup that holds the engine (R330). -/
def countMatrix (s : State) (core n amount : Nat) : State :=
  match (s.engine core).owner with
  | none => s
  | some g => s.modWg g fun w => { w with mstat := w.mstat.setIfInBounds n ((w.mstat.toList.getD n 0 + amount) % 2 ^ 32) }

/-- Charges a bubble (R334). -/
def chargeBubble (s : State) (core : Nat) (g : Governor) : State :=
  match g with
  | .none => s
  | .droop => countMatrix s core 3 1
  | .limit => (countMatrix s core 2 1).modRegion (regionOfCore core) fun r => { r with bub := satAdd r.bub 1 0xFFFFFFFF }
  | .heat =>
    let c := clusterOf core
    (lifeAdd (countMatrix s core 1 1) (565312 + 8 * c) 8 1).modColumn c fun x => { x with bub := satAdd x.bub 1 0xFFFFFFFF }

/-- A pass starts (R334). -/
def startPass (s : State) (core : Nat) (x : Item) : State :=
  let s := s.modEngine core fun e => { e.setItem x.id (fun i => { i with started := some (s.cycles core) }) with
    lastStart := some (s.cycles core) }
  let s := s.modColumn (clusterOf core) fun c => { c with tok := c.tok - memberCost s x.mma * x.members.length }
  let s := s.modRegion (regionOfCore core) fun r => { r with now := r.now + 1 }
  let s := s.modCore core fun c => { c with counters := { c.counters with passes := c.counters.passes + 1 } }
  countMatrix s core 4 1

/-- Is the pass at the head of a core's queue to be tested: it is ready, and 8 cycles have passed since its last
test (R334). -/
def passDue (s : State) (core : Nat) (x : Item) : Bool :=
  x.closed && x.staged && coreRuns s core && ownerRuns s (s.engine core) && (match x.ready with
    | none => true
    | some t => decide (t + testCycles * x.tests ≤ s.cycles core))

/-- Is a pass of a lower core of the region to be tested: it comes first (R334). -/
def lowerDue (s : State) (core : Nat) : Bool :=
  s.cores.any fun y => decide (y.1 < core) && regionOfCore y.1 == regionOfCore core
    && (headPass (s.cycles y.1) (s.engine y.1).queue).any (passDue s y.1)

/-- PASS_START_TEST (R334): the pass at the head is tested when it is ready and every 8 cycles from then on, and
those of a region in the order of their cores. -/
def execPassStartTest (core : Nat) (s : State) : Out :=
  match headPass (s.cycles core) (s.engine core).queue with
  | none => .next s
  | some x =>
    let g := governor s core x
    whenCan (passDue s core x && !lowerDue s core) (if g = .none then startPass s core x
      else (chargeBubble s core g).modEngine core fun e => e.setItem x.id fun i => { i with
        ready := some (i.ready.getD (s.cycles core)), tests := i.tests + 1 }) s

/-! The arithmetic of a step (R205 to R207). -/

/-- Elements of a row of A or a column of B (R323). -/
def rowElems (k : MmaKind) (b : List Byte) : List Nat :=
  match k with
  | .bf16 | .f16 => elements 2 b 48
  | .e4m3 | .e5m2 | .i8 => elements 1 b 96
  | .rb4 => (b.take 96).flatMap fun x => [x.toNat % 16, x.toNat / 16]

/-- K-blocks of a multiply (R205). -/
def MmaKind.blocks : MmaKind → Nat
  | .bf16 | .f16 => 1
  | .e4m3 | .e5m2 | .i8 => 2
  | .rb4 => 4

/-- Exact sum of products in a floating format (R205, R206). -/
def floatSum (f : FFmt) (a b : List Nat) : FVal :=
  match (a.zip b).map fun x => (f.value x.1).mul (f.value x.2) with
  | [] => .fin false 0 0
  | v :: r => r.foldl FVal.add v

/-- A value scaled by a power of two, its sign kept. -/
def FVal.scale (v : FVal) (e : Int) : FVal :=
  match v with
  | .fin n m x => .fin n m (x + e)
  | y => y

/-- A block value rounded once; a sum that is not an exact zero and rounds to zero gives +0 (R205, R206). -/
def blockRound (v : FVal) : Word :=
  let w := fround v
  if w = 0x80000000 ∧ ¬ v.isZero then 0 else w

/-- The block value of a row and a column with their scale bytes (R205, R206). -/
def blockValue (k : MmaKind) (a b : List Nat) (ca cb : Nat) : Word :=
  let e := scaleExp ca + scaleExp cb
  match k with
  | .bf16 => blockRound (floatSum bf16Fmt a b)
  | .f16 => blockRound (floatSum f16Fmt a b)
  | .e4m3 => blockRound ((floatSum e4m3Fmt a b).scale e)
  | .e5m2 => blockRound ((floatSum e5m2Fmt a b).scale e)
  | .i8 => blockRound ((FVal.ofInt ((a.zip b).map fun x => sextInt x.1 8 * sextInt x.2 8).sum).scale e)
  | .rb4 =>
    let ta := ca / 64 % 4
    let tb := cb / 64 % 4
    blockRound ((FVal.ofInt ((a.zip b).map fun x => rb4Int ta x.1 * rb4Int tb x.2).sum).scale (e + rb4Offset ta + rb4Offset tb))

/-- Number of a tile element. -/
def tileKey (tile row col : Nat) : Nat := tile * 4096 + row * 64 + col

/-- Value of a tile element; one not listed is +0 (R315). -/
def tileGet (m : SMap Word) (key : Nat) : Word := (mget m key).getD 0
/-- Stores a tile element. -/
def tileSet (m : SMap Word) (key : Nat) (v : Word) : SMap Word := if v = 0 then mdel m key else mput m key v

/-- Scale index of block j (R323). -/
def scaleIndex (k : MmaKind) (bsel : Bool) (j : Nat) : Nat :=
  match k with
  | .e4m3 | .e5m2 | .i8 => 2 * bsel.toNat + j
  | .bf16 | .f16 | .rb4 => j

/-- One element of a step: the block values added in increasing K order (R207, R324). -/
def stepElem (k : MmaKind) (bsel : Bool) (row col : List Nat) (sa : Word) (sb : List Byte) (v : Word) : Word :=
  (List.range k.blocks).foldl (fun v j =>
    let q := scaleIndex k bsel j
    let ca := if k.scaled then bitsNat sa.toNat (8 * q) 8 else 0
    let cb := if k.scaled then (sb.getD q 0).toNat else 0
    fadd v (blockValue k ((row.drop (48 * j)).take 48) ((col.drop (48 * j)).take 48) ca cb)) v

/-- A member's step on its band (R324). -/
def memberStep (x : Item) (tiles : SMap Word) (m : Member) : SMap Word :=
  let cols := (List.range 64).map fun c => (rowElems x.mma ((x.bData.drop (96 * c)).take 96), (x.bData.drop (6144 + 4 * c)).take 4)
  (List.range 8).foldl (fun tiles i =>
    let row := rowElems x.mma ((m.aData.drop (96 * i)).take 96)
    let sa := m.scales.getD i 0
    cols.zipIdx.foldl (fun tiles y =>
      let key := tileKey m.tile (8 * m.band + i) y.2
      tileSet tiles key (stepElem x.mma x.bsel row y.1.1 sa y.1.2 (tileGet tiles key))) tiles) tiles

/-- The operation that a thread counts on a setB flag is done; a trap of it is due at a header that waits on
that flag (R325). -/
def flagDone (s : State) (wg k flag : Nat) (pc : DWord) (bad : Option TrapInfo) : State :=
  s.modThread k fun t =>
    if t.wg ≠ wg then t
    else { t.wrF flag (t.rdF flag - 1) with deferred := t.deferred ++ (match bad with
      | some ti => [⟨ti, pc, .flag flag⟩]
      | none => []) }

/-- The earliest pass has run its 96 cycles: its members are performed together, their flags decrement and its
pins are released (R324 to R327). -/
def finishPass (s : State) (core : Nat) (x : Item) : State :=
  let wg := (s.engine core).owner.getD 0
  let good := x.members.filter fun m => (m.bad.or x.bBad).isNone
  let s := s.modEngine core fun e => { e with
    tiles := good.foldl (memberStep x) e.tiles, queue := e.queue.filter (·.id ≠ x.id) }
  let s := countMatrix s core 5 good.length
  unpin (x.members.foldl (fun s m => flagDone s wg m.thread m.flag m.pc (m.bad.or x.bBad)) s) x.pins

/-- PASS_COMPLETION (R316, R324). -/
def execPassCompletion (core : Nat) (s : State) : Out :=
  match (s.engine core).queue.find? fun x => x.started.isSome with
  | none => .next s
  | some x => whenCan (match x.started with
      | some t => decide (t + passCycles ≤ s.cycles core)
      | none => false) (finishPass s core x) s

/-! MZERO, MLD and MST (R316, R320, R329). -/

/-- The first item that is no pass, if the engine may perform it now: an MLD or an MST may overlap passes that
have started and name other tiles (R316). -/
def itemReady : List Item → Option Item
  | [] => none
  | x :: r =>
    if x.kind != .pass then some x
    else if x.started.isNone then none
    else match itemReady r with
      | some y => if y.kind == .zero || x.members.any (·.tile == y.tile) then none else some y
      | none => none

/-- A value as an MST stores it (R199, R329). -/
def mstBytes (f : MstFmt) (v : Word) : List Byte :=
  match f with
  | .f32 => natBytes 4 v.toNat
  | .bf16 => natBytes 2 (narrow bf16Fmt v)
  | .e4m3 => natBytes 1 (narrow e4m3Fmt v)
  | .e5m2 => natBytes 1 (narrow e5m2Fmt v)

/-- The 512 element numbers of a band, row by row. -/
def bandKeys (tile band : Nat) : List Nat := (List.range 512).map fun n => tileKey tile (8 * band) 0 + n

/-- Do the clocks run of the banks that an item's lines lie in (R427). -/
def itemRuns (s : State) (x : Item) : Bool :=
  x.kind == .zero || x.mem.all fun o => match o with
    | .wafer off => waferRuns s off 128
    | .scratch _ _ | .window _ | .vault _ _ | .remote _ _ => true

/-- Bytes of a scratchpad line of an MLD or an MST. -/
def memRead128 (s : State) (o : Operand) : List Byte :=
  match o with
  | .scratch g off => readLocal s (.scratch g off) 128
  | .wafer off => readBytes s.wmem off 128
  | .window _ | .vault _ _ | .remote _ _ => List.replicate 128 0

/-- Stores a scratchpad line of an MST. -/
def memWrite128 (s : State) (o : Operand) (b : List Byte) : State :=
  match o with
  | .scratch g off => writeLocal s (.scratch g off) b
  | .wafer off => writeLocal s (.wafer off) b
  | .window _ | .vault _ _ | .remote _ _ => s

/-- What an item does (R320, R329). -/
def performItem (s : State) (core : Nat) (x : Item) : State :=
  match x.kind with
  | .pass => s
  | .zero =>
    let gone := fun (key : Nat) => key / 4096 == x.tile && (x.whole || key / 512 % 8 == x.band)
    s.modEngine core fun e => { e with tiles := e.tiles.filter fun y => !gone y.1 }
  | .load =>
    let words := bytesWords (x.mem.flatMap (memRead128 s))
    s.modEngine core fun e => { e with
      tiles := ((bandKeys x.tile x.band).zip words).foldl (fun m y => tileSet m y.1 y.2) e.tiles }
  | .store =>
    let bytes := (bandKeys x.tile x.band).flatMap fun key => mstBytes x.fmt (tileGet (s.engine core).tiles key)
    x.mem.zipIdx.foldl (fun s y => memWrite128 s y.1 ((bytes.drop (128 * y.2)).take 128)) s

/-- ENGINE_ITEM_COMPLETION (R316). -/
def execEngineItemCompletion (core : Nat) (s : State) : Out :=
  let e := s.engine core
  match itemReady e.queue with
  | none => .next s
  | some x =>
    let s1 := (performItem s core x).modEngine core fun e => { e with queue := e.queue.filter (·.id ≠ x.id) }
    whenCan (coreRuns s core && ownerRuns s e && itemRuns s x) (match x.flag with
      | some f => flagDone s1 (e.owner.getD 0) x.thread f x.pc none
      | none => s1) s

/-- ENGINE_CLEAR_COMPLETE (R319). -/
def execEngineClearComplete (core : Nat) (s : State) : Out :=
  let e := s.engine core
  whenCan (e.releasing && e.queue.isEmpty) (s.modEngine core fun e => { e with owner := none, releasing := false, tiles := [] }) s

end Sys2Proof.Machine
end

