-- ==== Sys2Proof/Machine/CoreEvents.lean ====
section
/-! DEFINITION. What happens to threads without an issue: counted operations that complete (R45), the age rule
(R350), meeting holds released (R357), waits that end (R407, R409, R413), lane remaps (R22), and what
comes back from other modules (R165, R166). -/

namespace Sys2Proof.Machine

/-- May a thread issue as far as its workgroup goes; one that is being saved stops at its next clause boundary, or
where it waits at an instruction of R49 (R414). -/
def phaseIssues (t : Thread) (w : Workgroup) : Bool :=
  match w.phase with
  | .running => true
  | .saving => t.clause.isSome && !t.waitSaves
  | .placed | .saved | .ended | .gone => false

/-- Is a thread neither stopped, held, standing back nor in a backoff wait (R344, R349, R358, R407, R409). -/
def threadReady (t : Thread) (w : Workgroup) : Bool :=
  t.run == .running && phaseIssues t w && t.held.isNone && t.yielded.isNone && t.backoff.isNone

/-- May the slot issue at all: its thread is ready and its row and field run (R22, R344, R427). -/
def slotReady (s : State) (core slot : Nat) : Bool :=
  (match s.thread? (tkey core slot) with
  | some t => (match s.wg? t.wg with
    | some w => threadReady t w
    | none => false)
  | none => false)
  && !((s.core core).rows[(rowOf slot).val]'(rowOf slot).isLt).stopped
  && (s.field (fieldOfCluster (clusterOf core))).running

/-! Counted operations. -/

/-- A trap that ends an operation in flight: with a resume point of its own it resumes there; a deferred one is taken
where the thread stands, and in a workgroup that is being saved it is raised after the resumption (R406, R414). -/
def trapHere (s : State) (k : Nat) (ti : TrapInfo) (at_ : Option Resume) (pc : DWord) : State :=
  match s.thread? k with
  | none => s
  | some t =>
    match at_ with
    | some r => raiseTraps s [⟨k, ti, r, pc⟩]
    | none =>
      if ((s.wg? t.wg).map (·.phase)) = some .saving then
        s.setThread k { t with deferred := t.deferred ++ [⟨{ ti with defer := true }, pc, .boundary⟩] }
      else raiseTraps s [⟨k, ti, resumeDeferred t, pc⟩]

/-- A thread whose operation is done: results written, its shift of m7 made, its flag lowered; without a trap its
instruction has completed (R45, R221, R407). -/
def Thread.complete (t : Thread) (i : Nat) (x : Flight) : Thread :=
  let t := match x.trap, x.result with
    | none, some ws => ws.foldl Thread.wrResult t
    | _, _ => t
  let t := match x.trap, x.shift with
    | none, some b => t.wrM 7 (t.rdM 7 <<< 1 ||| (if b then 1 else 0))
    | _, _ => t
  { t.wrF x.flag (t.rdF x.flag - 1) with inflight := t.inflight.eraseIdx i, retry := if x.trap.isSome then t.retry else 0 }

/-- COUNTED_OPERATION_COMPLETION (R45): the shifts of non-faulting loads keep their issue order (R222). -/
def execCountedOperationCompletion (core slot index : Nat) (s : State) : Out :=
  let k := tkey core slot
  match s.thread? k with
  | none => .next s
  | some t =>
    match t.inflight[index]? with
    | none => .next s
    | some x =>
      let known := x.result.isSome || x.trap.isSome
      let inOrder := !x.nf || (t.inflight.take index).all (!·.nf)
      let s1 := s.setThread k (t.complete index x)
      let s1 := match x.entry with
        | some e => s1.modBuf core e BufEntry.read
        | none => s1
      whenCan (known && inOrder) (match x.trap with
        | some ti => trapHere s1 k ti x.resume x.pc
        | none => s1) s

/-! Troupes that stay together (R344, R345). -/

/-- Do two threads stand at one instruction of one workgroup, with the same fetched clause (R344). -/
def sameIssue (t u : Thread) : Bool :=
  t.wg == u.wg && t.pc == u.pc && t.clause == u.clause && t.immx == u.immx && t.refetch == u.refetch

/-- A wait that does not split a troupe: the members that have gone on wait for the one that stalls (R345). -/
def WaitReason.keepsTroupe : WaitReason → Bool
  | .busy | .recordQueue | .acks | .order | .pinLimit => true
  | .mask | .handle | .entry | .barrier | .step | .superstep | .rendezvous | .engineQueue | .backoff | .flagFull | .jobTable | .fence
  | .tret | .exitFlags => false

/-- Does a thread stall in such a wait. -/
def Thread.lags (t : Thread) : Bool :=
  match t.wait with
  | some (r, _) => r.keepsTroupe
  | none => false

/-- Has a thread gone on ahead of a member of its troupe that stalls without splitting it (R345; log 76). -/
def waitsForMate (s : State) (core : Nat) (t : Thread) : Bool :=
  t.troupe.isSome && s.threads.any fun e => coreOf e.1 == core && e.2.troupe == t.troupe && e.2.lags && !sameIssue t e.2

/-! The age rule. -/

/-- Cycles for which a thread's instruction has been ready, more than 4,096 of which let it win its row (R350). -/
def aged (s : State) (core : Nat) (t : Thread) : Bool :=
  match t.ready with
  | some r => decide (r + 4096 < s.cycles core)
  | none => false

/-- Has a thread been ready at least as long as another (R350). -/
def olderReady (t u : Thread) : Bool :=
  match t.ready, u.ready with
  | some a, some b => decide (a ≤ b)
  | _, none => true
  | none, some _ => false

/-- AGE_RULE_WIN (R350): the instruction that has been ready longest, for more than 4,096 cycles, takes its row's
next issue. One that waits for a member of its troupe is not ready (log 76). -/
def execAgeRuleWin (core slot : Nat) (s : State) : Out :=
  match s.thread? (tkey core slot) with
  | none => .next s
  | some t =>
    let may := fun (slot : Nat) (t : Thread) => slotReady s core slot && !waitsForMate s core t
    let longest := s.threads.all fun x => coreOf x.1 != core || x.1 % 4 != slot % 4 || !may (x.1 % 2048) x.2 || olderReady t x.2
    let free := match mget (s.core core).ageWin (slot % 4) with
      | some x => !slotReady s core x
      | none => true
    whenCan (free && longest && may slot t && aged s core t)
      (s.modCore core fun c => { c with ageWin := mput c.ageWin (slot % 4) slot
                                        counters := { c.counters with ageWins := satAdd c.counters.ageWins 1 0xFFFFFFFF } }) s

/-! Lanes (R22). -/

/-- A row's waiting remap takes effect: the lane goes onto the spare, the generation counts, and the register of
its position is cleared (R22, R108). -/
def remapLane (s : State) (core row : Nat) : State :=
  let c := s.core core
  match c.rows[row]? with
  | none => s
  | some r =>
    match r.pending with
    | none => s
    | some lane => s.setCore core { c with
        rows := c.rows.setIfInBounds row { r with spare := some lane, pending := none }
        lanes := mdel c.lanes (row * 8 + lane)
        laneGen := (c.laneGen + 1) % 256 }

/-- Is a row at a clause boundary: a thread of it that may issue stands at one, or none is inside a clause (R22). -/
def rowAtBoundary (s : State) (core row : Nat) : Bool :=
  let mine := s.threads.filter fun x => coreOf x.1 == core && x.1 % 4 == row
  (mine.any fun x => x.2.clause.isNone && slotReady s core (x.1 % 2048)) || mine.all fun x => x.2.clause.isNone

/-- LANE_REMAP (R22). -/
def execLaneRemap (core row : Nat) (s : State) : Out := whenCan (rowAtBoundary s core row) (remapLane s core row) s

/-! Meeting holds (R357). -/

/-- Members of a hold group (R357). -/
def holdGroup (s : State) (wg : Nat) (m : DWord) : List (Nat × Thread) :=
  s.threads.filter fun x => x.2.wg == wg && x.2.held.isSome && x.2.meet == some m && x.2.pc == m

/-- Does a thread of the workgroup outside the group hold M, or has one exited with it since the last expiry there (R357,
R358). -/
def holdsOutside (s : State) (wg : Nat) (m : DWord) : Bool :=
  (s.threads.any fun x => x.2.wg == wg && x.2.meet == some m && x.2.held.isNone)
    || ((s.wg? wg).map fun w => w.metGone.contains m).getD false

/-- Releases a hold group: every member empties its meeting register and continues (R357). -/
def releaseHold (s : State) (wg : Nat) (m : DWord) : State :=
  (holdGroup s wg m).foldl (fun s x => s.setThread x.1 { x.2 with held := none, meet := none, ready := some (s.cycles (coreOf x.1)) }) s

/-- MEET_HOLD_RELEASE (R357). -/
def execMeetHoldRelease (wg : Nat) (m : DWord) (s : State) : Out :=
  whenCan (!holdsOutside s wg m && !(holdGroup s wg m).isEmpty) (releaseHold s wg m) s

/-- MHOLD_EXPIRY (R357, R358): it releases a group that no release has reached before; a thread that exited holding M
counts no longer. -/
def execMholdExpiry (wg : Nat) (m : DWord) (s : State) : Out :=
  match s.wg? wg with
  | none => .next s
  | some w =>
    let g := holdGroup s wg m
    let due := g.any fun x => match x.2.held with
      | some t => decide (t + w.mhold ≤ s.cycles w.core)
      | none => false
    let s1 := (releaseHold s wg m).modWg wg fun w => { w with metGone := w.metGone.filter (· != m) }
    whenCan (due && holdsOutside s wg m) (s1.modCore w.core fun c => { c with
      counters := { c.counters with meetExpire := satAdd c.counters.meetExpire g.length 0xFFFFFFFF } }) s

/-! Waits that end. -/

/-- BACKOFF_EXPIRY (R407). -/
def execBackoffExpiry (core slot : Nat) (s : State) : Out :=
  match s.thread? (tkey core slot) with
  | none => .next s
  | some t => whenCan (match t.backoff with
      | some u => decide (u ≤ s.cycles core)
      | none => false) (s.setThread (tkey core slot) { t with backoff := none, wait := none, ready := some (s.cycles core) }) s

/-- YIELD_WAIT_EXPIRY (R409). -/
def execYieldWaitExpiry (core slot : Nat) (s : State) : Out :=
  match s.thread? (tkey core slot) with
  | none => .next s
  | some t => whenCan (match t.yielded with
      | some u => decide (u + 64 ≤ s.cycles core)
      | none => false) (s.setThread (tkey core slot) { t with yielded := none, ready := some (s.cycles core) }) s

/-- Does a wait count as blocking (R349). -/
def WaitReason.blocks : WaitReason → Bool
  | .mask | .handle | .entry | .barrier | .step | .superstep | .rendezvous | .engineQueue | .backoff => true
  | .busy | .flagFull | .jobTable | .recordQueue | .acks | .fence | .order | .tret | .exitFlags | .pinLimit => false

/-- Where a blocked thread's trap resumes and what TRAPADDR is (R406, R413). -/
def blockedAt (t : Thread) : Resume :=
  match t.clause with
  | none => resumeHeader t
  | some c => match decodeBody c t.pc with
    | some i => resumeOf t i
    | none => resumeDeferred t

/-- Is a thread's WATCHDOG due: it has issued nothing for WDOG_LIM and is blocked; a thread whose wait has ended is
not (R349, R413). -/
def watchdogDue (s : State) (t : Thread) : Bool :=
  let blocked := match t.wait with
    | some (r, _) => r.blocks && t.ready.isNone
    | none => false
  decide (0 < s.launch.wdog) && blocked && t.run == .running && t.held.isNone
    && ((s.wg? t.wg).map (·.phase)) == some .running && decide (t.issued + s.launch.wdog * micro ≤ s.now)

/-- WATCHDOG (R413): of the threads of a core for which it is due, the lowest slot first; one with a trap that waits to be
taken raises no other (R405). -/
def execWatchdog (core slot : Nat) (s : State) : Out :=
  let k := tkey core slot
  match s.thread? k with
  | none => .next s
  | some t =>
    let due := fun (k : Nat) (t : Thread) => watchdogDue s t && (s.gather.getD []).all fun r => r.key != k
    let first := s.threads.all fun x => coreOf x.1 != core || decide (k ≤ x.1) || !due x.1 x.2
    whenCan (due k t && first) (raiseTraps s [⟨k, { cause := .watchdog }, blockedAt t, (blockedAt t).retryPc⟩]) s

/-! What comes back from other modules (R165, R166). -/

/-- An acknowledgement is no longer awaited. -/
def lowerAcks (s : State) (core : Nat) : State := s.modCore core fun c => { c with acks := c.acks - 1 }

/-- A line asked for by the tile fetch unit is there, or with no bytes has timed out. -/
def giveLine (s : State) (core item pa : Nat) (b : List Byte) : State :=
  s.modEngine core fun e => e.setItem item fun i => { i with got := i.got ++ [(pa, b)] }

/-- Does the core's counter count an access to another module: a thread's or a job's write (R165). -/
def Access.counted (a : Access) : Bool := !a.op.reads && a.op.asker?.isNone

/-- What an acknowledgement or value does (R133, R165, R237). -/
def ackAccess (s : State) (id : Nat) (a : Access) (b : List Byte) : State :=
  let s := if a.counted then lowerAcks s a.core else s
  match a.op with
  | .piece i => if a.job = some fetchEntry then giveLine (dropAcc s id) a.core i a.pa b else dropAcc (accResult s id a b) id
  | .cctl v => endService (dropAcc s id) v
  | .load _ _ | .atom _ _ _ | .store _ | .red _ _ | .code _ _ | .read _ | .write _ _ | .swap _ _ _ | .update _ _ _ =>
    dropAcc (accResult s id a b) id

/-- REMOTE_ACK (R165): the value is as long as the access, where one returns. -/
def execRemoteAck (id : Nat) (value : List Byte) (s : State) : Out :=
  match mget s.accs id with
  | none => .next s
  | some a => whenCan (a.remote && (!(a.op.returns || a.op.reads) || value.length == a.size)) (ackAccess s id a value) s

/-- A trap of the fabric timeout, deferred (R166, R438). -/
def timeoutTrap (a : Access) : TrapInfo := { accTrap a .remoteTimeout 0 with defer := true }

/-- What a timeout does: a load's trap is taken when its flag would decrement, that of an acknowledgement at the
thread's next wait on the counter, a job stops, and an asker is told (R166, R244, R438). -/
def expireAccess (s : State) (id : Nat) (a : Access) : State :=
  let s := dropAcc (if a.counted then lowerAcks s a.core else s) id
  if a.op.asker?.isSome then giveReply s a (some (.remoteTimeout, 0)) []
  else if a.job = some fetchEntry then (match a.op with
    | .piece i => giveLine s a.core i a.pa []
    | .load _ _ | .store _ | .atom _ _ _ | .red _ _ | .cctl _ | .code _ _ | .read _ | .write _ _ | .swap _ _ _
    | .update _ _ _ => s)
  else match a.job with
  | some e => s.modJob a.core e fun j => { j with fault := j.fault.or (some (accTrap a .remoteTimeout 0)) }
  | none =>
    if a.op.returns then withFlight s a.thread id fun x => { x with access := [], trap := some (timeoutTrap a) }
    else
      let s := match a.op with
        | .cctl v => endService s v
        | .load _ _ | .store _ | .atom _ _ _ | .red _ _ | .piece _ | .code _ _ | .read _ | .write _ _ | .swap _ _ _
        | .update _ _ _ => s
      s.modThread a.thread fun t =>
        if t.wg = a.wg ∧ t.lin = a.lin then { t with deferred := t.deferred ++ [⟨timeoutTrap a, a.pc, .counter⟩] } else t

/-- REMOTE_TIMEOUT (R166): no answer within FAB_TMO. -/
def execRemoteTimeout (id : Nat) (s : State) : Out :=
  match mget s.accs id with
  | none => .next s
  | some a => whenCan (a.remote && decide (a.sent + max 1 s.link.fabTmo * micro ≤ s.now)) (expireAccess s id a) s

end Sys2Proof.Machine
end

