-- ==== Sys2Proof/Machine/Fpu.lean ====
section
/-! DEFINITION. FP32 operations, the generator and conversions (R297 to R305). -/

namespace Sys2Proof.Machine

/-- FADD (R300). -/
def execFadd (b a d : Reg) (p : PReg) (s : State) : Out :=
  onThread (.fadd b a d p) p (fun t => t.wrG d (Machine.fadd (t.rdG a) (t.rdG b))) s
/-- FSUB (R300). -/
def execFsub (b a d : Reg) (p : PReg) (s : State) : Out :=
  onThread (.fsub b a d p) p (fun t => t.wrG d (Machine.fsub (t.rdG a) (t.rdG b))) s
/-- FMUL (R300). -/
def execFmul (b a d : Reg) (p : PReg) (s : State) : Out :=
  onThread (.fmul b a d p) p (fun t => t.wrG d (Machine.fmul (t.rdG a) (t.rdG b))) s
/-- FMIN (R300). -/
def execFmin (b a d : Reg) (p : PReg) (s : State) : Out :=
  onThread (.fmin b a d p) p (fun t => t.wrG d (Machine.fmin (t.rdG a) (t.rdG b))) s
/-- FMAX (R300). -/
def execFmax (b a d : Reg) (p : PReg) (s : State) : Out :=
  onThread (.fmax b a d p) p (fun t => t.wrG d (Machine.fmax (t.rdG a) (t.rdG b))) s
/-- FABS (R300). -/
def execFabs (a d : Reg) (p : PReg) (s : State) : Out :=
  onThread (.fabs a d p) p (fun t => t.wrG d (fabsW (t.rdG a))) s
/-- FNEG (R300). -/
def execFneg (a d : Reg) (p : PReg) (s : State) : Out :=
  onThread (.fneg a d p) p (fun t => t.wrG d (fnegW (t.rdG a))) s
/-- FDIV, counted on setA (R300). -/
def execFdiv (b a d : Reg) (p : PReg) (s : State) : Out :=
  onThreadCounted (.fdiv b a d p) p (fun t => [.g d (Machine.fdiv (t.rdG a) (t.rdG b))]) s
/-- FSQRT, counted on setA (R301). -/
def execFsqrt (a d : Reg) (p : PReg) (s : State) : Out :=
  onThreadCounted (.fsqrt a d p) p (fun t => [.g d (Machine.fsqrt (t.rdG a))]) s
/-- FRCP, counted on setA (R301). -/
def execFrcp (a d : Reg) (p : PReg) (s : State) : Out :=
  onThreadCounted (.frcp a d p) p (fun t => [.g d (Machine.frcp (t.rdG a))]) s
/-- FRSQ, counted on setA (R301). -/
def execFrsq (a d : Reg) (p : PReg) (s : State) : Out :=
  onThreadCounted (.frsq a d p) p (fun t => [.g d (Machine.frsq (t.rdG a))]) s
/-- FEXP2, counted on setA (R301). -/
def execFexp2 (a d : Reg) (p : PReg) (s : State) : Out :=
  onThreadCounted (.fexp2 a d p) p (fun t => [.g d (Machine.fexp2 (t.rdG a))]) s
/-- FLOG2, counted on setA (R301). -/
def execFlog2 (a d : Reg) (p : PReg) (s : State) : Out :=
  onThreadCounted (.flog2 a d p) p (fun t => [.g d (Machine.flog2 (t.rdG a))]) s
/-- FSIN, counted on setA (R301). -/
def execFsin (a d : Reg) (p : PReg) (s : State) : Out :=
  onThreadCounted (.fsin a d p) p (fun t => [.g d (Machine.fsin (t.rdG a))]) s
/-- FCOS, counted on setA (R301). -/
def execFcos (a d : Reg) (p : PReg) (s : State) : Out :=
  onThreadCounted (.fcos a d p) p (fun t => [.g d (Machine.fcos (t.rdG a))]) s
/-- FTANH, counted on setA (R301). -/
def execFtanh (a d : Reg) (p : PReg) (s : State) : Out :=
  onThreadCounted (.ftanh a d p) p (fun t => [.g d (Machine.ftanh (t.rdG a))]) s
/-- FFMA (R299). -/
def execFfma (b a d : Reg) (p : PReg) (s : State) : Out :=
  onThread (.ffma b a d p) p (fun t => t.wrG d (Machine.ffma (t.rdG a) (t.rdG b) (t.rdG d))) s
/-- FFLR (R302). -/
def execFflr (a d : Reg) (p : PReg) (s : State) : Out :=
  onThread (.fflr a d p) p (fun t => t.wrG d (roundIntegral .rdn (t.rdG a))) s
/-- FCEIL (R302). -/
def execFceil (a d : Reg) (p : PReg) (s : State) : Out :=
  onThread (.fceil a d p) p (fun t => t.wrG d (roundIntegral .rup (t.rdG a))) s
/-- FRND (R302). -/
def execFrnd (a d : Reg) (p : PReg) (s : State) : Out :=
  onThread (.frnd a d p) p (fun t => t.wrG d (roundIntegral .rne (t.rdG a))) s
/-- FTRC (R302). -/
def execFtrc (a d : Reg) (p : PReg) (s : State) : Out :=
  onThread (.ftrc a d p) p (fun t => t.wrG d (roundIntegral .rtz (t.rdG a))) s
/-- RAND_SEED (R303). -/
def execRandSeed (a d : Reg) (p : PReg) (s : State) : Out :=
  onThread (.randSeed a d p) p (fun t => { t with rng := rngFix (t.rdG a) }.wrG d t.rng) s
/-- RAND_DRAW (R303). -/
def execRandDraw (d : Reg) (p : PReg) (s : State) : Out :=
  onThread (.randDraw d p) p (fun t => { t with rng := rngNext t.rng }.wrG d (rngNext t.rng)) s
/-- CVT (R305): a stochastic conversion takes one draw. -/
def execCvt (z : Bool) (r : Rounding) (dt st : CvtType) (a d : Reg) (p : PReg) (s : State) : Out :=
  onThread (.cvt z r dt st a d p) p (fun t =>
    let x := cvtWord z r dt st (t.rdG a) t.rng
    { t with rng := x.2 }.wrG d x.1) s

end Sys2Proof.Machine
end

