-- ==== Sys2Proof/Machine/Handles.lean ====
section
/-! DEFINITION. The handle instructions (R266 to R268). -/

namespace Sys2Proof.Machine

/-- What an instruction does with the job that its handle names, if the token is good (R267). -/
def withHandle (s : State) (k : Nat) (h : HReg) (null : Thread → Effect)
    (f : Thread → Workgroup → Nat → JobNum → Effect) : Effect :=
  withWg s k fun t w => match resolveToken w (t.rdH h) with
    | .bad => .trap s { cause := .handleBad }
    | .null => null t
    | .job n x => f t w n x

/-- WAITH (R267): the fault of a job is raised at each WAITH (R244). -/
def execWaith (a : Reg) (h : HReg) (p : PReg) (s : State) : Out :=
  perThread (.waith a h p) p (fun s k _ =>
    withHandle s k h (fun t => .next (s.setThread k (t.wrG a 0))) fun t _ n x =>
      if x.status = .pending then .wait s .handle
      else if x.status = .faulted then
        .trap (s.modWg t.wg fun w => { w with jobNums := mput w.jobNums n { x with seen := true } })
          (x.trap.getD { cause := .handleBad })
      else .next (s.setThread k (t.wrG a (BitVec.ofNat 32 x.status.code)))) s

/-- The conditions of TESTH (R266, R267). -/
def testCond (c : HCond) (st : JobStatus) : Bool :=
  match c with
  | .done => st != .pending
  | .ok => st == .done
  | .can => st == .cancelled
  | .flt => st == .faulted
  | .ref => st == .refused
  | .den => st == .denied

/-- TESTH (R267). -/
def execTesth (b : PReg) (h : HReg) (c : HCond) (p : PReg) (s : State) : Out :=
  perThread (.testh b h c p) p (fun s k _ =>
    withHandle s k h (fun t => .next (s.setThread k (t.wrP b (testCond c .done)))) fun t _ _ x =>
      .next (s.setThread k (t.wrP b (testCond c x.status)))) s

/-- MOVH (R268). -/
def execMovh (a h : HReg) (p : PReg) (s : State) : Out :=
  onThread (.movh a h p) p (fun t => t.wrH h (t.rdH a)) s

/-- CANCEL acts on a job in its core's table (R112, R268). -/
def cancelJob (s : State) (core wg num : Nat) : State :=
  match (s.core core).jobs.find? fun x => x.2.wg == wg && x.2.num == num with
  | none => s
  | some (e, j) =>
    match j.work with
    | .page => cancelPage s (wg, num)
    | .service => s
    | .copy _ _ _ | .reduce _ _ _ _ _ _ | .fill _ _ _ | .boxIn _ _ _ | .boxReduce _ _ _ _ _ | .boxOut _ _ _
    | .arm _ _ | .collect _ _ _ _ => s.modJob core e fun j => { j with cancel := true }

/-- CANCEL (R268). -/
def execCancel (h : HReg) (p : PReg) (s : State) : Out :=
  perThread (.cancel h p) p (fun s k _ =>
    withHandle s k h (fun _ => .next s) fun t _ n _ => .next (cancelJob s (coreOf k) t.wg n)) s

/-- The 8 bytes of a saved handle: the token and the workgroup's context tag (R268). -/
def handleBytes (t : Thread) (h : HReg) : List Byte := natBytes 4 (t.rdH h).toNat ++ natBytes 4 t.wg

/-- HSAVE (R268). -/
def execHsave (a : Reg) (h : HReg) (sp : Space) (p : PReg) (s : State) : Out :=
  perThread (.hsave a h sp p) p (fun s k lane => withWg s k fun t w => memGate s k t .plain false sp fun s t =>
    if sp = .global then
      let va := (t.rdPair a).toNat
      let r := resolveG s (ctxOf k lane t w) va 8 .dflt false true false
      match r.1 with
      | .busy => .wait r.2 .busy
      | .trap c info => .trap r.2 (globalTrap c info va true)
      | .absent _ _ => .trap r.2 (globalTrap .pageAbsent 0 va true)
      | .at place pa =>
        let data := handleBytes t h
        storeAt r.2 k (accOf k t w va pa 8 .dflt .plain (.store data)) data place
    else
      let base := (t.rdG a).toNat
      match resolveLocal s ⟨t.lin, t.wg, w, supervisor t w⟩ sp base 8 true with
      | .error c => .trap s (spaceTrap c sp base true)
      | .ok l =>
        if localBusy s k l 8 then .wait s .order
        else if localLate s l then .next (pend s (localAcc k t sp l 8 .plain (.store (handleBytes t h)))).2
        else .next (writeLocal s l (handleBytes t h))) s

/-- A saved handle has been read: its tag and KIND are checked (R268). -/
def restoreHandle (s : State) (k : Nat) (t : Thread) (h : HReg) (b : List Byte) : Effect :=
  let tok := fieldAt b 0 4
  if tok ≠ 0 ∧ (fieldAt b 4 4 ≠ t.wg ∨ tok % 4 = 3) then .trap s { cause := .handleBad }
  else .next (s.modThread k fun t => t.wrH h (BitVec.ofNat 32 tok))

/-- HREST (R268). -/
def execHrest (a : Reg) (h : HReg) (sp : Space) (p : PReg) (s : State) : Out :=
  perThread (.hrest a h sp p) p (fun s k lane => withWg s k fun t w => memGate s k t .plain false sp fun s t =>
    if sp = .global then
      match readGlobal s k lane t w (t.rdPair a).toNat 8 with
      | .wait s r => .wait s r
      | .trap s ti => .trap s ti
      | .ok b s => restoreHandle s k t h b
    else
      let base := (t.rdG a).toNat
      match resolveLocal s ⟨t.lin, t.wg, w, supervisor t w⟩ sp base 8 false with
      | .error c => .trap s (spaceTrap c sp base false)
      | .ok l => if localBusy s k l 8 || !bankRuns s l then .wait s .order else restoreHandle s k t h (readLocal s l 8)) s

end Sys2Proof.Machine
end

