-- ==== Sys2Proof/Machine/HostIf.lean ====
section
/-! DEFINITION. Requests of the control node over the host links (R440). -/

namespace Sys2Proof.Machine

/-- Can a link carry a request: it is up (R440). -/
def linkIsUp (s : State) (link : Nat) : Bool := s.link.linkUp.contains link

/-- What a link's boot responder serves from boot step 1 on, while the link is not up: reads of BOOT_STAT and of the flash
(R447). -/
def bootServes (s : State) (link : Nat) (target : HostTarget) (pa : Nat) : Bool :=
  decide (link < 2) && decide (1 ≤ s.boot.step) && (s.boot.step != 6 || s.boot.err != 0) && (match target with
    | .flash => true
    | .device => pa == s.page.moduleId * 2 ^ 48 + 0xFF0000870000
    | .vault | .wafer | .regs _ _ => false)

/-- The vault address that a physical address names, for n bytes of this module (R97, R440). -/
def hostVault? (s : State) (pa n : Nat) : Option Nat :=
  if pa / 2 ^ 48 = s.page.moduleId ∧ inVault (pa % 2 ^ 48) ∧ inVault (pa % 2 ^ 48 + n - 1) then some (pa % 2 ^ 48) else none

/-- Frames that n bytes from a vault address touch. -/
def touchesMarked (s : State) (a n : Nat) : Bool :=
  s.boot.frames.any fun f => decide (f * 2 ^ 14 < a + n) && decide (a < (f + 1) * 2 ^ 14)

/-- What a request has given: its bytes or the error of R449 and R98; none while it is under way. -/
abbrev HostResult := Option (Except (Cause × Nat) (List Byte))

/-- The error status that the host is answered with. -/
def hostError : HostResult := some (.error (.perm, 0))

/-- A write to the vault region: pol 1 accesses at the homes, line by line; a marked frame takes none (R131, R440,
R449). -/
def hostVaultWrite (s : State) (who : Asker) (pa : Nat) (b : List Byte) : HostResult × State :=
  match hostVault? s pa b.length with
  | none => (hostError, s)
  | some a => if touchesMarked s a b.length then (hostError, s) else askWrite s who 256 0 pa b (b.length / 128 + 2)

/-- A read of the vault region: pol 1 accesses at the homes, line by line (R131, R440). -/
def hostVaultRead (s : State) (who : Asker) (pa n : Nat) : HostResult × State :=
  match hostVault? s pa n with
  | none => (hostError, s)
  | some _ => askRead s who 256 0 pa n (n / 128 + 2)

/-- A write to wafer scratchpad at the bank; a mirror of the broadcast window takes none, and a bank whose clock is
stopped performs it when the clock runs again (R135, R427, R440; log 41). -/
def hostWaferWrite (s : State) (off : Nat) (b : List Byte) : HostResult × State :=
  if 2 ^ 32 < off + b.length ∨ (s.bwin ∧ 12 * 2 ^ 20 < off % 2 ^ 24 + b.length) then (hostError, s)
  else if !waferRuns s off b.length then (none, s)
  else (some (.ok []), { s with wmem := writeBytes s.wmem off b })

/-- A read of wafer scratchpad at the bank (R427, R440). -/
def hostWaferRead (s : State) (off n : Nat) : HostResult :=
  if 2 ^ 32 < off + n then hostError
  else if !waferRuns s off n then none else some (.ok (readBytes s.wmem off n))

/-- Does an address name a device register of this module for n bytes: 32 bits, aligned (R92, R440). -/
def hostDevice (s : State) (pa n : Nat) : Bool :=
  pa / 2 ^ 48 == s.page.moduleId && decide (deviceBase ≤ pa % 2 ^ 48) && pa % 4 == 0 && n == 4

/-- A write to a device register through the management mirror (R92, R440). -/
def hostDeviceWrite (s : State) (pa : Nat) (b : List Byte) : HostResult × State :=
  if hostDevice s pa b.length then (some (.ok []), devWrite s (pa % 2 ^ 48 - deviceBase) (BitVec.ofNat 32 (bytesNat b)))
  else (hostError, s)

/-- A read of a device register through the management mirror (R92, R440). -/
def hostDeviceRead (s : State) (pa n : Nat) : HostResult :=
  if hostDevice s pa n then some (.ok (natBytes 4 (devRead s (pa % 2 ^ 48 - deviceBase)).toNat)) else hostError

/-- A read of the carrier's flash through the management mirror (R418, R447). -/
def hostFlashRead (s : State) (a n : Nat) : HostResult :=
  if 2 ^ 26 < a + n then hostError else some (.ok (flashBytes s a n))

/-- A thread's registers as the management mirror shows them: r0 to r63, p0 to p6, m0 to m7, h0 to h15, f0 to f11, the
program counter, TRAPCAUSE, TRAPADDR and TRAPTID (R411; log 82). -/
def regBytes (t : Thread) : List Byte :=
  t.g.toList.flatMap (fun x => natBytes 4 x.toNat)
    ++ natBytes 8 ((t.p.toList.take 7).zipIdx.foldl (fun n x => n + x.1.toNat * 2 ^ x.2) 0)
    ++ t.m.toList ++ t.h.toList.flatMap (fun x => natBytes 4 x.toNat) ++ t.f.toList.flatMap (natBytes 1) ++ natBytes 4 0
    ++ natBytes 8 t.pc.toNat ++ natBytes 8 t.trapCause.toNat ++ natBytes 8 t.trapAddr.toNat ++ natBytes 4 t.trapTid.toNat

/-- A read of a halted thread's registers through the management mirror (R411). -/
def hostRegsRead (s : State) (core slot a n : Nat) : HostResult :=
  match s.thread? (tkey core slot) with
  | some t => if t.run = .halted ∧ a + n ≤ (regBytes t).length then some (.ok (((regBytes t).drop a).take n)) else hostError
  | none => hostError

/-- Performs a host request as far as it can go (R440). -/
def hostPerform (s : State) (r : HostReq) : HostResult × State :=
  let who : Asker := .host r.link
  match r.target, r.write with
  | .vault, true => hostVaultWrite s who r.addr r.data
  | .wafer, true => hostWaferWrite s r.addr r.data
  | .device, true => hostDeviceWrite s r.addr r.data
  | .flash, true | .regs _ _, true => (hostError, s)
  | .vault, false => hostVaultRead s who r.addr r.data.length
  | .wafer, false => (hostWaferRead s r.addr r.data.length, s)
  | .device, false => (hostDeviceRead s r.addr r.data.length, s)
  | .flash, false => (hostFlashRead s r.addr r.data.length, s)
  | .regs core slot, false => (hostRegsRead s core slot r.addr r.data.length, s)

/-- Answers a request: a write's acknowledgement, a read's bytes, or an error status (R440, R449). -/
def hostAnswer (s : State) (r : HostReq) (x : Except (Cause × Nat) (List Byte)) : State :=
  let y := match x with
    | .ok b => Reply.mk (.host r.link) 256 r.addr r.data.length r.write none (if r.write then [] else b)
    | .error e => Reply.mk (.host r.link) 256 r.addr r.data.length r.write (some e) []
  let s := if r.target = .vault then forget s (.host r.link) else s
  s.modLink fun l => { l with answers := l.answers ++ [y] }

/-- Has a link a request that is still to be performed. -/
def hostBusy (s : State) (link : Nat) : Bool := s.hostReqs.any (·.link == link)

/-- A request of a link is performed after the earlier ones of the link, and acknowledged then (R440). -/
def takeHost (s : State) (r : HostReq) : State :=
  if hostBusy s r.link then { s with hostReqs := s.hostReqs ++ [r] }
  else match hostPerform s r with
    | (some x, s) => hostAnswer s r x
    | (none, s) => { s with hostReqs := s.hostReqs ++ [r] }

/-- The requests that wait go on, each link's in its order. -/
def pumpHost (s : State) : State := s.hostReqs.foldl takeHost { s with hostReqs := [] }

/-- HOST_WRITE (R440). -/
def execHostWrite (link : Nat) (target : HostTarget) (addr : Nat) (data : List Byte) (s : State) : Out :=
  whenCan (linkIsUp s link) (takeHost s ⟨link, target, true, addr, data⟩) s

/-- HOST_READ (R440). -/
def execHostRead (link : Nat) (target : HostTarget) (addr size : Nat) (s : State) : Out :=
  whenCan (linkIsUp s link || bootServes s link target addr) (takeHost s ⟨link, target, false, addr, List.replicate size 0⟩) s

/-- HOST_LINK_DOWN (R440): all traffic moves to the other link; no lane brings this one up again. -/
def execHostLinkDown (link : Nat) (s : State) : Out :=
  .next ((linkDown s link).modPort (hostPort link) fun _ => Port.reset)

end Sys2Proof.Machine
end

