-- ==== Sys2Proof/Machine/Flags.lean ====
section
/-! DEFINITION. The conditions that compares write into predicates (R289 to R291). The machine has no
other arithmetic flags (R274). -/

namespace Sys2Proof.Machine

/-- Conditions of CMP, on i32 (R290). -/
def condSigned (c : Cond) (a b : Word) : Bool :=
  match c with
  | .eq => a == b
  | .ne => a != b
  | .lt => a.slt b
  | .le => a.sle b
  | .gt => b.slt a
  | .ge => b.sle a

/-- Conditions of CMPN, on n32 (R290). -/
def condUnsigned (c : Cond) (a b : Word) : Bool :=
  match c with
  | .eq => a == b
  | .ne => a != b
  | .lt => a.ult b
  | .le => a.ule b
  | .gt => b.ult a
  | .ge => b.ule a

/-- Conditions of CMPI (R289). -/
def condImm (c : ICond) (a i : Word) : Bool :=
  match c with
  | .eq => condSigned .eq a i
  | .ne => condSigned .ne a i
  | .lt => condSigned .lt a i
  | .le => condSigned .le a i
  | .gt => condSigned .gt a i
  | .ge => condSigned .ge a i
  | .ltn => condUnsigned .lt a i
  | .gen => condUnsigned .ge a i

/-- Conditions of FCMP; a pair with a NaN is unordered (R291). -/
def condFloat (c : FCond) (a b : Word) : Bool :=
  let un := (fval a).isNan || (fval b).isNan
  let o := (fval a).cmp (fval b)
  match c with
  | .eq => !un && o == 0
  | .ne => un || o != 0
  | .lt => !un && decide (o < 0)
  | .le => !un && decide (o ≤ 0)
  | .gt => !un && decide (0 < o)
  | .ge => !un && decide (0 ≤ o)
  | .un => un
  | .ord => !un

end Sys2Proof.Machine
end

