-- ==== Sys2Proof/Machine/Imm.lean ====
section
/-! DEFINITION. Immediate forms and compares (R288 to R291). -/

namespace Sys2Proof.Machine

/-- ADDI (R288). -/
def execAddi (i : BitVec 10) (a d : Reg) (p : PReg) (s : State) : Out :=
  onThread (.addi i a d p) p (fun t => t.wrG d (t.rdG a + t.imm i)) s
/-- ANDI (R288). -/
def execAndi (i : BitVec 10) (a d : Reg) (p : PReg) (s : State) : Out :=
  onThread (.andi i a d p) p (fun t => t.wrG d (t.rdG a &&& t.imm i)) s
/-- ORI (R288). -/
def execOri (i : BitVec 10) (a d : Reg) (p : PReg) (s : State) : Out :=
  onThread (.ori i a d p) p (fun t => t.wrG d (t.rdG a ||| t.imm i)) s
/-- XORI (R288). -/
def execXori (i : BitVec 10) (a d : Reg) (p : PReg) (s : State) : Out :=
  onThread (.xori i a d p) p (fun t => t.wrG d (t.rdG a ^^^ t.imm i)) s
/-- SHLI: a count above 31, which only a prefix can give here, is refused at issue (R51, R288). -/
def execShli (i : BitVec 10) (a d : Reg) (p : PReg) (s : State) : Out :=
  onThread (.shli i a d p) p (fun t => t.wrG d (shlW (t.rdG a) (t.imm i))) s
/-- SHRI: a count above 31, which only a prefix can give here, is refused at issue (R51, R288). -/
def execShri (i : BitVec 10) (a d : Reg) (p : PReg) (s : State) : Out :=
  onThread (.shri i a d p) p (fun t => t.wrG d (shrW (t.rdG a) (t.imm i))) s
/-- SARI: a count above 31, which only a prefix can give here, is refused at issue (R51, R288). -/
def execSari (i : BitVec 10) (a d : Reg) (p : PReg) (s : State) : Out :=
  onThread (.sari i a d p) p (fun t => t.wrG d (sarW (t.rdG a) (t.imm i))) s
/-- MOVI (R288). -/
def execMovi (i : BitVec 10) (d : Reg) (p : PReg) (s : State) : Out :=
  onThread (.movi i d p) p (fun t => t.wrG d (t.imm i)) s
/-- CMPI (R289). -/
def execCmpi (i : BitVec 10) (a : Reg) (c : ICond) (d p : PReg) (s : State) : Out :=
  onThread (.cmpi i a c d p) p (fun t => t.wrP d (condImm c (t.rdG a) (t.imm i))) s
/-- CMP (R290). -/
def execCmp (b a : Reg) (d : PReg) (c : Cond) (p : PReg) (s : State) : Out :=
  onThread (.cmp b a d c p) p (fun t => t.wrP d (condSigned c (t.rdG a) (t.rdG b))) s
/-- CMPN (R290). -/
def execCmpn (b a : Reg) (d : PReg) (c : Cond) (p : PReg) (s : State) : Out :=
  onThread (.cmpn b a d c p) p (fun t => t.wrP d (condUnsigned c (t.rdG a) (t.rdG b))) s
/-- FCMP (R291). -/
def execFcmp (b a : Reg) (d : PReg) (c : FCond) (p : PReg) (s : State) : Out :=
  onThread (.fcmp b a d c p) p (fun t => t.wrP d (condFloat c (t.rdG a) (t.rdG b))) s

end Sys2Proof.Machine
end

