-- ==== Sys2Proof/Machine/Residency.lean ====
section
/-! DEFINITION. Residency on cores (R27 to R29), the vault's projection (R89), the choice of cores (R386, R388)
and thread slots (R342). -/

namespace Sys2Proof.Machine

/-- Workgroups resident on a core. -/
def coreWgs (s : State) (core : Nat) : List (Nat × Workgroup) := s.wgs.filter fun x => x.2.resident && x.2.core == core

/-- Can one workgroup be resident on an empty core (R28). -/
def fitsEmpty (z : Sizes) : Bool := decide (z.threads ≤ 2048) && decide (z.footprint ≤ 2 ^ 20)

/-- Thread slots of a workgroup in use: all of one that has not started, else those of its threads that have not
exited (R28, R342). -/
def usedSlots (s : State) (core g : Nat) (w : Workgroup) : List Nat :=
  if w.phase = .placed then w.slots
  else w.slots.filter fun x => ((s.thread? (tkey core x)).map (·.wg)) == some g

/-- Scratchpad bytes of windows that a core keeps for groups of which a member has gone (R211); a group that is saved has
freed them (R414). -/
def keptWindows (s : State) (core : Nat) : Nat :=
  let saved := fun (c : Coords) => s.wgs.any fun y => y.2.phase == .saved && y.2.coords.launch == c.launch && y.2.coords.group == c.group
  ((s.wgs.filter fun x => x.2.phase == .gone && x.2.core == core && !saved x.2.coords).map fun x => round256 x.2.sizes.window).sum

/-- Can a workgroup with so many threads be added to a core (R28); a core with a stopped row takes none (R22). -/
def coreTakes (s : State) (core : Nat) (z : Sizes) (threads : Nat) : Bool :=
  let l := coreWgs s core
  decide (l.length < 16)
    && decide ((l.map fun x => (usedSlots s core x.1 x.2).length).sum + threads ≤ 2048)
    && decide ((l.map fun x => x.2.sizes.footprint).sum + keptWindows s core + z.footprint ≤ 2 ^ 20)
    && (s.core core).rows.toList.all fun r => !r.stopped

/-- Can a workgroup that has not started be added to a core (R28). -/
def coreFits (s : State) (core : Nat) (z : Sizes) : Bool := coreTakes s core z z.threads

/-- Data share in percent of a multiplier (R86). -/
def dataShare (m : Nat) : Nat := 100 - refreshShare m

/-- Does a cluster's vault accept a further workgroup, with more heat classes placed there besides those
resident (R87, R89). -/
def vaultAccepts (s : State) (cluster more heat : Nat) : Bool :=
  let v := s.vault cluster
  let t : Int := v.temp + (s.heatCoef * (((clusterWgs s cluster).map fun x => x.2.sizes.heat).sum + more + heat) : Nat)
  let m := if hostRefresh s then max (multOf t) v.ovr else multOf t
  !v.closed && decide (s.vaultFloor ≤ dataShare m) && decide (t < 115 * 16)

/-- Chooses n cores of one cluster in order: the cores chosen, and the vault checks that failed (R388). -/
def pickInCluster (s : State) (z : Sizes) (n : Nat) : List Nat → List Nat → Nat → List Nat × Nat
  | [], chosen, failed => (chosen, failed)
  | c :: r, chosen, failed =>
    if n ≤ chosen.length then (chosen, failed)
    else if !vaultAccepts s (clusterOf c) (chosen.length * z.heat) z.heat then pickInCluster s z n r chosen (failed + 1)
    else if coreFits s c z then pickInCluster s z n r (chosen ++ [c]) failed
    else pickInCluster s z n r chosen failed

/-- Chooses distinct cores of one cluster for the n members of a group among the cores of a set, in increasing
number: the cores, if there are any, and the vault checks that failed (R29, R386, R388). -/
def pickCores (s : State) (z : Sizes) (n : Nat) (set : List Nat) : Option (List Nat) × Nat :=
  ((set.map clusterOf).eraseDups).foldl (fun (r : Option (List Nat) × Nat) cl =>
    match r.1 with
    | some _ => r
    | none =>
      let x := pickInCluster s z n (set.filter fun c => clusterOf c == cl) [] 0
      (if x.1.length = n then some x.1 else none, r.2 + x.2)) (none, 0)

/-- Free thread slots of a core, n of them in rising order (R342). DESIGN CHOICE (log 92): the lowest ones. -/
def freeSlots (s : State) (core n : Nat) : List Nat :=
  let used := (coreWgs s core).flatMap fun x => usedSlots s core x.1 x.2
  ((List.range Config.threadSlots).filter fun x => !used.contains x).take n

/-- Members of a cluster group (R382). -/
def Sizes.group (z : Sizes) : Nat := max 1 z.cgsize

/-- Workgroups of a launch (R382). -/
def Sizes.count (z : Sizes) : Nat := z.gridX * z.gridY * z.gridZ * z.stages

/-- The allowed set of a workgroup in a launch, by its linear index (R386). -/
def allowedCores (s : State) (l : Launch) (linear : Nat) : List Nat :=
  match l.table with
  | [] => s.launch.cores
  | es => match es.find? fun e => decide (e.first ≤ linear) && decide (linear < e.first + e.count) with
    | some e => (s.launch.cores.drop e.core).take e.span
    | none => []

end Sys2Proof.Machine
end

