-- ==== Sys2Proof/Machine/Save.lean ====
section
/-! DEFINITION. Pre-emption and resumption of cluster groups (R49, R239, R270, R271, R339, R340, R414 to R416), and
the loss of a lane (R22). -/

namespace Sys2Proof.Machine

/-! Saving. -/

/-- The threads of a workgroup as it starts (R383, R389). -/
def startThreads (s : State) (wg : Nat) (w : Workgroup) (entry : DWord) : State :=
  w.slots.zipIdx.foldl (fun s x => s.setThread (tkey w.core x.1) (Thread.start wg w.coords.linear x.2 entry s.now (s.cycles w.core))) s

/-- Entry address of a launch. -/
def launchEntry (s : State) (launch : Nat) : DWord :=
  match mget s.launch.launches launch with
  | some l => l.entry
  | none => 0

/-- A cluster group begins to be saved: its threads stop at their next clause boundary (R414). -/
def beginSave (s : State) (launch group : Nat) : State :=
  let s := (groupWgs s launch group).foldl (fun s g => match s.wg? g with
    | none => s
    | some w =>
      let s := if w.phase = .placed then startThreads s g w (launchEntry s launch) else s
      if w.killed then s else s.setWg g { w with phase := .saving }) s
  let s := s.modRun launch fun l => { l with preempted := l.preempted + 1 }
  s.modLaunch fun u => { u with
    saving := u.saving ++ [(launch, group, none)], preempt := satAdd u.preempt 1 0xFFFFFFFF }

/-- Is what a workgroup has under way complete, or recorded, with no TLBI of its core still to be applied (R116, R239, R270,
R276, R339, R414). -/
def saveReady (s : State) (g : Nat) (w : Workgroup) : Bool :=
  let c := s.core w.core
  (s.threads.filter fun x => x.2.wg == g).all (fun x =>
    threadStopped s x.1 x.2 && x.2.inflight.isEmpty && (ownAccs s x.1).isEmpty && (s.gather.getD []).all fun r => r.key != x.1)
  && c.acks == 0 && !tlbiPending s w.core
  && c.jobs.all (fun x => x.2.wg != g || ((x.2.saved || !x.2.work.moves) && !x.2.gathers && !jobPending s w.core x.1))
  && (c.engine.owner != some g || c.engine.queue.all (·.started.isNone))

/-- A thread as the image holds it (R414 to R416): a wait other than in an SSTEP begins anew, but a BARWAIT that has
seen its completion keeps it (R366); a fence finds its conditions met (R233); and a trap due at the counter is due at
the first boundary. What a run of non-faulting loads has found absent it keeps (R471; log 81). -/
def Thread.imaged (t : Thread) : Thread :=
  { t with
    wait := match t.wait with
      | some (.superstep, n) => some (.superstep, n)
      | _ => none
    woken := t.woken.filter (·.2)
    rdv := none, yielded := none, fence := none, troupe := none, ready := none
    refetch := t.clause.isSome
    deferred := t.deferred.map fun d => if d.due = .counter then { d with due := .boundary } else d }

/-- An item as it is recorded: its reads have not taken place (R339). -/
def Item.recorded (x : Item) : Item :=
  { x with closed := true, staged := false, bData := [], bBad := none, ready := none, tests := 0, pins := [], got := [], brought := [], lost := []
           members := x.members.map fun m => { m with bad := none, aData := [] } }

/-- The saved images by their place in the pool: first byte and number of bytes. -/
def poolImages (s : State) : List (Nat × Nat) :=
  s.wgs.filterMap fun x => x.2.image.bind fun i => i.place.map fun a => (a, imageSize x.2.sizes i.engine.isSome)

/-- A place for an image of n bytes in the save pool: the first that no saved image takes (R414; log 37). -/
def poolPlace (s : State) (n : Nat) : Option Nat :=
  let l := poolImages s
  ((0 :: l.map fun x => x.1 + x.2).filter fun a =>
    decide (a + n ≤ s.launch.ctxSize * 2 ^ 20) && l.all fun x => decide (a + n ≤ x.1) || decide (x.1 + x.2 ≤ a)).min?

/-- An image is written to the pool (R414). The spec gives its parts and its size but no layout: each byte is a free
value (log 37). -/
def poolWrite (s : State) (at_ n : Nat) : State :=
  { s with
    free := s.free + n
    vmem := writeBytes s.vmem (s.launch.ctxBase % 2 ^ 48 + at_) ((List.range n).map fun i => Config.freeByte (s.free + i)) }

/-- Writes a workgroup's image and frees what it holds of its core (R414, R415; log 37). -/
def saveWg (s : State) (g : Nat) : State :=
  match s.wg? g with
  | none => s
  | some w =>
    let c := s.core w.core
    let mine := c.engine.owner == some g
    let image : Image :=
      { threads := (s.threads.filter fun x => x.2.wg == g).map fun x => x.2.imaged
        jobs := (c.jobs.filter fun x => x.2.wg == g).map fun x => { x.2 with saved := true, got := [] }
        shapes := c.shapes.filter fun x => x.2.owner == g
        bufs := c.bufs.filter fun x => x.2.owner == g
        engine := if mine then some { c.engine with queue := c.engine.queue.map Item.recorded } else none
        place := poolPlace s (imageSize w.sizes mine) }
    let s := image.place.elim s fun a => poolWrite s a (imageSize w.sizes mine)
    let s := if mine then unpin s (c.engine.queue.flatMap (·.pins)) else s
    let s := (c.jobs.filter fun x => x.2.wg == g).foldl (fun s x => forget s (.job w.core x.1)) s
    let s := if mine then { s with accs := s.accs.filter fun x => !(x.2.core == w.core && x.2.job == some fetchEntry) } else s
    let s := s.setCore w.core { c with
      jobs := c.jobs.filter fun x => x.2.wg != g
      shapes := c.shapes.filter fun x => x.2.owner != g
      bufs := c.bufs.filter fun x => x.2.owner != g
      engine := if mine then { Engine.free with lastStart := c.engine.lastStart } else c.engine }
    { s with threads := s.threads.filter fun x => x.2.wg != g }.setWg g { w with phase := .saved, image := some image }

/-- CONTEXT_SAVE_COMPLETE (R414): group is the key of a workgroup of the group. What waits for a core is tried
again. -/
def execContextSaveComplete (group : Nat) (s : State) : Out :=
  match s.wg? group with
  | none => .next s
  | some w =>
    let l := w.coords.launch
    let gs := (groupWgs s l w.coords.group).filter fun g => ((s.wg? g).map (·.killed)) != some true
    let ready := gs.all fun g => match s.wg? g with
      | some x => x.phase == .saving && saveReady s g x
      | none => false
    let retry := fun (x : Nat × Launch) => (x.1, { x.2 with waits := [] })
    whenCan (w.phase == .saving && ready) ((gs.foldl saveWg s).modLaunch fun u => { u with
      saving := u.saving.filter fun x => !(x.1 == l && x.2.1 == w.coords.group)
      launches := u.launches.map retry }) s

/-! Resuming. -/

/-- Can a saved workgroup be restored on a core: there is room for its threads that have not exited, and the numbers and
the engine that it needs are free (R28, R271, R340, R416). -/
def resumeOk (s : State) (w : Workgroup) (core : Nat) : Bool :=
  let c := s.core core
  match w.image with
  | none => coreFits s core w.sizes
  | some i =>
    coreTakes s core w.sizes i.threads.length
    && i.shapes.all (fun x => (mget c.shapes x.1).isNone)
    && i.bufs.all (fun x => ((mget c.bufs x.1).map fun b => b.st == .free && !b.release).getD true)
    && (i.engine.isNone || c.engine.owner.isNone)
    && decide (c.jobs.length + i.jobs.length ≤ 64)

/-- A resumed thread: a hold and a backoff wait start again (R407, R416). DESIGN CHOICE (log 89): that start of a hold is
not counted again in MEET_HOLDS. now is the tick, c the core's cycle. -/
def Thread.resumed (t : Thread) (now c : Nat) : Thread :=
  { t with
    held := t.held.map fun _ => c
    backoff := t.backoff.map fun _ => c + 256 * 4 ^ (t.retry - 1)
    wait := if t.backoff.isSome then some (.backoff, now) else t.wait
    ready := if t.backoff.isSome || t.wait.isSome then none else some c
    issued := now }

/-- Key of a thread of a workgroup in its new slots. -/
def rekey (w : Workgroup) (core : Nat) (slots : List Nat) (k : Nat) : Nat := tkey core (slots.getD (w.slots.idxOf (k % 2048)) 0)

/-- Slots by linear index, from those that the threads of some indices take; an index whose thread has exited has none, for
which stands the number after the last slot. -/
def spreadSlots (n : Nat) (lins slots : List Nat) : List Nat :=
  (List.range n).map fun i => if lins.contains i then slots.getD (lins.idxOf i) Config.threadSlots else Config.threadSlots

/-- The recorded jobs by acceptance (R271). -/
def byOrder (l : List Job) : List Job := (l.foldl (fun m j => mput m j.order j) ([] : SMap Job)).map (·.2)

/-- Accepts a recorded job again (R271). -/
def reaccept (c : Core) (j : Job) : Core :=
  match freeJobEntry c with
  | some e => { c with jobs := mput c.jobs e { j with saved := false, order := c.jobOrder }, jobOrder := c.jobOrder + 1 }
  | none => c

/-- Restores a workgroup on a core (R271, R340, R416); its first access on each lane misses (R108). -/
def restoreWg (s : State) (g core : Nat) : State :=
  match s.wg? g with
  | none => s
  | some w =>
    match w.image with
    | none => s
    | some i =>
      let slots := spreadSlots w.sizes.threads (i.threads.map (·.lin)) (freeSlots s core i.threads.length)
      let key := rekey w core slots
      let s := i.threads.foldl (fun s t => s.setThread (tkey core (slots.getD t.lin 0)) (t.resumed s.now (s.cycles core))) s
      let item := fun (x : Item) => { x with
        thread := key x.thread, members := x.members.map fun m => { m with thread := key m.thread } }
      let s := s.modCore core fun c => (byOrder i.jobs).foldl reaccept { c with
        shapes := i.shapes.foldl (fun m x => mput m x.1 x.2) c.shapes
        bufs := i.bufs.foldl (fun m x => mput m x.1 x.2) c.bufs
        lanes := []
        engine := match i.engine with
          | some e => { e with queue := e.queue.map item, lastStart := c.engine.lastStart }
          | none => c.engine }
      s.setWg g { w with
        core := core, slots := slots, phase := .running, image := none, migr := w.migr + 1, begun := true
        dispatch := s.launch.dispatches
        crWrites := w.crWrites.map fun c => { c with thread := key c.thread } }

/-- Members of a group in order of rank. -/
def rankOrder (s : State) (gs : List Nat) : List (Nat × Workgroup) :=
  let l := gs.filterMap fun g => (s.wg? g).map fun w => (g, w)
  (List.range 32).flatMap fun r => l.filter fun x => x.2.coords.rank == r

/-- The windows kept for a group move with it (R211). -/
def moveWindows (s : State) (launch group core : Nat) : State :=
  let move := fun (x : Nat × Workgroup) =>
    if x.2.phase = .gone ∧ x.2.coords.launch = launch ∧ x.2.coords.group = group then (x.1, { x.2 with core := core }) else x
  { s with wgs := s.wgs.map move }

/-- Restores members of a group on distinct cores of a set, each on the first from which all the rest can be restored;
none if there is no such choice (R29, R386, R388, R416). -/
def restoreOn (go : State → Option State) (set : List Nat) (s : State) : List (Nat × Workgroup) → Option State
  | [] => go s
  | m :: r => set.findSome? fun c =>
      if vaultAccepts s (clusterOf c) 0 m.2.sizes.heat && resumeOk s m.2 c
      then restoreOn go (set.filter (· != c)) (restoreWg s m.1 c) r else none

/-- Restores groups of a launch on cores of their allowed sets, all of them or none (R391, R416). -/
def resumeGroups (l : Launch) (launch : Nat) : List Nat → State → Option State
  | [], s => some s
  | g :: rest, s =>
    let ms := rankOrder s (groupWgs s launch g)
    match ms with
    | [] => none
    | (first, w) :: _ =>
      let set := allowedCores s l w.coords.linear
      let go := fun (s : State) => resumeGroups l launch rest ((moveWindows s launch g (((s.wg? first).map (·.core)).getD 0)).modLaunch
        fun u => { u with dispatches := u.dispatches + 1 })
      ((set.map clusterOf).eraseDups).findSome? fun cl => restoreOn go (set.filter fun c => clusterOf c == cl) s ms

/-! The loss of a lane. -/

/-- Saves every group with a workgroup on a core, and with it the whole of a co-scheduled launch (R22, R391). The
save pool's room and CTX_SIZE are not asked for: R22 makes no exception, and R414 asks for them under R392 only
(log 74). -/
def vacateCore (s : State) (core : Nat) : State :=
  let whole := fun (l : Nat) => ((mget s.launch.launches l).map (·.cosched)).getD false
  let hit := fun (c : Coords) => (coreWgs s core).any fun x =>
    x.2.coords.launch == c.launch && (x.2.coords.group == c.group || whole c.launch)
  let groups := ((s.wgs.filter fun x => (x.2.phase == .running || x.2.phase == .placed) && hit x.2.coords).map fun x =>
    (x.2.coords.launch, x.2.coords.group)).eraseDups
  groups.foldl (fun s x => beginSave s x.1 x.2) s

/-- LANE_FAILURE (R22): a failed lane goes onto the spare at the row's next clause boundary; a row that has no
spare left stops, the core's groups go to other cores, and the next boot harvests the core. Lane 8 is the spare. -/
def execLaneFailure (core row lane : Nat) (s : State) : Out :=
  let c := s.core core
  match c.rows[row]? with
  | none => .next s
  | some r =>
    if r.stopped || 8 < lane || r.spare == some lane || r.pending == some lane then .next s
    else
      let put := fun (x : Row) => s.setCore core { c with rows := c.rows.setIfInBounds row x }
      if r.spare.isSome || r.pending.isSome then
        let s := put { r with stopped := true }
        let s := { s with life := { s.life with worn := if s.life.worn.contains core then s.life.worn else s.life.worn ++ [core] } }
        .next (notify (vacateCore s core) 11 core row)
      else if lane = 8 then .next (notify (put { r with spare := some 8 }) 11 core row)
      else .next (notify (put { r with pending := some lane }) 11 core row)

end Sys2Proof.Machine
end

