-- ==== Sys2Proof/Machine/LaunchUnit.lean ====
section
/-! DEFINITION. The launch unit: its reads and writes of a launch's memory (R381), the checks of a record (R379 to
R386, R393, R394), the choice of what to place and to pre-empt (R387 to R392), the start and the exit of
workgroups (R272, R383, R389, R395, R408), and the completion record (R396, R397). -/

namespace Sys2Proof.Machine

/-! Memory of a launch. -/

/-- What a step of the unit gives. -/
inductive UnitStep (α : Type) where
  | ok (a : α) (s : State)
  /-- it waits for what it has asked for -/
  | busy (s : State)
  /-- the bytes cannot be read or written -/
  | bad

/-- Goes on after a step. -/
def UnitStep.thenDo {α β : Type} (x : UnitStep α) (f : α → State → UnitStep β) : UnitStep β :=
  match x with
  | .ok a s => f a s
  | .busy s => .busy s
  | .bad => .bad

/-- Translates in a launch's address space as the supervisor; the unit holds no translation (R381). -/
def unitTranslate (s : State) (who : Asker) (b : Binding) (va : Nat) (needR needW : Bool) : Translated × State :=
  translate s ⟨who, none, b.asid, b.ptbase, true⟩ va needR needW

/-- Resolves n bytes within a page: the place, and the physical address. -/
def unitPlace (s : State) (who : Asker) (b : Binding) (va n : Nat) (write : Bool) : UnitStep (Place × Nat) :=
  let r := unitTranslate s who b va (!write) write
  match r.1 with
  | .busy => .busy r.2
  | .trap _ _ | .absent _ _ => .bad
  | .pa pa => match placeOf r.2 pa n .bypass write false true with
    | .ok p => .ok (p, pa) r.2
    | .error _ => .bad

/-- Reads n bytes within a line, as domain 0 (R138, R381). -/
def unitReadLine (s : State) (b : Binding) (va n : Nat) : UnitStep (List Byte) :=
  (unitPlace s .unit b va n false).thenDo fun p s => match p.1 with
    | .vault _ | .remote _ =>
      let r := askRead s .unit b.asid 0 p.2 n 1
      (match r.1 with
      | none => .busy r.2
      | some (.error _) => .bad
      | some (.ok d) => .ok d r.2)
    | .window w => .ok (readBytes s.wmem (mirrorAt 0 w) n) s
    | .device _ => .bad

/-- Reads n bytes, line by line. -/
def unitRead (s : State) (b : Binding) (va n : Nat) : Nat → UnitStep (List Byte)
  | 0 => .ok [] s
  | m + 1 =>
    if n = 0 then .ok [] s
    else
      let k := min n (128 - va % 128)
      (unitReadLine s b va k).thenDo fun x s => (unitRead s b (va + k) (n - k) m).thenDo fun y s => .ok (x ++ y) s

/-- The physical address of a completion record, which lies within a line, if it can be written (R396, R449). -/
def recordPlace (s : State) (who : Asker) (b : Binding) (completion : Nat) : UnitStep Nat :=
  if completion = 0 ∨ completion % 64 ≠ 0 then .bad
  else (unitPlace s who b completion 64 true).thenDo fun p s => match p.1 with
    | .vault a => if s.boot.frames.contains (a / 2 ^ 14) then .bad else .ok p.2 s
    | .remote _ => .ok p.2 s
    | .window _ | .device _ => .bad

/-- Writes bytes for the unit and waits for their write; a tag that it allocates has domain 0 (DESIGN CHOICE, log 55:
R138 speaks of reads). -/
def recordBytes (s : State) (who : Asker) (b : Binding) (pa : Nat) (d : List Byte) : UnitStep Unit :=
  let r := askWrite s who b.asid 0 pa d 1
  match r.1 with
  | none => .busy r.2
  | some (.error _) => .bad
  | some (.ok _) => .ok () r.2

/-- A record that cannot be written sets CRFAULT, and the unit goes on (R381, R397). -/
def recordEnd (s : State) (who : Asker) (x : UnitStep Unit) : UnitStep Unit :=
  match x with
  | .ok _ s => .ok () (forget s who)
  | .busy s => .busy s
  | .bad => .ok () (forget (s.modLaunch fun u => { u with crfault := true }) who)

/-- The last write of a completion record: bytes 4 to 63, and STATUS when those have been written (R381, R397). -/
def finalRecord (s : State) (who : Asker) (b : Binding) (completion : Nat) (d : List Byte) : UnitStep Unit :=
  recordEnd s who ((recordPlace s who b completion).thenDo fun pa s =>
    (recordBytes s who b (pa + 4) (d.drop 4)).thenDo fun _ s => recordBytes s who b pa (d.take 4))

/-- A plain store of bytes of the record from an offset, in domain 0 (R397; DESIGN CHOICE, log 55). -/
def plainRecord (s : State) (who : Asker) (b : Binding) (completion o : Nat) (d : List Byte) : UnitStep Unit :=
  recordEnd s who ((recordPlace s who b completion).thenDo fun pa s =>
    .ok () (postWrite s (askOf .posted b.asid 0 (pa + o) d.length .bypass (.write .posted d))))

/-! The record. -/

/-- What a queue binds its launches to; the queue named is the binding queue (R377, R380). -/
def LaunchQueue.binding (q : LaunchQueue) (n : Nat) : Binding where
  queue := n
  asid := q.asid
  ptbase := q.ptb
  hashdom := q.dom
  grantLo := q.wgBase
  grantHi := q.wgLim
  lead := q.lead
  tvec := BitVec.ofNat 64 q.tvec
  trapen := BitVec.ofNat 32 q.trapen
  super := q.super
  deven := q.deven
  devq := q.devq

/-- Binding and PRIOMAX of a record: those of a device queue come from the binding queue, with the ASID and
HASHDOM that LAUNCH wrote (R380, R381). -/
def bindingOf (s : State) (q : Nat) (rec : List Byte) : Binding × Nat :=
  if (s.lqueue q).dev then
    let n := fieldAt rec 240 1 % 64
    let x := s.lqueue n
    ({ x.binding n with asid := fieldAt rec 241 1, hashdom := fieldAt rec 242 2 % 1024 }, x.prioMax)
  else ((s.lqueue q).binding q, (s.lqueue q).prioMax)

/-- The sizes that a record declares (R379). -/
def recordSizes (r : List Byte) : Sizes where
  gridX := fieldAt r 8 4
  gridY := fieldAt r 12 4
  gridZ := fieldAt r 16 4
  stages := fieldAt r 27 1
  wgX := fieldAt r 20 2
  wgY := fieldAt r 22 2
  wgZ := fieldAt r 24 2
  regs := 16 * (fieldAt r 26 1 % 4 + 1)
  slice := fieldAt r 28 2
  scratch := fieldAt r 32 4
  window := fieldAt r 36 4
  cgsize := fieldAt r 40 1
  heat := fieldAt r 42 1 % 8

/-- Are n bytes of a record from a byte on zero. -/
def zeroAt (r : List Byte) (o n : Nat) : Bool := fieldAt r o n == 0

/-- Does a record keep R379 and the limit of R382. -/
def recordOk (r : List Byte) (device : Bool) : Bool :=
  let z := recordSizes r
  let entry := fieldAt r 0 8
  let completion := fieldAt r 64 8
  entry % 4 == 0 && decide (entry < 2 ^ 52)
    && decide (1 ≤ z.gridX) && decide (1 ≤ z.gridY) && decide (1 ≤ z.gridZ)
    && decide (1 ≤ z.threads) && decide (z.threads ≤ 1024)
    && decide (fieldAt r 26 1 < 4) && decide (1 ≤ z.stages) && decide (z.stages ≤ 8) && decide (z.slice ≤ 2048)
    && decide (z.scratch ≤ 2 ^ 20) && decide (1 ≤ z.cgsize) && decide (z.cgsize ≤ 32)
    && decide (fieldAt r prioByte 1 < 16) && decide (fieldAt r 42 1 < 8) && decide (fieldAt r 45 1 < 4)
    && fieldAt r 48 8 % 64 == 0 && fieldAt r 56 8 % 16 == 0 && completion != 0 && completion % 64 == 0
    && zeroAt r 30 2 && zeroAt r 46 2 && zeroAt r 72 56 && zeroAt r 192 48 && (device || zeroAt r 240 16)
    && decide (z.count < 2 ^ 31)

/-- Why a record is refused (R381). -/
inductive Refused where
  | fault | malformed | footprint | residency | cluster | placement | cosched | collective
deriving DecidableEq, Repr

/-- Code of a cause (R381). -/
def Refused.code : Refused → Nat
  | .fault => 1
  | .malformed => 2
  | .footprint => 3
  | .residency => 4
  | .cluster => 5
  | .placement => 6
  | .cosched => 7
  | .collective => 8

/-- Has a cluster CGSIZE cores among some enabled ones (R29, R381). -/
def clusterHolds (z : Sizes) (cores : List Nat) : Bool :=
  cores.any fun c => decide (z.cgsize ≤ (cores.filter fun d => clusterOf d == clusterOf c).length)

/-- Workgroups of a launch that one empty core takes at once (R28). -/
def perCore (z : Sizes) : Nat :=
  let n := min 16 (2048 / z.threads)
  if z.footprint = 0 then n else min n (2 ^ 20 / z.footprint)

/-- Does the whole grid fit an idle module (R28, R29, R381). -/
def gridFits (s : State) (z : Sizes) : Bool :=
  let clusters := (s.launch.cores.map clusterOf).eraseDups
  let groups := fun (c : Nat) =>
    let n := (s.launch.cores.filter fun d => clusterOf d == c).length
    if n < z.cgsize then 0 else perCore z * n / z.cgsize
  decide (z.count / z.cgsize ≤ (clusters.map groups).sum)

/-- The entries of a placement table by FIRST (R385). -/
def tableEntries (b : List Byte) : List PlaceEntry :=
  let e := fun (i : Nat) => (⟨fieldAt b (16 + 16 * i) 4, fieldAt b (20 + 16 * i) 4, fieldAt b (24 + 16 * i) 4,
    fieldAt b (28 + 16 * i) 4⟩ : PlaceEntry)
  (((List.range (fieldAt b 0 4)).map e).foldl (fun m x => mput m x.first x) ([] : SMap PlaceEntry)).map (·.2)

/-- Do entries in order cover the indices from n to a bound exactly once. -/
def covers (n bound : Nat) : List PlaceEntry → Bool
  | [] => n == bound
  | e :: r => e.first == n && decide (1 ≤ e.count) && covers (n + e.count) bound r

/-- Does a placement table keep R385. -/
def tableOk (s : State) (z : Sizes) (b : List Byte) : Bool :=
  let es := tableEntries b
  decide (1 ≤ fieldAt b 0 4) && decide (fieldAt b 0 4 ≤ 65536) && zeroAt b 4 12
    && es.length == fieldAt b 0 4 && covers 0 z.count es
    && es.all fun e => decide (1 ≤ e.span) && decide (e.core + e.span ≤ s.launch.cores.length)
      && e.first % z.cgsize == 0 && e.count % z.cgsize == 0
      && clusterHolds z ((s.launch.cores.drop e.core).take e.span)

/-- Does a collective binding descriptor keep R393. -/
def collectiveOk (b : List Byte) : Bool :=
  let c := fieldAt b 0 4
  decide (c < 1024) && decide (c % 4 ≤ 1) && decide (bitsNat c 2 2 ≤ 2) && [1, 3, 4].contains (bitsNat c 4 3)
    && decide (4 ≤ fieldAt b 4 4) && decide (fieldAt b 4 4 ≤ maxCopy) && fieldAt b 4 4 % 4 == 0
    && fieldAt b 8 8 % 4 == 0 && fieldAt b 16 8 % 4 == 0
    && decide (1 ≤ fieldAt b 36 4) && decide (fieldAt b 36 4 ≤ 1024)
    && fieldAt b 40 8 % 4 == 0 && fieldAt b 48 8 % 4 == 0 && zeroAt b 56 8

/-- Arms the chunks i to i + n - 1 of a launch, or finds that one cannot be armed (R394; log 38). -/
def armChunks (s : State) (launch : Nat) (x : Binding) (b : List Byte) (i : Nat) : Nat → UnitStep Unit
  | 0 => .ok () s
  | n + 1 =>
    let len := fieldAt b 4 4
    let at_ := fieldAt b 40 8 + i * len
    let flag := fieldAt b 48 8 + 4 * i
    let sp : Space := if (fieldAt b 0 4).testBit 8 then .global else .wafer
    let parts : Option (Except TrapInfo (List (Nat × Nat))) × State :=
      if sp = .global then watchParts (fun s va => unitTranslate s .unit x va false false) s at_ len (len / 2 ^ 14 + 2)
      else if grantOk s x.super x.grantLo x.grantHi at_ len false then (some (.ok [(at_, len)]), s)
      else (some (.error { cause := .perm }), s)
    match parts with
    | (none, s) => .busy s
    | (some (.error _), _) => .bad
    | (some (.ok l), s) =>
      if !grantOk s x.super x.grantLo x.grantHi flag 4 true || !canArm s sp l then .bad
      else armChunks { s with chunks := s.chunks ++ [⟨none, sp, l, len, len, .flag flag, some launch⟩] } launch x b (i + 1) n

/-- Reads what a record names at a pointer, if it names anything there and the pointer is aligned. -/
def unitNamed (s : State) (x : Binding) (va align n : Nat) : UnitStep (List Byte) :=
  if va = 0 ∨ va % align ≠ 0 then .ok [] s else unitRead s x va n (n / 128 + 2)

/-- The placement table of a record: its header and, where E keeps its limit, its entries (R385). -/
def readTable (s : State) (x : Binding) (va : Nat) : UnitStep (List Byte) :=
  (unitNamed s x va 16 16).thenDo fun h s =>
    if fieldAt h 0 4 ≤ 65536 then unitNamed s x va 16 (16 + 16 * fieldAt h 0 4) else .ok h s

/-- The checks that follow the reads, in their order (R381, R442). -/
def checkRecord (s : State) (rec table desc : List Byte) (device : Bool) : Option Refused :=
  let z := recordSizes rec
  if !recordOk rec device then some .malformed
  else if z.scratch < z.window ∨ 2 ^ 19 < z.window then some .footprint
  else if !fitsEmpty z then some .residency
  else if z.count % z.cgsize ≠ 0 ∨ !clusterHolds z s.launch.cores then some .cluster
  else if (fieldAt rec 56 8 = 0 ∧ s.link.mode.testBit 4) ∨ (fieldAt rec 56 8 ≠ 0 ∧ !tableOk s z table) then some .placement
  else if (fieldAt rec 45 1).testBit 0 ∧ !gridFits s z then some .cosched
  else if fieldAt rec 48 8 ≠ 0 ∧ !collectiveOk desc then some .collective
  else none

/-- The launch that a record describes (R379, R380). -/
def launchOf (s : State) (q : Nat) (rec table desc : List Byte) (x : Binding) (prioMax : Nat) : Launch where
  sizes := recordSizes rec
  entry := BitVec.ofNat 64 (fieldAt rec 0 8)
  contain := fieldAt rec 43 1
  stagger := fieldAt rec 44 1
  cosched := (fieldAt rec 45 1).testBit 0
  notify := (fieldAt rec 45 1).testBit 1
  priority := min (fieldAt rec prioByte 1) prioMax
  args := (List.range 16).map fun i => BitVec.ofNat 32 (fieldAt rec (128 + 4 * i) 4)
  collective := if fieldAt rec 48 8 = 0 then none else some desc
  table := if fieldAt rec 56 8 = 0 then [] else tableEntries table
  completion := fieldAt rec 64 8
  taken := q
  binding := x
  accepted := s.timeNs
  order := s.launch.nextId
  placed := []
  exited := 0
  refcost := 0
  firstAt := none
  endedAt := none
  owes := none
  refusals := 0
  preempted := 0
  phase := .active
  killed := none
  waits := []

/-- The unit goes on past a record (R376). -/
def passRecord (s : State) (q : Nat) : State :=
  (s.modLqueue q fun x => { x with head := (x.head + 1) % x.records }).modLaunch fun u => { u with turn := q }

/-- Message 10 (R441). -/
def notifyLaunch (s : State) (q completion : Nat) : State := notify s 10 q completion

/-- A record is refused: its whole completion record is written, STATUS last (R381). -/
def refuseRecord (s : State) (q : Nat) (rec : List Byte) (x : Binding) (c : Refused) : State :=
  let at_ := fieldAt rec 64 8
  let d := natBytes 4 (3 + 256 * c.code) ++ natBytes 20 0 ++ natBytes 8 s.timeNs ++ natBytes 32 0
  match finalRecord s (.record q) x at_ d with
  | .busy s => s
  | .bad => s
  | .ok _ s => passRecord (forget (if (fieldAt rec 45 1).testBit 1 then notifyLaunch s q at_ else s) .unit) q

/-- The first queue that the unit serves after its last: enabled and with a record (R387). -/
def nextQueue (s : State) : Option Nat :=
  ((List.range 64).map fun i => (s.launch.turn + 1 + i) % 64).find? fun q =>
    (s.lqueue q).en && (s.lqueue q).head % (s.lqueue q).records != (s.lqueue q).tail % (s.lqueue q).records

/-- Checks a record and accepts or refuses it, once what it names has been read; chunks are armed together, when the
places of all are known (R381, R394). -/
def takeRecord (s : State) (q : Nat) (rec : List Byte) : State :=
  let b := bindingOf s q rec
  let named := (readTable s b.1 (fieldAt rec 56 8)).thenDo fun table s =>
    (unitNamed s b.1 (fieldAt rec 48 8) 64 64).thenDo fun desc s => UnitStep.ok (table, desc) s
  match named with
  | .busy s => s
  | .bad => refuseRecord s q rec b.1 .fault
  | .ok (table, desc) s => match checkRecord s rec table desc (s.lqueue q).dev with
    | some c => refuseRecord s q rec b.1 c
    | none =>
      let n := if (fieldAt desc 0 4).testBit 7 then fieldAt desc 36 4 else 0
      match armChunks s s.launch.nextId b.1 desc 0 n with
      | .busy t => { t with chunks := s.chunks }
      | .bad => refuseRecord s q rec b.1 .collective
      | .ok _ s =>
        let l := launchOf s q rec table desc b.1 b.2
        passRecord ((forget s .unit).modLaunch fun u => { u with
          launches := mput u.launches u.nextId l, nextId := u.nextId + 1 }) q

/-- LAUNCH_RECORD_TAKE (R376, R381, R387). -/
def execLaunchRecordTake (queue : Nat) (s : State) : Out :=
  if nextQueue s ≠ some queue then .next s
  else if 256 ≤ activeLaunches s then .next (s.modLaunch fun u => { u with qfull := true })
  else
    let q := s.lqueue queue
    .next (takeRecord s queue (readBytes s.wmem ((q.base + 256 * (q.head % q.records)) % 2 ^ 32) 256))

/-! Placement. -/

/-- A launch's step boundary (R389). -/
def Launch.boundary (l : Launch) : Nat := (l.accepted + 199) / 200 * 200

/-- Stagger time of a core in ns (R389). -/
def Launch.coreTime (l : Launch) (core : Nat) : Nat := l.boundary + l.stagger * regionOfCore core * 200

/-- Effective priority (R387). -/
def effective (s : State) (l : Launch) : Nat :=
  if s.launch.age = 0 then min 15 l.priority
  else min 15 (l.priority + (s.timeNs - l.accepted) / 1000 / s.launch.age)

/-- The cluster groups that may be placed, in the order in which they are tried: within a placement entry only the
next one, and without a table every unplaced one (R388, R390; log 39). -/
def nextGroups (l : Launch) : List Nat :=
  match l.table with
  | [] => (List.range (l.sizes.count / l.sizes.group)).filter fun g => !l.placed.contains (g * l.sizes.group)
  | es => es.flatMap fun e =>
    let n := (l.placed.filter fun x => decide (e.first ≤ x) && decide (x < e.first + e.count)).length
    if n < e.count then [(e.first + n) / l.sizes.group] else []

/-- The cores of a group's allowed set whose stagger time has come (R388). -/
def openCores (s : State) (l : Launch) (group : Nat) : List Nat :=
  (allowedCores s l (group * l.sizes.group)).filter fun c => decide (l.coreTime c ≤ s.timeNs)

/-- Does a group wait after a try: no core has come into play since (R388). -/
def groupWaits (s : State) (l : Launch) (group : Nat) : Bool :=
  match mget l.waits group with
  | none => false
  | some t => (openCores s l group).all fun c => decide (l.coreTime c ≤ t)

/-- Has a launch a group that is being saved or is saved: it is resumed first (R392). -/
def hasSaved (s : State) (launch : Nat) : Bool :=
  s.wgs.any fun x => x.2.coords.launch == launch && (x.2.phase == .saving || x.2.phase == .saved)

/-- The groups of a launch that are ready to place and do not wait; a co-scheduled grid counts as its first
group (R388, R391). -/
def readyGroups (s : State) (launch : Nat) (l : Launch) : List Nat :=
  if l.phase ≠ .active || hasSaved s launch then []
  else if l.cosched then (if l.placed.isEmpty && (mget l.waits 0).isNone then [0] else [])
  else (nextGroups l).filter fun g => !(openCores s l g).isEmpty && !groupWaits s l g

/-- Is no launch with a ready group served before this one (R387). -/
def servedFirst (s : State) (launch : Nat) (l : Launch) : Bool :=
  s.launch.launches.all fun x => x.1 == launch || (readyGroups s x.1 x.2).isEmpty
    || decide (effective s x.2 < effective s l) || (effective s x.2 == effective s l && decide (l.order < x.2.order))

/-- Coordinates of a linear index (R382). -/
def coordsAt (z : Sizes) (launch n : Nat) : Coords where
  launch := launch
  x := n % z.gridX
  y := n / z.gridX % z.gridY
  z := n / z.gridX / z.gridY % z.gridZ
  stage := n / z.gridX / z.gridY / z.gridZ
  linear := n
  rank := n % z.group
  group := n / z.group

/-- A workgroup takes its residency on a core (R383, R391). The placement counts as its dispatch in the order of R392
(log 58). -/
def placeWg (s : State) (launch n core : Nat) : State :=
  match mget s.launch.launches launch with
  | none => s
  | some l =>
    let w := Workgroup.start (coordsAt l.sizes launch n) l.sizes l.binding l.contain core
      (freeSlots s core l.sizes.threads) l.args (l.coreTime core)
    let s := (s.setWg s.launch.nextTag { w with dispatch := s.launch.dispatches }).modLaunch fun u =>
      { u with nextTag := u.nextTag + 1 }
    s.modRun launch fun l => { l with placed := l.placed ++ [n] }

/-- Places the members of a group on cores, in order of rank. -/
def placeOn (s : State) (launch : Nat) (l : Launch) (group : Nat) (cores : List Nat) : State :=
  (cores.zipIdx.foldl (fun s x => placeWg s launch (group * l.sizes.group + x.2) x.1) s).modLaunch fun u =>
    { u with dispatches := u.dispatches + 1 }

/-- Places a group on cores of a set: the state if there are such cores, and the vault checks that failed (R29,
R386, R388). -/
def placeGroup (s : State) (launch : Nat) (l : Launch) (group : Nat) (set : List Nat) : Option State × Nat :=
  let r := pickCores s l.sizes l.sizes.group set
  (r.1.map fun cores => placeOn s launch l group cores, r.2)

/-- Workgroups of a launch that a core can still take (R28). -/
def coreRoom (s : State) (core : Nat) (z : Sizes) : Nat :=
  let l := coreWgs s core
  let threads := (2048 - (l.map fun x => (usedSlots s core x.1 x.2).length).sum) / z.threads
  let bytes := 2 ^ 20 - ((l.map fun x => x.2.sizes.footprint).sum + keptWindows s core)
  if !coreFits s core z then 0
  else min (16 - l.length) (if z.footprint = 0 then threads else min threads (bytes / z.footprint))

/-- Cores of a cluster in a set that take a workgroup of a launch now, in increasing number (R386). -/
def takers (s : State) (z : Sizes) (cluster : Nat) (set : List Nat) : List Nat :=
  set.filter fun c => clusterOf c == cluster && coreFits s c z

/-- Tries the choices of n among cores, in order, until one can be gone on from. -/
def searchCores {α : Type} (go : List Nat → Option α) (chosen : List Nat) : List Nat → Nat → Option α
  | _, 0 => go chosen.reverse
  | [], _ + 1 => none
  | c :: r, n + 1 => (searchCores go (c :: chosen) r n).orElse fun _ => searchCores go chosen r (n + 1)

/-- Could groups be placed as far as the room of the cores of all allowed sets goes: in a cluster whose cores have room
for c workgroups each, g groups of k fit if the sum of min(c, g) is g * k at least. -/
def roomFor (s : State) (l : Launch) (groups : List Nat) : Bool :=
  let k := l.sizes.group
  let set := match l.table with
    | [] => s.launch.cores
    | es => (es.flatMap fun (e : PlaceEntry) => (s.launch.cores.drop e.core).take e.span).eraseDups
  let room := fun (cl : Nat) =>
    let cs := (set.filter fun c => clusterOf c == cl).map fun c => coreRoom s c l.sizes
    ((List.range (16 * cs.length / k + 1)).reverse.find? fun g => decide (g * k ≤ (cs.map (min g)).sum)).getD 0
  decide (groups.length ≤ (((set.map clusterOf).eraseDups).map room).sum)

/-- Places groups of a co-scheduled launch all at once, if there is a way to: each on the first cores that leave a way for
the rest (R386, R391; log 40). -/
def placeAll (launch : Nat) (l : Launch) : List Nat → State → Option State
  | [], s => some s
  | g :: r, s =>
    let set := allowedCores s l (g * l.sizes.group)
    let k := l.sizes.group
    if !roomFor s l (g :: r) then none
    else ((set.map clusterOf).eraseDups).findSome? fun cl =>
      if vaultAccepts s cl ((k - 1) * l.sizes.heat) l.sizes.heat then
        searchCores (fun cores => placeAll launch l r (placeOn s launch l g cores)) [] (takers s l.sizes cl set) k
      else none

/-- Cores of the allowed sets of a launch's workgroups that fail the closure or the projection, each counted for each
workgroup (R388). -/
def gridRefusals (s : State) (l : Launch) : Nat :=
  ((List.range l.sizes.count).map fun n =>
    ((allowedCores s l n).filter fun c => !vaultAccepts s (clusterOf c) 0 l.sizes.heat).length).sum

/-- Tries what a ready group of a launch asks for: the group, or the whole co-scheduled grid. -/
def tryPlace (s : State) (launch : Nat) (l : Launch) (group : Nat) : Option State × Nat :=
  if l.cosched then (placeAll launch l (List.range (l.sizes.count / l.sizes.group)) s, gridRefusals s l)
  else placeGroup s launch l group (openCores s l group)

/-! Pre-emption. -/

/-- Something that can be pre-empted whole: its launch, its groups, its PRIORITY and when it was dispatched last. -/
structure Victim where
  launch   : Nat
  groups   : List Nat
  priority : Nat
  latest   : Nat

/-- Resident groups of launches below a priority with a core in a set (R391, R392). -/
def victims (s : State) (p : Nat) (set : List Nat) : List Victim :=
  s.launch.launches.flatMap fun x =>
    if p ≤ x.2.priority || x.2.phase ≠ .active || hasSaved s x.1 && x.2.cosched then []
    else
      let mine := s.wgs.filter fun w => w.2.coords.launch == x.1 && (w.2.phase == .placed || w.2.phase == .running)
      let unit_ := fun (ws : List (Nat × Workgroup)) =>
        if ws.any fun w => set.contains w.2.core then
          [(⟨x.1, (ws.map fun w => w.2.coords.group).eraseDups, x.2.priority, (ws.map fun w => w.2.dispatch).foldl max 0⟩ : Victim)]
        else []
      if x.2.cosched then unit_ mine
      else ((mine.map fun w => w.2.coords.group).eraseDups).flatMap fun g => unit_ (mine.filter fun w => w.2.coords.group == g)

/-- Inserts by lowest PRIORITY, then most recent dispatch (R392). -/
def insertVictim (v : Victim) : List Victim → List Victim
  | [] => [v]
  | w :: r => if v.priority < w.priority ∨ (v.priority = w.priority ∧ w.latest < v.latest) then v :: w :: r
      else w :: insertVictim v r

/-- Workgroups of a victim. -/
def Victim.wgs (v : Victim) (s : State) : List (Nat × Workgroup) :=
  s.wgs.filter fun w => w.2.coords.launch == v.launch && v.groups.contains w.2.coords.group

/-- Bytes of the images of workgroups (R415). -/
def imageBytes (s : State) (ws : List (Nat × Workgroup)) : Nat :=
  (ws.map fun w => imageSize w.2.sizes ((s.core w.2.core).engine.owner == some w.1)).sum

/-- Bytes that the save pool still takes (R414, R417). -/
def poolRoom (s : State) : Nat :=
  s.launch.ctxSize * 2 ^ 20 - (savedBytes s + imageBytes s (s.wgs.filter fun w => w.2.phase == .saving))

/-- The victims whose images fit the pool one after the other; those that do not are passed over (R414). -/
def fitPool (s : State) (room : Nat) : List Victim → List Victim
  | [] => []
  | v :: r =>
    let n := imageBytes s (v.wgs s)
    if n ≤ room then v :: fitPool s (room - n) r else fitPool s room r

/-- The module as it is when groups being saved, and some victims, have gone. -/
def withoutVictims (s : State) (vs : List Victim) : State :=
  { s with wgs := s.wgs.filter fun w => w.2.phase != .saving
      && !(vs.any fun v => w.2.coords.launch == v.launch && v.groups.contains w.2.coords.group) }

/-- The fewest victims in their order that let a group be placed: none if there is no such choice (R392). -/
def chooseVictims (s : State) (launch : Nat) (l : Launch) (group : Nat) (vs : List Victim) : List Victim :=
  match (List.range (vs.length + 1)).find? fun n =>
      (tryPlace (withoutVictims s (vs.take n)) launch l group).1.isSome with
  | some n => vs.take n
  | none => []

/-- The cores that count for a group's victims (R392). -/
def wantedCores (s : State) (l : Launch) (group : Nat) : List Nat :=
  if l.cosched then
    (match l.table with
    | [] => s.launch.cores
    | es => es.flatMap fun e => (s.launch.cores.drop e.core).take e.span)
  else allowedCores s l (group * l.sizes.group)

/-- A group that no core takes waits, and others are pre-empted for it where that helps (R388, R392). -/
def blockGroup (s : State) (launch : Nat) (l : Launch) (group : Nat) : State :=
  let s1 := s.modRun launch fun l => { l with waits := mput l.waits group s.timeNs }
  let vs := fitPool s (poolRoom s) ((victims s l.priority (wantedCores s l group)).foldr insertVictim [])
  let chosen := if s.launch.ctxSize = 0 then [] else chooseVictims s launch l group vs
  let s2 := if chosen.isEmpty then s1 else s1.modLaunch fun u => { u with owed := u.owed ++ [(launch, group)] }
  chosen.foldl (fun s v => v.groups.foldl (fun s g => beginSave s v.launch g) s) s2

/-- WORKGROUP_PLACEMENT (R387, R388, R391, R392). While some group is being saved, a group that finds no core pre-empts none
(log 58). -/
def execWorkgroupPlacement (launch : Nat) (s : State) : Out :=
  match mget s.launch.launches launch with
  | none => .next s
  | some l =>
    match readyGroups s launch l with
    | [] => .next s
    | g :: _ =>
      if !servedFirst s launch l then .next s
      else
        let r := tryPlace s launch l g
        let count := fun (s : State) =>
          (s.modRun launch fun l => { l with refusals := satAdd l.refusals r.2 0xFFFFFFFF }).modLaunch fun u => { u with refuse := satAdd u.refuse r.2 0xFFFFFFFF }
        let paid := fun (s : State) => s.modLaunch fun u => { u with owed := u.owed.filter (· != (launch, g)) }
        match r.1 with
        | some s' => .next (count (paid s'))
        | none => .next (count (if s.launch.saving.isEmpty then blockGroup (paid s) launch l g
            else s.modRun launch fun l => { l with waits := mput l.waits g s.timeNs }))

/-! The completion record. -/

/-- Bytes 4 to 39 of a completion record (R396). -/
def progressBytes (l : Launch) (ended : Nat) : List Byte :=
  natBytes 4 l.exited ++ natBytes 8 l.refcost ++ natBytes 8 (l.firstAt.getD 0) ++ natBytes 8 ended
    ++ natBytes 4 l.refusals ++ natBytes 4 l.preempted

/-- A whole completion record (R396). -/
def completionBytes (l : Launch) (status ended : Nat) : List Byte :=
  natBytes 4 status ++ progressBytes l ended ++ (match l.killed with
    | some (_, pc, core) => natBytes 8 pc.toNat ++ natBytes 4 core
    | none => natBytes 12 0) ++ natBytes 12 0

/-- The writer of a launch's completion record. -/
def launchWriter (launch : Nat) : Asker := .record (64 + launch)

/-- The first dispatch of a launch: the record with STATUS RUNNING is to be written (R396, R397). -/
def firstDispatch (s : State) (launch : Nat) : State :=
  s.modRun launch fun l => if l.firstAt.isSome then l else { l with firstAt := some s.timeNs, owes := some 0 }

/-- Writes what a launch owes its completion record, as it stands: the whole of it at first, later bytes 4 to 39
(R397). -/
def pumpRecord (s : State) (launch : Nat) : State :=
  match mget s.launch.launches launch with
  | none => s
  | some l => match l.owes with
    | none => s
    | some o =>
      match plainRecord s (launchWriter launch) l.binding l.completion o (if o = 0 then completionBytes l 1 0 else progressBytes l 0) with
      | .ok _ s => s.modRun launch fun l => { l with owes := none }
      | .busy s => s
      | .bad => s

/-- Writes what all launches owe. -/
def pumpRecords (s : State) : State := s.launch.launches.foldl (fun s x => pumpRecord s x.1) s

/-- Have the workgroups of lower index in a workgroup's placement entry started (R390). -/
def lowerBegun (s : State) (w : Workgroup) (l : Launch) : Bool :=
  match l.table.find? fun e => decide (e.first ≤ w.coords.linear) && decide (w.coords.linear < e.first + e.count) with
  | none => true
  | some e => s.wgs.all fun x => x.2.coords.launch != w.coords.launch || x.2.begun || x.2.killed
      || decide (x.2.coords.linear < e.first) || decide (w.coords.linear ≤ x.2.coords.linear)

/-- WORKGROUP_START (R383, R389 to R391, R397). -/
def execWorkgroupStart (workgroup : Nat) (s : State) : Out :=
  match s.wg? workgroup with
  | none => .next s
  | some w =>
    match mget s.launch.launches w.coords.launch with
    | none => .next s
    | some l =>
      if w.phase ≠ .placed || l.phase ≠ .active || decide (s.timeNs < w.startAt) || !lowerBegun s w l then .next s
      else
        let s := (startThreads s workgroup w l.entry).setWg workgroup { w with phase := .running, begun := true }
        .next (pumpRecord (firstDispatch s w.coords.launch) w.coords.launch)

/-- Does a group that pre-empted others still wait for its cores: it is placed before any of them is resumed (R392). -/
def placementOwed (s : State) : Bool :=
  s.launch.owed.any fun x => match mget s.launch.launches x.1 with
    | some l => l.phase == .active && !l.placed.contains (x.2 * l.sizes.group)
    | none => false

/-- GROUP_RESUME (R416): a co-scheduled launch resumes whole (R391). Workgroups that had not started do so now, in their
order (R390, R397). -/
def execGroupResume (group : Nat) (s : State) : Out :=
  match s.wg? group with
  | none => .next s
  | some w =>
    let launch := w.coords.launch
    match mget s.launch.launches launch with
    | none => .next s
    | some l =>
      let gs := if l.cosched then launchWgs s launch else groupWgs s launch w.coords.group
      let ws := gs.filterMap s.wg?
      let saved := ws.all fun x => x.phase == .saved
      let first := l.cosched || ws.all fun x => x.begun || x.coords.rank != 0 || lowerBegun s x l
      let groups := (ws.map (·.coords.group)).eraseDups
      if !(saved && first && l.phase == .active && !placementOwed s) then .next s
      else match resumeGroups l launch groups s with
        | some s => .next (pumpRecord (firstDispatch s launch) launch)
        | none => .next s

/-! Exit. -/

/-- The first job fault of a workgroup that no WAITH has seen, by order of completion (R244, R272). -/
def unseenFault (w : Workgroup) : Option JobNum :=
  (w.unseen ++ (w.jobNums.map (·.2)).filter fun x => x.status == .faulted && !x.seen).foldl
    (fun (b : Option JobNum) x => match b with
      | some y => if x.ended < y.ended then some x else some y
      | none => some x) none

/-- A workgroup one of whose faults has been raised. -/
def Workgroup.raised (w : Workgroup) (x : JobNum) : Workgroup :=
  { w with
    unseen := w.unseen.filter (·.ended != x.ended)
    jobNums := w.jobNums.map fun y => if y.2.ended = x.ended then (y.1, { y.2 with seen := true }) else y }

/-- What containment makes of a job fault raised at a workgroup's exit: the level that dies, if one does; none
below the workgroup (R408). -/
def exitVerdict (contain : Nat) (ti : TrapInfo) : Option Nat :=
  match containFrom contain ti 3 0 4 with
  | .skip | .retry => none
  | .kill 0 => none
  | .kill l => some l

/-- Raises the job faults of a workgroup that no WAITH has seen, n at most (R244, R408). -/
def raiseFaults (s : State) (g : Nat) : Nat → State
  | 0 => s
  | n + 1 =>
    match s.wg? g with
    | none => s
    | some w =>
      match unseenFault w with
      | none => s
      | some x =>
        let s := s.setWg g (w.raised x)
        let ti := x.trap.getD { cause := .barOverflow }
        let s := match exitVerdict w.contain ti with
          | some level => killUnit s level 0 g ti x.pc
          | none => s
        raiseFaults s g n

/-- The chunk index of a workgroup (R395). -/
def chunkIndex (c : Coords) (b : List Byte) : Nat :=
  c.x * fieldAt b 24 4 + c.y * fieldAt b 28 4 + c.z * fieldAt b 32 4

/-- The job of a workgroup's exit-bound collective (R395). It has no issuing instruction: its TRAPADDR is a free
value (log 9). -/
def collectiveJob (s : State) (g : Nat) (w : Workgroup) (b : List Byte) : Job :=
  let c := fieldAt b 0 4
  let n := fieldAt b 4 4
  let src : Loc := ⟨(spaceAt (bitsNat c 4 3)).getD .scratch, fieldAt b 8 8⟩
  let dst : Loc := ⟨.global, fieldAt b 16 8 + chunkIndex w.coords b * n⟩
  let work : JobWork := if c % 4 = 0 then .copy src dst n else .collect src dst n (combineType (bitsNat c 2 2))
  let t := { Thread.start g w.coords.linear 0 (BitVec.ofNat 64 (Config.freeNat s.free)) s.now 0 with wg := g }
  { jobOf t w work with
    scope := .pod, stream := c.testBit 9, reads := [src.region n], write := some (dst.region n), pieces := work.pieces }

/-- The collective that a workgroup still has to fire (R395). -/
def toFire (s : State) (w : Workgroup) : Option (List Byte) :=
  match (mget s.launch.launches w.coords.launch).bind (·.collective) with
  | none => none
  | some b =>
    if w.coords.stage + 1 = w.sizes.stages ∧ !w.killed ∧ w.fired = none ∧ chunkIndex w.coords b < fieldAt b 36 4
    then some b else none

/-- Issues the collective's job: none while its core has no room (R395). -/
def fireCollective (s : State) (g : Nat) (w : Workgroup) (b : List Byte) : Option State :=
  match freeJobNum w, freeJobEntry (s.core w.core) with
  | some n, some e =>
    let gen := nextGen w.genCtr
    let j := collectiveJob s g w b
    let s := s.setWg g { w with
      genCtr := gen, fired := some n, jobNums := mput w.jobNums n ⟨gen, .pending, none, false, 0, j.pc, 0⟩
      unseen := w.unseen ++ w.lostFault n }
    some ({ s with free := s.free + 1 }.modCore w.core fun c => { c with
      jobs := mput c.jobs e { j with num := n, order := c.jobOrder }, jobOrder := c.jobOrder + 1 })
  | _, _ => none

/-- Has a workgroup nothing under way any more: no thread, no job, no item of the engine and no access
(R272, R397). -/
def wgDone (s : State) (g : Nat) (w : Workgroup) : Bool :=
  s.threads.all (fun x => x.2.wg != g)
    && (w.phase == .ended || (w.phase == .running || w.phase == .saving || w.phase == .placed && w.killed)
      && (s.core w.core).jobs.all (fun x => x.2.wg != g)
      && ((s.core w.core).engine.owner != some g || (s.core w.core).engine.queue.isEmpty))
    && s.accs.all fun x => x.2.wg != g

/-- A workgroup that has exited frees its core and its launch counts it; its window stays until every member of its
group has exited (R211, R272, R396). -/
def dropWg (s : State) (g : Nat) (w : Workgroup) : State :=
  let mine := fun (x : Nat × Workgroup) => x.2.coords.launch == w.coords.launch && x.2.coords.group == w.coords.group
  if s.wgs.any fun x => mine x && x.1 != g && x.2.phase != .gone then s.setWg g { w with phase := .gone }
  else { s with wgs := s.wgs.filter fun x => !mine x }

/-- A workgroup that has exited frees its core and leaves the module; its launch counts it, and groups that wait for
its core are tried again (R211, R272, R319, R388, R396). -/
def releaseWg (s : State) (g : Nat) (w : Workgroup) : State :=
  let s := if w.phase = .ended then s else s.modCore w.core fun c => { c with
    shapes := c.shapes.filter fun x => x.2.owner != g
    bufs := c.bufs.filter fun x => x.2.owner != g
    engine := c.engine.release g true }
  let s := dropWg s g w
  let s := s.modRun w.coords.launch fun l => { l with
    exited := l.exited + 1, refcost := l.refcost + w.refcost, owes := some (l.owes.getD 4), endedAt := some s.timeNs }
  let gone := !(s.wgs.any fun x => x.2.phase == .saving
    && x.2.coords.launch == w.coords.launch && x.2.coords.group == w.coords.group)
  s.modLaunch fun u =>
    let retry := fun (x : Nat × Launch) =>
      (x.1, { x.2 with waits := x.2.waits.filter fun y => !(wantedCores s x.2 y.1).contains w.core })
    { u with
      launches := u.launches.map retry
      saving := if gone then u.saving.filter fun x => !(x.1 == w.coords.launch && x.2.1 == w.coords.group) else u.saving }

/-- WORKGROUP_EXIT (R244, R272, R395, R397): faults that no WAITH has seen are raised, then the collective is fired,
not while the group is being saved, and once that job has completed too the workgroup is released, of which the
completion record tells (R270). -/
def execWorkgroupExit (workgroup : Nat) (s : State) : Out :=
  match s.wg? workgroup with
  | none => .next s
  | some w =>
    if !wgDone s workgroup w then .next s
    else
      let s := raiseFaults s workgroup (64 + w.unseen.length)
      match s.wg? workgroup with
      | none => .next s
      | some w => match toFire s w with
        | some b => .next (if w.phase = .saving then s else (fireCollective s workgroup w b).getD s)
        | none => .next (pumpRecord (releaseWg s workgroup w) w.coords.launch)

/-- Is a launch at its end (R397). -/
def launchOver (s : State) (launch : Nat) (l : Launch) : Bool :=
  (s.wgs.all fun x => x.2.coords.launch != launch) && (l.phase == .killing || l.exited == l.sizes.count)

/-- LAUNCH_END (R397): bytes 4 to 63, then STATUS. The end is the exit of the last workgroup. -/
def execLaunchEnd (launch : Nat) (s : State) : Out :=
  match mget s.launch.launches launch with
  | none => .next s
  | some l =>
    if !launchOver s launch l then .next s
    else
      let status := match l.killed with
        | some (c, _, _) => 4 + 256 * c
        | none => 2
      match finalRecord s (launchWriter launch) l.binding l.completion (completionBytes l status (l.endedAt.getD s.timeNs)) with
      | .busy s => .next s
      | .bad => .next s
      | .ok _ s =>
        let s := if l.notify || l.killed.isSome then notifyLaunch s l.taken l.completion else s
        .next (s.modLaunch fun u => { u with launches := mdel u.launches launch })

end Sys2Proof.Machine
end

