-- ==== Sys2Proof/Machine/Pred.lean ====
section
/-! DEFINITION. Predicates and masks (R292, R293). -/

namespace Sys2Proof.Machine

/-- PAND (R292). -/
def execPand (b a d p : PReg) (s : State) : Out :=
  onThread (.pand b a d p) p (fun t => t.wrP d (t.rdP a && t.rdP b)) s
/-- POR (R292). -/
def execPor (b a d p : PReg) (s : State) : Out :=
  onThread (.por b a d p) p (fun t => t.wrP d (t.rdP a || t.rdP b)) s
/-- PXOR (R292). -/
def execPxor (b a d p : PReg) (s : State) : Out :=
  onThread (.pxor b a d p) p (fun t => t.wrP d (t.rdP a ^^ t.rdP b)) s
/-- PNOT (R292). -/
def execPnot (a d p : PReg) (s : State) : Out :=
  onThread (.pnot a d p) p (fun t => t.wrP d (!t.rdP a)) s
/-- PMOV (R292). -/
def execPmov (a d p : PReg) (s : State) : Out :=
  onThread (.pmov a d p) p (fun t => t.wrP d (t.rdP a)) s
/-- The predicates as bits, bit 7 always set (R292). -/
def Thread.predBits (t : Thread) : Word :=
  BitVec.ofNat 32 ((List.range 8).foldl (fun n i => n + (t.rdP (BitVec.ofNat 3 i)).toNat * 2 ^ i) 0)
/-- P2G (R292). -/
def execP2g (d : Reg) (p : PReg) (s : State) : Out :=
  onThread (.p2g d p) p (fun t => t.wrG d t.predBits) s
/-- Writes the predicates that the mask selects (R292). -/
def Thread.wrPreds (t : Thread) (v mask : Word) : Thread :=
  (List.range 7).foldl (fun t i => if mask.getLsbD i then t.wrP (BitVec.ofNat 3 i) (v.getLsbD i) else t) t
/-- G2P (R292). -/
def execG2p (b a : Reg) (p : PReg) (s : State) : Out :=
  onThread (.g2p b a p) p (fun t => t.wrPreds (t.rdG a) (t.rdG b)) s
/-- MAND: for m7 the write falls after the shifts made and before those still to come (R292, R293). -/
def execMand (b : Reg) (a d p : PReg) (s : State) : Out :=
  onThread (.mand b a d p) p (fun t => t.wrM d (t.rdM a &&& (t.rdG b).setWidth 8)) s
/-- MOR (R292, R293). -/
def execMor (b : Reg) (a d p : PReg) (s : State) : Out :=
  onThread (.mor b a d p) p (fun t => t.wrM d (t.rdM a ||| (t.rdG b).setWidth 8)) s
/-- MPOP (R292). -/
def execMpop (a : PReg) (d : Reg) (p : PReg) (s : State) : Out :=
  onThread (.mpop a d p) p (fun t =>
    t.wrG d (BitVec.ofNat 32 ((t.rdM a).toNat * 256 + popNat (t.rdM a).toNat 8))) s
/-- MTST (R292). -/
def execMtst (n a d p : PReg) (s : State) : Out :=
  onThread (.mtst n a d p) p (fun t => t.wrP d ((t.rdM a).getLsbD n.toNat)) s

end Sys2Proof.Machine
end

