-- ==== Sys2Proof/Machine/Quant.lean ====
section
/-! DEFINITION. Packed 16-bit arithmetic and quantising (R306 to R312). -/

namespace Sys2Proof.Machine

/-- HADD2 (R306). -/
def execHadd2 (b a d : Reg) (p : PReg) (s : State) : Out :=
  onThread (.hadd2 b a d p) p (fun t => t.wrG d (packed (fun x y _ => elemAdd f16Fmt x y) (t.rdG a) (t.rdG b) (t.rdG d))) s
/-- HMUL2 (R306). -/
def execHmul2 (b a d : Reg) (p : PReg) (s : State) : Out :=
  onThread (.hmul2 b a d p) p (fun t => t.wrG d (packed (fun x y _ => elemMul f16Fmt x y) (t.rdG a) (t.rdG b) (t.rdG d))) s
/-- HFMA2 (R306). -/
def execHfma2 (b a d : Reg) (p : PReg) (s : State) : Out :=
  onThread (.hfma2 b a d p) p (fun t => t.wrG d (packed (elemFma f16Fmt) (t.rdG a) (t.rdG b) (t.rdG d))) s
/-- HMAX2 (R306). -/
def execHmax2 (b a d : Reg) (p : PReg) (s : State) : Out :=
  onThread (.hmax2 b a d p) p (fun t => t.wrG d (packed (fun x y _ => minMaxBits f16Fmt true x y) (t.rdG a) (t.rdG b) (t.rdG d))) s
/-- HMIN2 (R306). -/
def execHmin2 (b a d : Reg) (p : PReg) (s : State) : Out :=
  onThread (.hmin2 b a d p) p (fun t => t.wrG d (packed (fun x y _ => minMaxBits f16Fmt false x y) (t.rdG a) (t.rdG b) (t.rdG d))) s
/-- BADD2 (R306). -/
def execBadd2 (b a d : Reg) (p : PReg) (s : State) : Out :=
  onThread (.badd2 b a d p) p (fun t => t.wrG d (packed (fun x y _ => elemAdd bf16Fmt x y) (t.rdG a) (t.rdG b) (t.rdG d))) s
/-- BMUL2 (R306). -/
def execBmul2 (b a d : Reg) (p : PReg) (s : State) : Out :=
  onThread (.bmul2 b a d p) p (fun t => t.wrG d (packed (fun x y _ => elemMul bf16Fmt x y) (t.rdG a) (t.rdG b) (t.rdG d))) s
/-- BFMA2 (R306). -/
def execBfma2 (b a d : Reg) (p : PReg) (s : State) : Out :=
  onThread (.bfma2 b a d p) p (fun t => t.wrG d (packed (elemFma bf16Fmt) (t.rdG a) (t.rdG b) (t.rdG d))) s
/-- QMAX (R308). -/
def execQmax (b a d : Reg) (p : PReg) (s : State) : Out :=
  onThread (.qmax b a d p) p (fun t => t.wrG d (qmaxW (t.rdG a) (t.rdG b) (t.rdG d))) s
/-- QSCL (R309). -/
def execQscl (b a d : Reg) (p : PReg) (s : State) : Out :=
  onThread (.qscl b a d p) p (fun t => t.wrG d (qsclW (t.rdG a) (t.rdG b))) s
/-- QPACK (R310). -/
def execQpack (b a d : Reg) (p : PReg) (s : State) : Out :=
  onThread (.qpack b a d p) p (fun t => t.wrG d (qpackW (t.rdSpan a 8) (t.rdG b))) s
/-- QUNPK (R311). -/
def execQunpk (b a d : Reg) (p : PReg) (s : State) : Out :=
  onThread (.qunpk b a d p) p (fun t => t.wrSpan d (qunpkW (t.rdG a) (t.rdG b))) s
/-- IDP4 (R312). -/
def execIdp4 (b a d : Reg) (p : PReg) (s : State) : Out :=
  onThread (.idp4 b a d p) p (fun t => t.wrG d (idp4W (t.rdG a) (t.rdG b) (t.rdG d))) s

end Sys2Proof.Machine
end

