-- ==== Sys2Proof/Machine/Remote.lean ====
section
/-! DEFINITION. Requests from other modules at their home in this one: their order per line (R133, R167), their
effect, and the bytes that armed chunks count (R265). -/

namespace Sys2Proof.Machine

/-- Bytes of an operation; one on a whole line names none. -/
def remoteSize (o : RemoteOp) : Nat :=
  match o with
  | .read n => n
  | .write b => b.length
  | .atom c _ => atomSize c
  | .clean | .evict => 0

/-- Does an operation name a line and not bytes of it (R237). -/
def wholeLine (o : RemoteOp) : Bool :=
  match o with
  | .clean | .evict => true
  | .read _ | .write _ | .atom _ _ => false

/-- Can a request be one of the fabric: bytes within one line of the vault region (R98, R133, R237). -/
def remoteFits (r : RemoteReq) : Bool :=
  inVault r.addr && (wholeLine r.op || decide (0 < remoteSize r.op)) && decide (r.addr % 128 + remoteSize r.op ≤ 128)

/-- Sequence number that the home applies next for a source core and a line (R167). -/
def rxNext (s : State) (m core line : Nat) : Nat :=
  match s.rxSeq.find? fun x => x.1 == m && x.2.1 == core && x.2.2.1 == line with
  | some x => x.2.2.2
  | none => 0

/-- The home has applied the request of a sequence number (R167). -/
def rxAdvance (s : State) (m core line : Nat) : State :=
  let n := rxNext s m core line
  { s with rxSeq := (m, core, line, n + 1) :: s.rxSeq.filter fun x => !(x.1 == m && x.2.1 == core && x.2.2.1 == line) }

/-- The asker of a request. -/
def remoteWho (r : RemoteReq) : Asker := .other r.srcModule r.srcCore

/-- The access that a request has the home make: pol 1, or a device access (R133, R227). -/
def remoteAccess (s : State) (r : RemoteReq) (op : AccessOp) : Access :=
  askOf (remoteWho r) 256 0 (s.page.moduleId * 2 ^ 48 + r.addr) (remoteSize r.op) (if r.device then .dev else .bypass) op

/-- The home makes an access for another module: a record in its cluster's queue, or a device access at the vault at
once, which a remap step holds (R82, R131 to R133). -/
def remotePerform (s : State) (r : RemoteReq) (op : AccessOp) : State :=
  let a := remoteAccess s r op
  let kind : RecKind := if a.op.reads then .bypr else .bypw
  if !r.device then (pendRecord s a (recOf kind 0 0)).2
  else if vaultHolds s a.line then (holdDevice s a kind).2
  else
    let n := pend s a
    vaultPerform n.2 { recOf kind a.core a.line with access := some n.1 }

/-- An L2CLEAN or L2EVICT for another module: the home's record, with an operation that has no handle here and answers the
module when it is done (R237). -/
def remoteClean (s : State) (r : RemoteReq) (kind : ServiceKind) : State :=
  let line := r.addr / 128
  let home := vaultOf line
  let n := s.fresh
  let y : Reply := ⟨remoteWho r, 256, s.page.moduleId * 2 ^ 48 + r.addr, 0, true, none, []⟩
  let s := { n.2 with services := mput n.2.services n.1 ⟨kind, 32 * home, none, [], 0, 0, false, false, some y⟩ }
  enqueue s home (line % 8) { recOf (if kind = .evict then .inv else .bypr) (32 * home) line with service := some n.1 }

/-- A write for another module; a marked frame takes none and answers PERM (R229, R449). -/
def remoteWrite (s : State) (r : RemoteReq) (op : AccessOp) : State :=
  if s.boot.frames.contains (r.addr / 2 ^ 14) then giveReply s (remoteAccess s r op) (some (.perm, 0)) []
  else remotePerform s r op

/-- A request takes its place at its home (R133, R237). -/
def applyRemote (s : State) (r : RemoteReq) : State :=
  match r.op with
  | .read _ => remotePerform s r (.read (remoteWho r))
  | .write b => remoteWrite s r (.write (remoteWho r) b)
  | .atom c v => remoteWrite s r (.update (remoteWho r) c (bytesWords v))
  | .clean => remoteClean s r .clean
  | .evict => remoteClean s r .evict

/-- May a request take its place: its number is the next of its source and line, the home's queue has room for its
record, and a device access finds no earlier access of its source to the line still to be performed (R125, R167). -/
def rxDue (s : State) (r : RemoteReq) : Bool :=
  let line := r.addr / 128
  r.seq == rxNext s r.srcModule r.srcCore line
    && (if r.device then !(s.accs.any fun x => x.2.op.asker? == some (remoteWho r) && x.2.line == line)
      else queueRoom s (vaultOf line) (line % 8))

/-- A request takes its place (R167). -/
def rxApply (s : State) (r : RemoteReq) : State :=
  rxAdvance (applyRemote { s with rxEarly := s.rxEarly.erase r } r) r.srcModule r.srcCore (r.addr / 128)

/-- Applies the held requests whose turn has come, n at most (R167). -/
def rxDrain (s : State) : Nat → State
  | 0 => s
  | n + 1 =>
    match s.rxEarly.find? (rxDue s) with
    | none => s
    | some r => rxDrain (rxApply s r) n

/-- REMOTE_REQUEST (R167): a request that may not take its place yet is held, and one whose number has been applied
already has no effect. -/
def execRemoteRequest (r : RemoteReq) (s : State) : Out :=
  if !remoteFits r || decide (r.seq < rxNext s r.srcModule r.srcCore (r.addr / 128)) then .next s
  else if rxDue s r then .next (rxDrain (rxApply s r) s.rxEarly.length)
  else .next (if s.rxEarly.contains r then s else { s with rxEarly := s.rxEarly ++ [r] })

end Sys2Proof.Machine
end

