-- ==== Sys2Proof/Machine/Short.lean ====
section
/-! DEFINITION. The 16-bit forms (R34, R278). -/

namespace Sys2Proof.Machine

/-- NOP16 (R34). -/
def execNop16 (s : State) : Out := onThread .nop16 7 (fun t => t) s
/-- MOV16 (R278). -/
def execMov16 (i : Bool) (r d : BitVec 5) (s : State) : Out :=
  onThread (.mov16 i r d) 7 (fun t =>
    let v := if i then imm16Signed r else t.rdG (r.setWidth 6)
    t.wrG (d.setWidth 6) (v)) s
/-- ADD16 (R278). -/
def execAdd16 (i : Bool) (r d : BitVec 5) (s : State) : Out :=
  onThread (.add16 i r d) 7 (fun t =>
    let v := if i then imm16Signed r else t.rdG (r.setWidth 6)
    t.wrG (d.setWidth 6) (t.rdG (d.setWidth 6) + v)) s
/-- SUB16 (R278). -/
def execSub16 (i : Bool) (r d : BitVec 5) (s : State) : Out :=
  onThread (.sub16 i r d) 7 (fun t =>
    let v := if i then imm16Signed r else t.rdG (r.setWidth 6)
    t.wrG (d.setWidth 6) (t.rdG (d.setWidth 6) - v)) s
/-- MUL16 (R278). -/
def execMul16 (i : Bool) (r d : BitVec 5) (s : State) : Out :=
  onThread (.mul16 i r d) 7 (fun t =>
    let v := if i then imm16Signed r else t.rdG (r.setWidth 6)
    t.wrG (d.setWidth 6) (t.rdG (d.setWidth 6) * v)) s
/-- AND16 (R278). -/
def execAnd16 (i : Bool) (r d : BitVec 5) (s : State) : Out :=
  onThread (.and16 i r d) 7 (fun t =>
    let v := if i then imm16Signed r else t.rdG (r.setWidth 6)
    t.wrG (d.setWidth 6) (t.rdG (d.setWidth 6) &&& v)) s
/-- OR16 (R278). -/
def execOr16 (i : Bool) (r d : BitVec 5) (s : State) : Out :=
  onThread (.or16 i r d) 7 (fun t =>
    let v := if i then imm16Signed r else t.rdG (r.setWidth 6)
    t.wrG (d.setWidth 6) (t.rdG (d.setWidth 6) ||| v)) s
/-- XOR16 (R278). -/
def execXor16 (i : Bool) (r d : BitVec 5) (s : State) : Out :=
  onThread (.xor16 i r d) 7 (fun t =>
    let v := if i then imm16Signed r else t.rdG (r.setWidth 6)
    t.wrG (d.setWidth 6) (t.rdG (d.setWidth 6) ^^^ v)) s
/-- SHL16 (R278). -/
def execShl16 (i : Bool) (r d : BitVec 5) (s : State) : Out :=
  onThread (.shl16 i r d) 7 (fun t =>
    let v := if i then imm16Shift r else t.rdG (r.setWidth 6)
    t.wrG (d.setWidth 6) (shlW (t.rdG (d.setWidth 6)) v)) s
/-- SHR16 (R278). -/
def execShr16 (i : Bool) (r d : BitVec 5) (s : State) : Out :=
  onThread (.shr16 i r d) 7 (fun t =>
    let v := if i then imm16Shift r else t.rdG (r.setWidth 6)
    t.wrG (d.setWidth 6) (shrW (t.rdG (d.setWidth 6)) v)) s
/-- SAR16 (R278). -/
def execSar16 (i : Bool) (r d : BitVec 5) (s : State) : Out :=
  onThread (.sar16 i r d) 7 (fun t =>
    let v := if i then imm16Shift r else t.rdG (r.setWidth 6)
    t.wrG (d.setWidth 6) (sarW (t.rdG (d.setWidth 6)) v)) s
/-- MIN16 (R278). -/
def execMin16 (i : Bool) (r d : BitVec 5) (s : State) : Out :=
  onThread (.min16 i r d) 7 (fun t =>
    let v := if i then imm16Signed r else t.rdG (r.setWidth 6)
    t.wrG (d.setWidth 6) (minW (t.rdG (d.setWidth 6)) v)) s
/-- MAX16 (R278). -/
def execMax16 (i : Bool) (r d : BitVec 5) (s : State) : Out :=
  onThread (.max16 i r d) 7 (fun t =>
    let v := if i then imm16Signed r else t.rdG (r.setWidth 6)
    t.wrG (d.setWidth 6) (maxW (t.rdG (d.setWidth 6)) v)) s
/-- FADD16 (R278). -/
def execFadd16 (i : Bool) (r d : BitVec 5) (s : State) : Out :=
  onThread (.fadd16 i r d) 7 (fun t =>
    let v := if i then imm16Float r else t.rdG (r.setWidth 6)
    t.wrG (d.setWidth 6) (Machine.fadd (t.rdG (d.setWidth 6)) v)) s
/-- FMUL16 (R278). -/
def execFmul16 (i : Bool) (r d : BitVec 5) (s : State) : Out :=
  onThread (.fmul16 i r d) 7 (fun t =>
    let v := if i then imm16Float r else t.rdG (r.setWidth 6)
    t.wrG (d.setWidth 6) (Machine.fmul (t.rdG (d.setWidth 6)) v)) s
/-- FMAX16 (R278). -/
def execFmax16 (i : Bool) (r d : BitVec 5) (s : State) : Out :=
  onThread (.fmax16 i r d) 7 (fun t =>
    let v := if i then imm16Float r else t.rdG (r.setWidth 6)
    t.wrG (d.setWidth 6) (Machine.fmax (t.rdG (d.setWidth 6)) v)) s
/-- FMIN16 (R278). -/
def execFmin16 (i : Bool) (r d : BitVec 5) (s : State) : Out :=
  onThread (.fmin16 i r d) 7 (fun t =>
    let v := if i then imm16Float r else t.rdG (r.setWidth 6)
    t.wrG (d.setWidth 6) (Machine.fmin (t.rdG (d.setWidth 6)) v)) s

end Sys2Proof.Machine
end

