-- ==== Sys2Proof/Machine/Sys.lean ====
section
/-! DEFINITION. The simple system instructions: NOP, YIELD, EXIT, TRAP, HALT, SNAPC and SREAD (R409 to
R412), the control registers (R58, R96, R139, R359, R403, R410) and TRET (R406). -/

namespace Sys2Proof.Machine

/-- NOP (R409). -/
def execNop (p : PReg) (s : State) : Out := onThread (.nop p) p (fun t => t) s

/-- YIELD: the thread is not ready until its row has issued from another troupe, or for 64 cycles (R409). -/
def execYield (p : PReg) (s : State) : Out :=
  let now := s.cycles s.cur.core
  onThread (.yield p) p (fun t => { t with yielded := some now }) s

/-- Does every completion flag of the thread stand at zero (R409). -/
def Thread.flagsClear (t : Thread) : Bool := t.f.toList.all (· == 0)

/-- EXIT: waits for the flags and the acknowledgement counter, raises a deferred trap that has fallen due,
and ends the thread (R409). -/
def execExit (p : PReg) (s : State) : Out :=
  perThread (.exit p) p (fun s k _ => withThread s k fun t =>
    if !t.flagsClear then .wait s .exitFlags
    else if (s.core (coreOf k)).acks ≠ 0 then .wait s .acks
    else match t.deferred with
      | d :: _ => .trapAt (dropDeferred s k d) d.trap (resumeDeferred t) d.pc
      | [] => .placed (endThread s k)) s

/-- TRAP (R409). -/
def execTrap (n : Reg) (p : PReg) (s : State) : Out :=
  perThread (.trap n p) p (fun s _ _ => .trap s { cause := .swtrap, info := n.toNat }) s

/-- The checks and the wait of TRET (R406), then its effect. -/
def tret (s : State) (k : Nat) (f : Thread → Effect) : Effect :=
  withWg s k fun t w =>
    if !t.ta then .trap s { cause := if supervisor t w then .illegalOp else .priv }
    else if t.inflight.any (·.inTrap) then .wait s .tret
    else f t

/-- Leaves the handler for the point that T.resume gives (R406). -/
def leaveHandler (s : State) (k : Nat) (t : Thread) (skip : Bool) : State :=
  let s := s.setThread k { t.retire s.now (s.cycles (coreOf k)) with ta := false }
  match t.resume with
  | some r => resumeAt s k r skip
  | none => goHeader s k t.pc

/-- TRET_RETRY (R406). -/
def execTretRetry (p : PReg) (s : State) : Out :=
  perThread (.tretRetry p) p (fun s k _ => tret s k fun t => .placed (leaveHandler s k t false)) s
/-- TRET_SKIP (R406). -/
def execTretSkip (p : PReg) (s : State) : Out :=
  perThread (.tretSkip p) p (fun s k _ => tret s k fun t => .placed (leaveHandler s k t true)) s
/-- TRET_JMP (R406). -/
def execTretJmp (a : Reg) (p : PReg) (s : State) : Out :=
  perThread (.tretJmp a p) p (fun s k _ => tret s k fun t =>
    if (t.rdPair a).extractLsb' 0 2 != 0 then .trap s { cause := .illegalOp }
    else .jump (s.setThread k { t with ta := false }) (t.rdPair a)) s

/-- HALT (R411). -/
def execHalt (p : PReg) (s : State) : Out :=
  perThread (.halt p) p (fun s k _ => withWg s k fun t w =>
    if !supervisor t w then .trap s { cause := .priv }
    else
      let s := s.setThread k { t with run := .halted, wait := none }
      let s := s.modCore (coreOf k) fun c => { c with haltValid := true, haltSlot := k % 2048 }
      .placed (notify s 9 (coreOf k) (k % 2048))) s

/-! Special registers (R57, R410). -/

/-- %time of a field in ns for a workgroup: local time less the last measured offset; it falls neither in the field nor
for the workgroup, wherever it runs (R410, R420). -/
def fieldTime (s : State) (f : Nat) (w : Workgroup) : Nat :=
  let x := s.field f
  max (max x.lastTime w.lastTime) ((((s.now + s.time.shift) * 125 : Nat) + x.skew - x.ofs).toNat / 1000)

/-- The field a core lies in. -/
def fieldOfCore (c : Nat) : Nat := fieldOfCluster (clusterOf c)

/-- The value of a special register (R57, R382, R384, R410). -/
def sregValue (s : State) (k : Nat) (t : Thread) (w : Workgroup) (n : Nat) : Nat :=
  match n with
  | 0 => t.lin % w.sizes.wgX
  | 1 => t.lin / w.sizes.wgX % w.sizes.wgY
  | 2 => t.lin / w.sizes.wgX / w.sizes.wgY
  | 3 => w.coords.x
  | 4 => w.coords.y
  | 5 => w.coords.z
  | 6 => w.sizes.wgX
  | 7 => w.sizes.wgY
  | 8 => w.sizes.wgZ
  | 9 => w.sizes.gridX
  | 10 => w.sizes.gridY
  | 11 => w.sizes.gridZ
  | 12 => w.coords.stage
  | 13 => w.coords.rank
  | 14 => s.launch.cores.idxOf (coreOf k)
  | 15 => w.migr
  | 16 => fieldTime s (fieldOfCore (coreOf k)) w
  | 17 => s.cycles (coreOf k)
  | _ => w.refcost

/-- SREAD (R57, R410). -/
def execSread (a d : Reg) (p : PReg) (s : State) : Out :=
  perThread (.sread a d p) p (fun s k _ => withWg s k fun t w =>
    let v := sregValue s k t w a.toNat
    let s := if a = 16 then (s.modField (fieldOfCore (coreOf k)) fun f => { f with lastTime := v }).modWg t.wg fun w =>
        { w with lastTime := v } else s
    .next (s.setThread k
      (if 16 ≤ a.toNat then t.wrPair d (BitVec.ofNat 64 v) else t.wrG d (BitVec.ofNat 32 v)))) s

/-! Control registers (R58). -/

/-- The value of a control register (R58, R403). -/
def cregValue (t : Thread) (w : Workgroup) (n : Nat) : DWord :=
  match n with
  | 0 => w.trapvec
  | 1 => w.trapen.setWidth 64
  | 2 => t.trapCause
  | 3 => t.trapAddr
  | 4 => t.trapTid.setWidth 64
  | 5 => BitVec.ofNat 64 w.contain
  | 6 => BitVec.ofNat 64 w.asid
  | 7 => BitVec.ofNat 64 w.ptbase
  | 8 => BitVec.ofNat 64 w.hashdom
  | 9 => BitVec.ofNat 64 w.mhold
  | 10 => BitVec.ofNat 64 w.unichk.toNat
  | _ => BitVec.ofNat 64 w.lead

/-- CRRD, counted on setA (R58, R410). -/
def execCrrd (a d : Reg) (p : PReg) (s : State) : Out :=
  perThread (.crrd a d p) p (fun s k _ => withWg s k fun t w =>
    if !supervisor t w then .trap s { cause := .priv }
    else
      let v := cregValue t w a.toNat
      let ws := RegWrite.g d (v.extractLsb' 0 32) ::
        (if cregRegs a = 2 then [RegWrite.g (d + 1) (v.extractLsb' 32 32)] else [])
      .next (s.setThread k (t.countResult ws))) s

/-- Does a value keep a control register's zero bits (R96, R139, R359, R403). -/
def cregFits (n : Nat) (v : Nat) : Bool :=
  match n with
  | 0 => decide (v < 2 ^ 52) && v % 4 == 0
  | 1 => decide (v < 2 ^ 15) && v % 2 == 0
  | 5 | 6 => decide (v < 2 ^ 8)
  | 7 => decide (v < 2 ^ 48) && v % 256 == 0
  | 8 => decide (v < 2 ^ 10)
  | 9 => decide (v < 2 ^ 16)
  | 10 => decide (v < 2)
  | 11 => decide (v < 8)
  | _ => false

/-- CRWR: the write applies from the writer's next clause boundary (R96, R139, R359, R403). -/
def execCrwr (a d : Reg) (p : PReg) (s : State) : Out :=
  perThread (.crwr a d p) p (fun s k _ => withWg s k fun t w =>
    let v := if cregRegs d = 2 then t.rdPair a else (t.rdG a).setWidth 64
    if !supervisor t w then .trap s { cause := .priv }
    else if d = 8 && !s.hdSvw then .trap s { cause := .priv }
    else if !cregFits d.toNat v.toNat then .trap s { cause := .illegalOp }
    else .next (s.modWg t.wg fun w => { w with crWrites := w.crWrites ++ [⟨k, d.toNat, v⟩] })) s

/-! Telemetry (R412). -/

/-- n little-endian bytes of each of the counters of a map, for keys 0 to count - 1. -/
def counterBytes (m : SMap Nat) (n count : Nat) : List Byte :=
  (List.range count).flatMap fun i => natBytes n ((mget m i).getD 0)

/-- The 256 bytes that SNAPC writes (R412): the last latch, the retakes made, and whether it is stale. -/
def snapshot (s : State) (core retakes : Nat) (stale : Bool) : List Byte :=
  let c := s.core core
  let n := c.counters
  let spare := c.rows.toList.zipIdx.foldl (fun v r => v + (if r.1.spare.any (· < 8) then 2 ^ r.2 else 0)) 0
  natBytes 8 (s.cycles core) ++ natBytes 1 (c.laneGen % 256) ++ natBytes 1 spare ++ natBytes 2 retakes
    ++ natBytes 4 (if stale then 2 ^ 31 else 0)
    ++ counterBytes n.lanes 4 36 ++ counterBytes n.issues 4 4 ++ counterBytes n.members 4 4
    ++ natBytes 8 n.passes ++ natBytes 8 n.bytes ++ natBytes 8 n.l1miss ++ natBytes 8 n.tlbmiss
    ++ List.replicate 32 0

/-- The row whose waiting remap falls into a latch, if any: a free choice among none and the rows at which one may
take effect (R22, R412; logs 9, 25). -/
def remapInLatch (s : State) (core : Nat) : Option Nat × State :=
  let waiting := (List.range 4).filter fun r => (((s.core core).rows[r]?).bind (·.pending)).isSome && rowAtBoundary s core r
  ((s.pick (none :: waiting.map some)).getD (none, s))

/-- Latches of a snapshot: the counters are taken again while a remap falls into the latch, four times at most. What
it gives is the number of latches and whether the last one is inconsistent (R412). -/
def latches (s : State) (core taken : Nat) : Nat → State × Nat × Bool
  | 0 => (s, taken, true)
  | n + 1 => match remapInLatch s core with
    | (none, s) => (s, taken + 1, false)
    | (some r, s) => latches (remapLane s core r) core (taken + 1) n

/-- SNAPC, counted on setA: its stores are plain events of the thread (R412). -/
def execSnapc (a d : Reg) (p : PReg) (s : State) : Out :=
  perThread (.snapc a d p) p (fun s k _ => withWg s k fun t w =>
    let off := (t.rdG a).toNat
    let info : TrapInfo := { cause := .align, addr := some off, space := some .scratch, write := true }
    if !supervisor t w then .trap s { cause := .priv }
    else memGate s k t .plain false .scratch fun s t =>
      if off % 256 ≠ 0 then .trap s info
      else if w.sizes.scratch < off + 256 then .trap s { info with cause := .perm }
      else if localBusy s k (.scratch t.wg off) 256 then .wait s .order
      else
        let core := coreOf k
        let r := latches s core 0 4
        let stale := r.2.2
        let record := snapshot r.1 core (r.2.1 - 1) stale
        let l : Local := .scratch t.wg off
        let s := if s.late then (pendParts r.1 (localAcc k t .scratch l 256 .plain (.store record)) pend).2
          else writeLocal r.1 l record
        let status := (if stale then 2 ^ 31 else 0) + (r.2.1 - 1) * 2 ^ 8 + (r.1.core core).laneGen % 256
        .next (s.modThread k fun t => t.countResult [.g d (BitVec.ofNat 32 status)])) s

end Sys2Proof.Machine
end

