-- ==== Sys2Proof/Machine/Dispatch.lean ====
section
/-! DEFINITION. What each instruction and each step of another agent does: one arm for each constructor. -/

namespace Sys2Proof.Machine

open Sys2Proof

def exec (i : Instr) (s : State) : Host.Outcome State Fault Refusal :=
  match i with
  | .clauseHeader l b a w => Sys2Proof.Machine.execClauseHeader l b a w s
  | .immx x => Sys2Proof.Machine.execImmx x s
  | .nop16 => Sys2Proof.Machine.execNop16 s
  | .mov16 im sp d => Sys2Proof.Machine.execMov16 im sp d s
  | .add16 im sp d => Sys2Proof.Machine.execAdd16 im sp d s
  | .sub16 im sp d => Sys2Proof.Machine.execSub16 im sp d s
  | .mul16 im sp d => Sys2Proof.Machine.execMul16 im sp d s
  | .and16 im sp d => Sys2Proof.Machine.execAnd16 im sp d s
  | .or16 im sp d => Sys2Proof.Machine.execOr16 im sp d s
  | .xor16 im sp d => Sys2Proof.Machine.execXor16 im sp d s
  | .shl16 im sp d => Sys2Proof.Machine.execShl16 im sp d s
  | .shr16 im sp d => Sys2Proof.Machine.execShr16 im sp d s
  | .sar16 im sp d => Sys2Proof.Machine.execSar16 im sp d s
  | .min16 im sp d => Sys2Proof.Machine.execMin16 im sp d s
  | .max16 im sp d => Sys2Proof.Machine.execMax16 im sp d s
  | .fadd16 im sp d => Sys2Proof.Machine.execFadd16 im sp d s
  | .fmul16 im sp d => Sys2Proof.Machine.execFmul16 im sp d s
  | .fmax16 im sp d => Sys2Proof.Machine.execFmax16 im sp d s
  | .fmin16 im sp d => Sys2Proof.Machine.execFmin16 im sp d s
  | .nop p => Sys2Proof.Machine.execNop p s
  | .yield p => Sys2Proof.Machine.execYield p s
  | .exit p => Sys2Proof.Machine.execExit p s
  | .trap n p => Sys2Proof.Machine.execTrap n p s
  | .tretRetry p => Sys2Proof.Machine.execTretRetry p s
  | .tretSkip p => Sys2Proof.Machine.execTretSkip p s
  | .tretJmp a p => Sys2Proof.Machine.execTretJmp a p s
  | .halt p => Sys2Proof.Machine.execHalt p s
  | .snapc a d p => Sys2Proof.Machine.execSnapc a d p s
  | .sread a d p => Sys2Proof.Machine.execSread a d p s
  | .crrd a d p => Sys2Proof.Machine.execCrrd a d p s
  | .crwr a d p => Sys2Proof.Machine.execCrwr a d p s
  | .sweep b d p => Sys2Proof.Machine.execSweep b d p s
  | .tlbi b a p => Sys2Proof.Machine.execTlbi b a p s
  | .pgreq a d p => Sys2Proof.Machine.execPgreq a d p s
  | .pgqry a d p => Sys2Proof.Machine.execPgqry a d p s
  | .cctlL1evict a d p => Sys2Proof.Machine.execCctlL1evict a d p s
  | .cctlL2clean a d p => Sys2Proof.Machine.execCctlL2clean a d p s
  | .cctlL2evict a d p => Sys2Proof.Machine.execCctlL2evict a d p s
  | .cctlL1flush d p => Sys2Proof.Machine.execCctlL1flush d p s
  | .add b a d p => Sys2Proof.Machine.execAdd b a d p s
  | .sub b a d p => Sys2Proof.Machine.execSub b a d p s
  | .mul b a d p => Sys2Proof.Machine.execMul b a d p s
  | .mulh b a d p => Sys2Proof.Machine.execMulh b a d p s
  | .mulhn b a d p => Sys2Proof.Machine.execMulhn b a d p s
  | .and b a d p => Sys2Proof.Machine.execAnd b a d p s
  | .or b a d p => Sys2Proof.Machine.execOr b a d p s
  | .xor b a d p => Sys2Proof.Machine.execXor b a d p s
  | .andn b a d p => Sys2Proof.Machine.execAndn b a d p s
  | .shl b a d p => Sys2Proof.Machine.execShl b a d p s
  | .shr b a d p => Sys2Proof.Machine.execShr b a d p s
  | .sar b a d p => Sys2Proof.Machine.execSar b a d p s
  | .rot b a d p => Sys2Proof.Machine.execRot b a d p s
  | .min b a d p => Sys2Proof.Machine.execMin b a d p s
  | .max b a d p => Sys2Proof.Machine.execMax b a d p s
  | .minn b a d p => Sys2Proof.Machine.execMinn b a d p s
  | .maxn b a d p => Sys2Proof.Machine.execMaxn b a d p s
  | .abs a d p => Sys2Proof.Machine.execAbs a d p s
  | .neg a d p => Sys2Proof.Machine.execNeg a d p s
  | .clz a d p => Sys2Proof.Machine.execClz a d p s
  | .popc a d p => Sys2Proof.Machine.execPopc a d p s
  | .brev a d p => Sys2Proof.Machine.execBrev a d p s
  | .div b a d p => Sys2Proof.Machine.execDiv b a d p s
  | .rem b a d p => Sys2Proof.Machine.execRem b a d p s
  | .divn b a d p => Sys2Proof.Machine.execDivn b a d p s
  | .remn b a d p => Sys2Proof.Machine.execRemn b a d p s
  | .sel b a d q => Sys2Proof.Machine.execSel b a d q s
  | .mov a d p => Sys2Proof.Machine.execMov a d p s
  | .lea b a d p => Sys2Proof.Machine.execLea b a d p s
  | .mad b a d p => Sys2Proof.Machine.execMad b a d p s
  | .bfe b a d p => Sys2Proof.Machine.execBfe b a d p s
  | .bfi b a d p => Sys2Proof.Machine.execBfi b a d p s
  | .cmp b a d c p => Sys2Proof.Machine.execCmp b a d c p s
  | .cmpn b a d c p => Sys2Proof.Machine.execCmpn b a d c p s
  | .fcmp b a d c p => Sys2Proof.Machine.execFcmp b a d c p s
  | .addi im a d p => Sys2Proof.Machine.execAddi im a d p s
  | .andi im a d p => Sys2Proof.Machine.execAndi im a d p s
  | .ori im a d p => Sys2Proof.Machine.execOri im a d p s
  | .xori im a d p => Sys2Proof.Machine.execXori im a d p s
  | .shli im a d p => Sys2Proof.Machine.execShli im a d p s
  | .shri im a d p => Sys2Proof.Machine.execShri im a d p s
  | .sari im a d p => Sys2Proof.Machine.execSari im a d p s
  | .movi im d p => Sys2Proof.Machine.execMovi im d p s
  | .cmpi im a c t p => Sys2Proof.Machine.execCmpi im a c t p s
  | .pand b a d p => Sys2Proof.Machine.execPand b a d p s
  | .por b a d p => Sys2Proof.Machine.execPor b a d p s
  | .pxor b a d p => Sys2Proof.Machine.execPxor b a d p s
  | .pnot a d p => Sys2Proof.Machine.execPnot a d p s
  | .pmov a d p => Sys2Proof.Machine.execPmov a d p s
  | .p2g d p => Sys2Proof.Machine.execP2g d p s
  | .g2p b a p => Sys2Proof.Machine.execG2p b a p s
  | .mand b a d p => Sys2Proof.Machine.execMand b a d p s
  | .mor b a d p => Sys2Proof.Machine.execMor b a d p s
  | .mpop a d p => Sys2Proof.Machine.execMpop a d p s
  | .mtst n a d p => Sys2Proof.Machine.execMtst n a d p s
  | .uAdd b a d p => Sys2Proof.Machine.execUAdd b a d p s
  | .uSub b a d p => Sys2Proof.Machine.execUSub b a d p s
  | .uMul b a d p => Sys2Proof.Machine.execUMul b a d p s
  | .uMulh b a d p => Sys2Proof.Machine.execUMulh b a d p s
  | .uMulhn b a d p => Sys2Proof.Machine.execUMulhn b a d p s
  | .uAnd b a d p => Sys2Proof.Machine.execUAnd b a d p s
  | .uOr b a d p => Sys2Proof.Machine.execUOr b a d p s
  | .uXor b a d p => Sys2Proof.Machine.execUXor b a d p s
  | .uAndn b a d p => Sys2Proof.Machine.execUAndn b a d p s
  | .uShl b a d p => Sys2Proof.Machine.execUShl b a d p s
  | .uShr b a d p => Sys2Proof.Machine.execUShr b a d p s
  | .uSar b a d p => Sys2Proof.Machine.execUSar b a d p s
  | .uRot b a d p => Sys2Proof.Machine.execURot b a d p s
  | .uMin b a d p => Sys2Proof.Machine.execUMin b a d p s
  | .uMax b a d p => Sys2Proof.Machine.execUMax b a d p s
  | .uMinn b a d p => Sys2Proof.Machine.execUMinn b a d p s
  | .uMaxn b a d p => Sys2Proof.Machine.execUMaxn b a d p s
  | .uAbs a d p => Sys2Proof.Machine.execUAbs a d p s
  | .uNeg a d p => Sys2Proof.Machine.execUNeg a d p s
  | .uClz a d p => Sys2Proof.Machine.execUClz a d p s
  | .uPopc a d p => Sys2Proof.Machine.execUPopc a d p s
  | .uBrev a d p => Sys2Proof.Machine.execUBrev a d p s
  | .usel b a d q => Sys2Proof.Machine.execUsel b a d q s
  | .uMov a d p => Sys2Proof.Machine.execUMov a d p s
  | .uLea b a d p => Sys2Proof.Machine.execULea b a d p s
  | .s2g a d p => Sys2Proof.Machine.execS2g a d p s
  | .g2s a d p => Sys2Proof.Machine.execG2s a d p s
  | .fadd b a d p => Sys2Proof.Machine.execFadd b a d p s
  | .fsub b a d p => Sys2Proof.Machine.execFsub b a d p s
  | .fmul b a d p => Sys2Proof.Machine.execFmul b a d p s
  | .fmin b a d p => Sys2Proof.Machine.execFmin b a d p s
  | .fmax b a d p => Sys2Proof.Machine.execFmax b a d p s
  | .fabs a d p => Sys2Proof.Machine.execFabs a d p s
  | .fneg a d p => Sys2Proof.Machine.execFneg a d p s
  | .fdiv b a d p => Sys2Proof.Machine.execFdiv b a d p s
  | .fsqrt a d p => Sys2Proof.Machine.execFsqrt a d p s
  | .frcp a d p => Sys2Proof.Machine.execFrcp a d p s
  | .frsq a d p => Sys2Proof.Machine.execFrsq a d p s
  | .fexp2 a d p => Sys2Proof.Machine.execFexp2 a d p s
  | .flog2 a d p => Sys2Proof.Machine.execFlog2 a d p s
  | .fsin a d p => Sys2Proof.Machine.execFsin a d p s
  | .fcos a d p => Sys2Proof.Machine.execFcos a d p s
  | .ftanh a d p => Sys2Proof.Machine.execFtanh a d p s
  | .ffma b a d p => Sys2Proof.Machine.execFfma b a d p s
  | .fflr a d p => Sys2Proof.Machine.execFflr a d p s
  | .fceil a d p => Sys2Proof.Machine.execFceil a d p s
  | .frnd a d p => Sys2Proof.Machine.execFrnd a d p s
  | .ftrc a d p => Sys2Proof.Machine.execFtrc a d p s
  | .randSeed a d p => Sys2Proof.Machine.execRandSeed a d p s
  | .randDraw d p => Sys2Proof.Machine.execRandDraw d p s
  | .cvt z r t u a d p => Sys2Proof.Machine.execCvt z r t u a d p s
  | .hadd2 b a d p => Sys2Proof.Machine.execHadd2 b a d p s
  | .hmul2 b a d p => Sys2Proof.Machine.execHmul2 b a d p s
  | .hfma2 b a d p => Sys2Proof.Machine.execHfma2 b a d p s
  | .hmax2 b a d p => Sys2Proof.Machine.execHmax2 b a d p s
  | .hmin2 b a d p => Sys2Proof.Machine.execHmin2 b a d p s
  | .badd2 b a d p => Sys2Proof.Machine.execBadd2 b a d p s
  | .bmul2 b a d p => Sys2Proof.Machine.execBmul2 b a d p s
  | .bfma2 b a d p => Sys2Proof.Machine.execBfma2 b a d p s
  | .qmax b a d p => Sys2Proof.Machine.execQmax b a d p s
  | .qscl b a d p => Sys2Proof.Machine.execQscl b a d p s
  | .qpack b a d p => Sys2Proof.Machine.execQpack b a d p s
  | .qunpk b a d p => Sys2Proof.Machine.execQunpk b a d p s
  | .idp4 b a d p => Sys2Proof.Machine.execIdp4 b a d p s
  | .bra o p => Sys2Proof.Machine.execBra o p s
  | .braU o p => Sys2Proof.Machine.execBraU o p s
  | .call o d p => Sys2Proof.Machine.execCall o d p s
  | .jmpr a p => Sys2Proof.Machine.execJmpr a p s
  | .callr a d p => Sys2Proof.Machine.execCallr a d p s
  | .ret a p => Sys2Proof.Machine.execRet a p s
  | .meet a p => Sys2Proof.Machine.execMeet a p s
  | .meetClr p => Sys2Proof.Machine.execMeetClr p s
  | .ldP o f b d p => Sys2Proof.Machine.execLdP o f b d p s
  | .ldS o f b d p => Sys2Proof.Machine.execLdS o f b d p s
  | .ldC o f b d p => Sys2Proof.Machine.execLdC o f b d p s
  | .ldW o f b d p => Sys2Proof.Machine.execLdW o f b d p s
  | .ldG o l f b d n p => Sys2Proof.Machine.execLdG o l f b d n p s
  | .stP o f b d p => Sys2Proof.Machine.execStP o f b d p s
  | .stS o f b d p => Sys2Proof.Machine.execStS o f b d p s
  | .stC o f b d p => Sys2Proof.Machine.execStC o f b d p s
  | .stW o f b d p => Sys2Proof.Machine.execStW o f b d p s
  | .stG o l f b d p => Sys2Proof.Machine.execStG o l f b d p s
  | .ldb e a d f p => Sys2Proof.Machine.execLdb e a d f p s
  | .atom b d o sp c p => Sys2Proof.Machine.execAtom b d o sp c p s
  | .red b d o sp c p => Sys2Proof.Machine.execRed b d o sp c p s
  | .fence sp k p => Sys2Proof.Machine.execFence sp k p s
  | .pref a t p => Sys2Proof.Machine.execPref a t p s
  | .tsld b a q p => Sys2Proof.Machine.execTsld b a q p s
  | .tsev b p => Sys2Proof.Machine.execTsev b p s
  | .tsq b a h q p => Sys2Proof.Machine.execTsq b a h q p s
  | .cpy a h sp p => Sys2Proof.Machine.execCpy a h sp p s
  | .cpyt b a h sp p => Sys2Proof.Machine.execCpyt b a h sp p s
  | .cpys b a h sp p => Sys2Proof.Machine.execCpys b a h sp p s
  | .cpyo b a h sp p => Sys2Proof.Machine.execCpyo b a h sp p s
  | .cpyr b a h sp p => Sys2Proof.Machine.execCpyr b a h sp p s
  | .job a h sp p => Sys2Proof.Machine.execJob a h sp p s
  | .waith a h p => Sys2Proof.Machine.execWaith a h p s
  | .testh b h c p => Sys2Proof.Machine.execTesth b h c p s
  | .movh a h p => Sys2Proof.Machine.execMovh a h p s
  | .cancel h p => Sys2Proof.Machine.execCancel h p s
  | .hsave a h sp p => Sys2Proof.Machine.execHsave a h sp p s
  | .hrest a h sp p => Sys2Proof.Machine.execHrest a h sp p s
  | .bufq b a p => Sys2Proof.Machine.execBufq b a p s
  | .bufrel b p => Sys2Proof.Machine.execBufrel b p s
  | .barinit b a p => Sys2Proof.Machine.execBarinit b a p s
  | .bararv a d p => Sys2Proof.Machine.execBararv a d p s
  | .barexp b a p => Sys2Proof.Machine.execBarexp b a p s
  | .barwait b a p => Sys2Proof.Machine.execBarwait b a p s
  | .bartest b a d p => Sys2Proof.Machine.execBartest b a d p s
  | .bardrop a p => Sys2Proof.Machine.execBardrop a p s
  | .sstep d p => Sys2Proof.Machine.execSstep d p s
  | .rdv b a d p => Sys2Proof.Machine.execRdv b a d p s
  | .launch a d p => Sys2Proof.Machine.execLaunch a d p s
  | .mrsv d p => Sys2Proof.Machine.execMrsv d p s
  | .mrel p => Sys2Proof.Machine.execMrel p s
  | .mzero w n d p => Sys2Proof.Machine.execMzero w n d p s
  | .mstat n d p => Sys2Proof.Machine.execMstat n d p s
  | .mmaHBf16 b a n c p => Sys2Proof.Machine.execMmaHBf16 b a n c p s
  | .mmaHF16 b a n c p => Sys2Proof.Machine.execMmaHF16 b a n c p s
  | .mmaQE4m3 b a sp n c p => Sys2Proof.Machine.execMmaQE4m3 b a sp n c p s
  | .mmaQE5m2 b a sp n c p => Sys2Proof.Machine.execMmaQE5m2 b a sp n c p s
  | .mmaNRb4 b a n c p => Sys2Proof.Machine.execMmaNRb4 b a n c p s
  | .mmaNI8 b a sp n c p => Sys2Proof.Machine.execMmaNI8 b a sp n c p s
  | .mld a n c p => Sys2Proof.Machine.execMld a n c p s
  | .mst a sp n c p => Sys2Proof.Machine.execMst a sp n c p s
  | .countedOperationCompletion core slot index => Sys2Proof.Machine.execCountedOperationCompletion core slot index s
  | .ageRuleWin core slot => Sys2Proof.Machine.execAgeRuleWin core slot s
  | .laneFailure core row lane => Sys2Proof.Machine.execLaneFailure core row lane s
  | .laneRemap core row => Sys2Proof.Machine.execLaneRemap core row s
  | .patrolScrub vault corrected lost => Sys2Proof.Machine.execPatrolScrub vault corrected lost s
  | .vaultRemapGo vault value => Sys2Proof.Machine.execVaultRemapGo vault value s
  | .remapStepCompletion vault => Sys2Proof.Machine.execRemapStepCompletion vault s
  | .heldRequestRelease vault => Sys2Proof.Machine.execHeldRequestRelease vault s
  | .vaultTempSample vault layers => Sys2Proof.Machine.execVaultTempSample vault layers s
  | .vaultFloor value => Sys2Proof.Machine.execVaultFloor value s
  | .prqRecordWrite core entry => Sys2Proof.Machine.execPrqRecordWrite core entry s
  | .prqRespDone request => Sys2Proof.Machine.execPrqRespDone request s
  | .prqRespDenied request => Sys2Proof.Machine.execPrqRespDenied request s
  | .pageRequestEngine core entry => Sys2Proof.Machine.execPageRequestEngine core entry s
  | .sweepCompletion sweep => Sys2Proof.Machine.execSweepCompletion sweep s
  | .xinvGo value => Sys2Proof.Machine.execXinvGo value s
  | .xinvDone => Sys2Proof.Machine.execXinvDone s
  | .carouselSlot => Sys2Proof.Machine.execCarouselSlot s
  | .gets carousel => Sys2Proof.Machine.execGets carousel s
  | .getm carousel => Sys2Proof.Machine.execGetm carousel s
  | .upg carousel => Sys2Proof.Machine.execUpg carousel s
  | .putm carousel => Sys2Proof.Machine.execPutm carousel s
  | .puts carousel => Sys2Proof.Machine.execPuts carousel s
  | .bypr carousel => Sys2Proof.Machine.execBypr carousel s
  | .bypw carousel => Sys2Proof.Machine.execBypw carousel s
  | .inv carousel => Sys2Proof.Machine.execInv carousel s
  | .tlbiRecord => Sys2Proof.Machine.execTlbiRecord s
  | .sweepRecord => Sys2Proof.Machine.execSweepRecord s
  | .badrec cluster kind => Sys2Proof.Machine.execBadrec cluster kind s
  | .windowData carousel => Sys2Proof.Machine.execWindowData carousel s
  | .supplyArrival message => Sys2Proof.Machine.execSupplyArrival message s
  | .ownerNotice message => Sys2Proof.Machine.execOwnerNotice message s
  | .writebackArrival message => Sys2Proof.Machine.execWritebackArrival message s
  | .l2Fill line => Sys2Proof.Machine.execL2Fill line s
  | .dedupClr slice value => Sys2Proof.Machine.execDedupClr slice value s
  | .hdKey3 value => Sys2Proof.Machine.execHdKey3 value s
  | .remoteRequest request => Sys2Proof.Machine.execRemoteRequest request s
  | .remoteAck access value => Sys2Proof.Machine.execRemoteAck access value s
  | .remoteTimeout access => Sys2Proof.Machine.execRemoteTimeout access s
  | .copyEngineCycle core => Sys2Proof.Machine.execCopyEngineCycle core s
  | .jobCompletion core entry => Sys2Proof.Machine.execJobCompletion core entry s
  | .barrierByteCount core entry count => Sys2Proof.Machine.execBarrierByteCount core entry count s
  | .jobDrainTimeout group => Sys2Proof.Machine.execJobDrainTimeout group s
  | .passCloseTimeout core => Sys2Proof.Machine.execPassCloseTimeout core s
  | .tileFetchStaged core => Sys2Proof.Machine.execTileFetchStaged core s
  | .passStartTest core => Sys2Proof.Machine.execPassStartTest core s
  | .passCompletion core => Sys2Proof.Machine.execPassCompletion core s
  | .engineItemCompletion core => Sys2Proof.Machine.execEngineItemCompletion core s
  | .engineClearComplete core => Sys2Proof.Machine.execEngineClearComplete core s
  | .heatRefill => Sys2Proof.Machine.execHeatRefill s
  | .currentLimitStep => Sys2Proof.Machine.execCurrentLimitStep s
  | .curlimStep region value => Sys2Proof.Machine.execCurlimStep region value s
  | .droopAlarm region => Sys2Proof.Machine.execDroopAlarm region s
  | .droopExpiry region => Sys2Proof.Machine.execDroopExpiry region s
  | .meetHoldRelease workgroup address => Sys2Proof.Machine.execMeetHoldRelease workgroup address s
  | .mholdExpiry workgroup address => Sys2Proof.Machine.execMholdExpiry workgroup address s
  | .phaseExchange workgroup => Sys2Proof.Machine.execPhaseExchange workgroup s
  | .thrClr core value => Sys2Proof.Machine.execThrClr core value s
  | .launchRecordTake queue => Sys2Proof.Machine.execLaunchRecordTake queue s
  | .workgroupPlacement launch => Sys2Proof.Machine.execWorkgroupPlacement launch s
  | .workgroupStart workgroup => Sys2Proof.Machine.execWorkgroupStart workgroup s
  | .contextSaveComplete group => Sys2Proof.Machine.execContextSaveComplete group s
  | .groupResume group => Sys2Proof.Machine.execGroupResume group s
  | .workgroupExit workgroup => Sys2Proof.Machine.execWorkgroupExit workgroup s
  | .launchEnd launch => Sys2Proof.Machine.execLaunchEnd launch s
  | .backoffExpiry core slot => Sys2Proof.Machine.execBackoffExpiry core slot s
  | .watchdog core slot => Sys2Proof.Machine.execWatchdog core slot s
  | .lifetimeRecord shutdown => Sys2Proof.Machine.execLifetimeRecord shutdown s
  | .lifetimeRecordComplete written => Sys2Proof.Machine.execLifetimeRecordComplete written s
  | .beacon field offset => Sys2Proof.Machine.execBeacon field offset s
  | .beaconLoss field => Sys2Proof.Machine.execBeaconLoss field s
  | .claim field => Sys2Proof.Machine.execClaim field s
  | .bid field => Sys2Proof.Machine.execBid field s
  | .claimRecord => Sys2Proof.Machine.execClaimRecord s
  | .masterTakeover field => Sys2Proof.Machine.execMasterTakeover field s
  | .newMasterBeacon field => Sys2Proof.Machine.execNewMasterBeacon field s
  | .rmForce value => Sys2Proof.Machine.execRmForce value s
  | .driftCheck field skews => Sys2Proof.Machine.execDriftCheck field skews s
  | .stallNotice field => Sys2Proof.Machine.execStallNotice field s
  | .ptpSync offset => Sys2Proof.Machine.execPtpSync offset s
  | .clockSourceLoss field source => Sys2Proof.Machine.execClockSourceLoss field source s
  | .clockSwitchComplete field bands => Sys2Proof.Machine.execClockSwitchComplete field bands s
  | .ringSweepEnd ring found => Sys2Proof.Machine.execRingSweepEnd ring found s
  | .ringLock ring heater => Sys2Proof.Machine.execRingLock ring heater s
  | .ringLockLoss ring => Sys2Proof.Machine.execRingLockLoss ring s
  | .ringRetune => Sys2Proof.Machine.execRingRetune s
  | .ringMask => Sys2Proof.Machine.execRingMask s
  | .ringUnmask => Sys2Proof.Machine.execRingUnmask s
  | .xbar lane value => Sys2Proof.Machine.execXbar lane value s
  | .frameCrcFailure carousel slot => Sys2Proof.Machine.execFrameCrcFailure carousel slot s
  | .carouselReplay carousel => Sys2Proof.Machine.execCarouselReplay carousel s
  | .codewordReplay port lane => Sys2Proof.Machine.execCodewordReplay port lane s
  | .laneFailover port lane => Sys2Proof.Machine.execLaneFailover port lane s
  | .hostWrite link target addr data => Sys2Proof.Machine.execHostWrite link target addr data s
  | .hostRead link target addr size => Sys2Proof.Machine.execHostRead link target addr size s
  | .hostLinkDown link => Sys2Proof.Machine.execHostLinkDown link s
  | .hwPageRetirement vault => Sys2Proof.Machine.execHwPageRetirement vault s
  | .powerGood report => Sys2Proof.Machine.execPowerGood report s
  | .powerLoss => Sys2Proof.Machine.execPowerLoss s
  | .loaderGo value => Sys2Proof.Machine.execLoaderGo value s
  | .loaderComplete => Sys2Proof.Machine.execLoaderComplete s
  | .loadUnmark value => Sys2Proof.Machine.execLoadUnmark value s
  | .quoteGo => Sys2Proof.Machine.execQuoteGo s
  | .quoteComplete => Sys2Proof.Machine.execQuoteComplete s
  | .registerWrite addr value => Sys2Proof.Machine.execRegisterWrite addr value s
  | .clockSourceReturn field source => Sys2Proof.Machine.execClockSourceReturn field source s
  | .yieldWaitExpiry core slot => Sys2Proof.Machine.execYieldWaitExpiry core slot s
  | .laserAgeReport channel current power change hours => Sys2Proof.Machine.execLaserAgeReport channel current power change hours s
  | .vaultWritePerformed line => Sys2Proof.Machine.execVaultWritePerformed line s

end Sys2Proof.Machine
end

