-- ==== Sys2Proof/Machine/Issue.lean ====
section
/-! DEFINITION. One turn of an issue row: which troupes may issue (R344 to R350), meeting holds at a clause
boundary (R357), fetching and decoding (R41, R42, R109), and the counting of SNAPC (R412). -/

namespace Sys2Proof.Machine

/-- Are slots strictly rising. -/
def rising : List Nat → Bool
  | a :: b :: r => decide (a < b) && rising (b :: r)
  | _ => true

/-! Meeting holds (R357). -/

/-- A thread at its meeting address enters a hold, or with MHOLD 0 only empties its register. -/
def enterHold (s : State) (k : Nat) : State :=
  match s.thread? k with
  | none => s
  | some t =>
    match s.wg? t.wg with
    | none => s
    | some w =>
      if t.meet = some t.pc && t.held.isNone then
        if w.mhold = 0 then s.setThread k { t with meet := none }
        else (s.setThread k { t with held := some (s.cycles (coreOf k)) }).modCore (coreOf k) fun c =>
          { c with counters := { c.counters with meetHolds := satAdd c.counters.meetHolds 1 0xFFFFFFFF } }
      else s

/-- Slots of a troupe whose threads are not held. -/
def notHeld (s : State) (core : Nat) (slots : List Nat) : List Nat :=
  slots.filter fun x => match s.thread? (tkey core x) with
    | some t => t.held.isNone
    | none => false

/-! Fetching at a clause boundary. -/

/-- What the members of a troupe fetch at a header: the words fetched, the traps raised, the state. -/
structure HeaderFetch where
  words : List (Nat × List Byte)
  traps : List Raised
  state : State

/-- One member fetches the word at its pc (R41, R109). -/
def fetchHeader (core : Nat) (acc : HeaderFetch) (slot : Nat) : HeaderFetch :=
  let k := tkey core slot
  let s := acc.state
  match s.thread? k with
  | none => acc
  | some t =>
    match s.wg? t.wg with
    | none => acc
    | some w =>
      let r := fetchFor s k t w t.pc.toNat 4
      match r.1 with
      | .code b => { acc with words := acc.words ++ [(slot, b)], state := r.2 }
      | .trap c info va => { acc with traps := acc.traps ++ [⟨k, fetchTrap c info va, resumeHeader t, t.pc⟩], state := r.2 }
      | .busy => { acc with state := holdThread r.2 k .busy }

/-- An instruction that is no instruction of the clause: ILLEGAL_OP in each member (R42, R59, R313). -/
def illegalTrap (k : Nat) (t : Thread) (code : List Byte) : Raised :=
  let at_ := if t.immx.isSome then t.pc - 4 else t.pc
  let len : Nat := match code with
    | b :: _ => if b.getLsbD 0 then 4 else 2
    | [] => 2
  match t.clause with
  | none => ⟨k, { cause := .illegalOp }, resumeHeader t, t.pc⟩
  | some c =>
    let next := t.pc + BitVec.ofNat 64 len
    ⟨k, { cause := .illegalOp }, ⟨.body, some c, at_, if (c.stop - next).toInt < 0 then c.stop else next⟩, at_⟩

/-- Raises ILLEGAL_OP in each member. -/
def illegalAll (s : State) (core : Nat) (slots : List Nat) (code : List Byte) : State :=
  raiseTraps s (slots.filterMap fun x => (s.thread? (tkey core x)).map fun t => illegalTrap (tkey core x) t code)

/-- The header a troupe has fetched; another word there is no header (R41). -/
def decodeHeader (b : List Byte) : Option Instr :=
  match decode b with
  | .ok (.clauseHeader l x y m, _) => some (.clauseHeader l x y m)
  | _ => none

/-- A troupe issues at a clause boundary: holds first (R357), then the fetch; members whose fetch traps
split off (R345), and the others execute the header. -/
def issueHeader (core : Nat) (slots : List Nat) (s : State) : Out :=
  let s := slots.foldl (fun s x => enterHold s (tkey core x)) s
  let r := (notHeld s core slots).foldl (fetchHeader core) ⟨[], [], s⟩
  if !r.traps.isEmpty then .next (raiseTraps r.state r.traps)
  else match r.words with
    | [] => .next r.state
    | (_, b) :: _ =>
      let members := (r.words.filter fun x => x.2 == b).map (·.1)
      let s := { r.state with cur := ⟨core, members⟩ }
      match decodeHeader b with
      | some i => exec i s
      | none => .next (illegalAll s core members b)

/-! Issue within a clause. -/

/-- A member that re-entered a body fetches the rest of its clause (R109). -/
def refetchMember (core : Nat) (acc : State × List Raised) (slot : Nat) : State × List Raised :=
  let k := tkey core slot
  let s := acc.1
  match s.thread? k with
  | none => acc
  | some t =>
    match s.wg? t.wg, t.clause with
    | some w, some c =>
      let r := fetchFor s k t w t.pc.toNat (c.stop - t.pc).toNat
      (match r.1 with
      | .code b => (r.2.setThread k { t with
          refetch := false
          clause := some { c with body := c.body.take (t.pc - c.header - 4).toNat ++ b } }, acc.2)
      | .trap x info va => (r.2, acc.2 ++ [⟨k, fetchTrap x info va, ⟨.body, some c, t.pc, t.pc⟩, t.pc⟩])
      | .busy => (if inSuperstep t then r.2 else holdThread r.2 k .busy, acc.2))
    | _, _ => acc

/-- A troupe issues an instruction of its clause (R42, R59). -/
def issueBody (core : Nat) (slots : List Nat) (c : Clause) (pc : DWord) (s : State) : Out :=
  match decodeBody c pc with
  | some i => exec i { s with cur := ⟨core, slots⟩ }
  | none => .next (illegalAll s core slots (c.from pc))

/-! Counting (R412). -/

/-- Uniform forms take one lane cycle a troupe (R347). -/
def onceOp (i : Instr) : Bool :=
  match i with
  | .uAdd _ _ _ _ | .uSub _ _ _ _ | .uMul _ _ _ _ | .uMulh _ _ _ _ | .uMulhn _ _ _ _ | .uAnd _ _ _ _
  | .uOr _ _ _ _ | .uXor _ _ _ _ | .uAndn _ _ _ _ | .uShl _ _ _ _ | .uShr _ _ _ _ | .uSar _ _ _ _
  | .uRot _ _ _ _ | .uMin _ _ _ _ | .uMax _ _ _ _ | .uMinn _ _ _ _ | .uMaxn _ _ _ _ | .uAbs _ _ _
  | .uNeg _ _ _ | .uClz _ _ _ | .uPopc _ _ _ | .uBrev _ _ _ | .usel _ _ _ _ | .uMov _ _ _ | .uLea _ _ _ _ => true
  | _ => false

/-- The physical lane at a working position of a row (R22, R412). -/
def physLane (c : Core) (row : Fin 4) (pos : Nat) : Nat :=
  9 * row.val + (if (c.rows[row.val]'row.isLt).spare = some pos then 8 else pos)

/-- Members that did not stay at their instruction, with their places in the troupe: they count as retired (R412). DESIGN
CHOICE (log 94): one whose instruction has trapped too. -/
def wentOn (s : State) (core : Nat) (slots : List Nat) : List (Nat × Nat) :=
  slots.zipIdx.filter fun x => match s.thread? (tkey core x.1) with
    | some t => t.wait.isNone
    | none => true

/-- Counts the members that did not stay at the instruction as thread-operations of their lanes, and the
troupe as an issue of its row (R412). once is a form that takes one lane cycle a troupe. -/
def countIssue (core : Nat) (slots : List Nat) (once : Bool) (s : State) : State :=
  let went := wentOn s core slots
  match went with
  | [] => s
  | (a, _) :: _ =>
    let row := rowOf a
    s.modCore core fun c =>
      let lanes := (if once then went.take 1 else went).map fun x => physLane c row (x.2 % 8)
      { c with counters := { c.counters with
        lanes := lanes.foldl (fun m l => bump m l 1) c.counters.lanes
        issues := bump c.counters.issues row.val 1
        members := bump c.counters.members row.val went.length } }

/-- Applies a state change to a next state. -/
def andThen (o : Out) (f : State → State) : Out :=
  match o with
  | .next s => .next (f s)
  | .fault x => .fault x
  | .refused x => .refused x

/-- Members of one troupe that stall where the others have gone on, and go on with it (R345; log 76). -/
def catchUp (core : Nat) (slots : List Nat) (s : State) : Bool :=
  let ts := slots.filterMap fun x => s.thread? (tkey core x)
  ts.all fun t => t.lags && t.troupe.isSome && t.troupe == (ts.head?.bind (·.troupe))

/-- The threads of these slots issue as one troupe (R345). -/
def formTroupe (core : Nat) (slots : List Nat) (s : State) : State :=
  if catchUp core slots s then s else
  let n := s.fresh
  let mark := fun (e : Nat × Thread) =>
    if coreOf e.1 = core ∧ slots.contains (e.1 % 2048) then (e.1, { e.2 with troupe := some n.1 }) else e
  { n.2 with threads := n.2.threads.map mark }

/-- What a row's issue leaves besides the instruction's effect: threads of the row that stood back for a YIELD are
ready again once another troupe has issued (R409), and the age rule's win is used up (R350). A troupe of which no
member went on has not issued. -/
def rowIssued (core : Nat) (slots : List Nat) (s : State) : State :=
  if (wentOn s core slots).isEmpty then s else
  let row := (slots.headD 0) % 4
  let wake := fun (e : Nat × Thread) =>
    if coreOf e.1 = core ∧ e.1 % 2048 % 4 = row ∧ ¬ slots.contains (e.1 % 2048) ∧ e.2.yielded.isSome then
      (e.1, { e.2 with yielded := none, ready := some (s.cycles core) })
    else e
  { s with threads := s.threads.map wake }.modCore core fun c => { c with ageWin := match mget c.ageWin row with
    | some x => if slots.contains x then mdel c.ageWin row else c.ageWin
    | none => c.ageWin }

/-- Does an instruction take one lane cycle for its troupe: a uniform form, or a BRA.U whose predicate agrees
(R60, R347, R354). -/
def takesOneLane (s : State) (i : Instr) : Bool :=
  match i with
  | .braU _ p => !predDiffers (legalMembers i s) p
  | _ => onceOp i

/-- Does a thread wait for what it has had read for it. -/
def awaitsReply (t : Thread) : Bool :=
  match t.wait with
  | some (r, _) => r == .busy
  | none => false

/-- Is a thread's next instruction a non-faulting load that orders nothing: one of a run of them (R471; log 81). -/
def inAbsentRun (t : Thread) : Bool :=
  match t.clause.bind fun c => decodeBody c t.pc with
  | some (.ldG .plain _ _ _ _ true _) => true
  | _ => false

/-- What threads have had read for an earlier instruction is of no use to the next, nor what an ended run of non-faulting
loads has found absent. -/
def dropReplies (core : Nat) (slots : List Nat) (s : State) : State :=
  slots.foldl (fun s x =>
    let s := s.modThread (tkey core x) fun t => if inAbsentRun t then t else { t with absents := [] }
    if ((s.thread? (tkey core x)).map awaitsReply).getD false then s else forget s (.thread (tkey core x))) s

/-- A troupe issues its next instruction (R344 to R347). A header takes no lane cycle (R41). -/
def issue (core : Nat) (slots : List Nat) (s : State) : Out :=
  match s.thread? (tkey core (slots.headD 0)) with
  | none => .fault .badTurn
  | some t =>
    let s := formTroupe core slots (dropReplies core slots s)
    match t.clause with
    | none => andThen (issueHeader core slots s) (rowIssued core slots)
    | some c =>
      if t.refetch then
        let r := slots.foldl (refetchMember core) (s, [])
        .next (raiseTraps r.1 r.2)
      else
        let once := match decodeBody c t.pc with
          | some i => takesOneLane { s with cur := ⟨core, slots⟩ } i
          | none => false
        andThen (issueBody core slots c t.pc s) fun s => rowIssued core slots (countIssue core slots once s)

/-! Which troupes may issue. -/

/-- Would a waiting thread still wait if it were issued (R349): a trap ends its wait too. -/
def wouldWait (s : State) (core slot : Nat) : Bool :=
  match issue core [slot] { s with gather := none } with
  | .next u => (match u.thread? (tkey core slot) with
    | some t => t.wait.isSome
    | none => false)
  | .fault _ | .refused _ => true

/-- Is a thread still blocked (R349): it waits for what blocks a thread, and would go on waiting. A thread that is
about to fetch its clause again after a resumption is not. -/
def stillBlocked (s : State) (core slot : Nat) (t : Thread) : Bool :=
  match t.wait with
  | some (r, _) => r.blocks && !t.refetch && wouldWait s core slot
  | none => false

/-- May a slot's thread be a member of a troupe: it is ready and not blocked, has not trapped in this cycle, and waits for
no member of its troupe (R344, R345, R405). -/
def eligible (s : State) (core slot : Nat) : Bool :=
  slotReady s core slot && (s.gather.getD []).all (fun r => r.key != tkey core slot) && (match s.thread? (tkey core slot) with
    | some t => !stillBlocked s core slot t && !waitsForMate s core t
    | none => false)

/-- Are two threads at one instruction members of one troupe (R345). -/
def sameTroupe (t u : Thread) : Bool := t.troupe.isSome && t.troupe == u.troupe && sameIssue t u

/-- Has every eligible thread of a troupe that is named in part been named (R345). -/
def wholeTroupes (s : State) (core : Nat) (slots : List Nat) : Bool :=
  s.threads.all fun e => coreOf e.1 != core || slots.contains (e.1 % 2048) || !eligible s core (e.1 % 2048)
    || slots.all fun x => match s.thread? (tkey core x) with
      | some t => !sameTroupe t e.2
      | none => true

/-- What a troupe may be, its first member being t: within a clause one troupe or a single thread (R345); at a clause
boundary any that the row merges (R346), once a lane's remap that waits for the boundary has taken effect (R22). -/
def formOk (s : State) (core : Nat) (t : Thread) (slots : List Nat) : Bool :=
  if t.clause.isSome then slots.length == 1 || slots.all fun x => match s.thread? (tkey core x) with
    | some u => sameTroupe t u
    | none => false
  else (((s.core core).rows[(rowOf (slots.headD 0)).val]'(rowOf (slots.headD 0)).isLt).pending).isNone

/-- Does the age rule let a troupe issue: the instruction that has won the row first, as long as it is ready, and no other
while one that has been ready for more than 4,096 cycles has yet to win (R350). -/
def ageOk (s : State) (core : Nat) (slots : List Nat) : Bool :=
  let row := slots.headD 0 % 4
  match mget (s.core core).ageWin row with
  | some x => slots.contains x || !eligible s core x || ((s.thread? (tkey core x)).bind (·.ready)).isNone
  | none => s.threads.all fun e => coreOf e.1 != core || e.1 % 4 != row || !aged s core e.2 || !eligible s core (e.1 % 2048)

/-- Is a list of slots a troupe that its row may issue now (R344 to R346, R350). -/
def troupeOk (s : State) (core : Nat) (slots : List Nat) : Bool :=
  match slots with
  | [] => false
  | a :: _ =>
    decide (slots.length ≤ 16) && rising slots
    && slots.all (fun x => decide (x < Config.threadSlots) && x % 4 == a % 4 && eligible s core x)
    && (match s.thread? (tkey core a) with
      | some t => formOk s core t slots && slots.all fun x => match s.thread? (tkey core x) with
        | some u => sameIssue t u
        | none => false
      | none => false)
    && wholeTroupes s core slots && ageOk s core slots

/-- Has the core not issued yet in this cycle (R405). -/
def coreFree (s : State) (core : Nat) : Bool := (s.core core).lastTurn != some (s.cycles core)

/-- The core issues in this cycle. -/
def takeCycle (s : State) (core : Nat) : State := s.modCore core fun c => { c with lastTurn := some (s.cycles core) }

/-- The troupes of one cycle of a core issue in the order in which they are named (R347). -/
def issueAll (core : Nat) : List (List Nat) → State → Out
  | [], s => .next s
  | x :: r, s => if !troupeOk s core x then .fault .badTurn else
    match issue core x s with
    | .next u => issueAll core r u
    | o => o

/-! The traps of a cycle (R405). A trap that comes outside an issue is taken when the core issues next, or when its cycle
ends. -/

/-- What is left to be taken. -/
def leaveTraps (l : List Raised) (s : State) : State := { s with gather := if l.isEmpty then none else some l }

/-- A core's traps of a cycle are taken in slot order; other cores' remain (R405). -/
def takeGathered (core : Nat) (s : State) : State :=
  let l := s.gather.getD []
  takeTraps (leaveTraps (l.filter fun r => coreOf r.key != core) s) (inSlotOrder (l.filter fun r => coreOf r.key == core))

/-- A core issues: the traps that have come in its cycle are taken with those that its troupes raise (R405). A lone
troupe's are in slot order as they are raised. -/
def issueTurn (core : Nat) (troupes : List (List Nat)) (s : State) : Out :=
  let s := takeCycle s core
  match troupes, s.gather with
  | [slots], none => issue core slots s
  | _, _ => andThen (issueAll core troupes { s with gather := some (s.gather.getD []) }) (takeGathered core)

/-- Another agent moves: the traps that it raises wait for their cores (R405). -/
def agentTurn (f : State → Out) (s : State) : Out :=
  andThen (f { s with gather := some (s.gather.getD []) }) fun u => leaveTraps (u.gather.getD []) u

/-- Is a trap raised in a cycle of its core that is over, since time was old; one that came after the core's issue belongs
to the next cycle (R405). -/
def trapDue (old s : State) (r : Raised) : Bool :=
  let core := coreOf r.key
  decide (old.cycles core + (old.core core).lastTurn.elim 0 (fun c => (c == old.cycles core).toNat) < s.cycles core)

/-- The traps of cycles that are over are taken (R405). -/
def pastTraps (old s : State) : State :=
  let l := s.gather.getD []
  if l.isEmpty then s
  else takeTraps (leaveTraps (l.filter fun r => !trapDue old s r) s) (inSlotOrder (l.filter (trapDue old s)))

/-! Between turns. -/

/-- A thread whose wait has ended has been ready since; one that would wait on is not ready (R350, R413). -/
def noteReady (s : State) : State :=
  let note := fun (e : Nat × Thread) =>
    if e.2.wait.isSome && slotReady s (coreOf e.1) (e.1 % 2048) then
      (e.1, { e.2 with ready := if wouldWait s (coreOf e.1) (e.1 % 2048) then none
                               else some (e.2.ready.getD (s.cycles (coreOf e.1))) }) else e
  { s with threads := s.threads.map note }

/-- Does a row's win still stand: the instruction is ready; one that waits after all has none (R350). -/
def winStands (s : State) (core slot : Nat) : Bool :=
  eligible s core slot && ((s.thread? (tkey core slot)).bind (·.ready)).isSome

/-- A win of an instruction that is no longer ready lapses, so that others may win the row (R350). -/
def lapseWins (s : State) : State :=
  { s with cores := s.cores.map fun c => (c.1, { c.2 with ageWin := c.2.ageWin.filter fun x => winStands s c.1 x.2 }) }

/-- The hold groups that there are: workgroup and address (R357). -/
def holdGroups (s : State) : List (Nat × DWord) :=
  (s.threads.filterMap fun x => if x.2.held.isSome then x.2.meet.map fun m => (x.2.wg, m) else none).eraseDups

/-- A hold group that no thread outside can join any more is released at once (R357). -/
def releaseMeets (s : State) : State :=
  (holdGroups s).foldl (fun s x => outState (execMeetHoldRelease x.1 x.2 s) s) s

/-- A hold group whose MHOLD has passed is released before anything else moves (R357). -/
def expireMeets (s : State) : State :=
  (holdGroups s).foldl (fun s x => outState (execMholdExpiry x.1 x.2 s) s) s

/-- Does a workgroup wait for its start (R391). -/
def startsWait (s : State) : Bool := s.wgs.any fun x => x.2.phase == .placed

/-- Workgroups whose time to start has come start, each after those that it waits for (R390, R391). -/
def dueStarts (s : State) : State :=
  let placed := (s.wgs.filter fun x => x.2.phase == .placed).map (·.1)
  placed.foldl (fun s _ => placed.foldl (fun s g => outState (execWorkgroupStart g s) s) s) s

/-- The jobs of a group whose threads have all stopped begin to drain (R270, R414). -/
def noteDrain (s : State) : State :=
  s.modLaunch fun u => { u with saving := u.saving.map fun x =>
    if x.2.2.isNone && groupStopped s x.1 x.2.1 then (x.1, x.2.1, some (s.cycles (groupCore s x.1 x.2.1))) else x }

/-- What a turn leaves. -/
def afterTurn (s : State) : State :=
  lapseWins (noteDrain (noteReady (releaseMeets (dueStarts (pumpHost (pumpRecords { s with late := false }))))))

/-- A pending access is performed by itself, if that is how it is performed (R152, R158, R160). -/
def performTurn (s : State) (id : Nat) : State :=
  match mget s.accs id with
  | some a => if performs s a && coreRuns s a.core then performAccess s id else s
  | none => s

/-- An uncorrectable error strikes a copy of a vault's remap table (R83). -/
def flawCopy (s : State) (vault copy : Nat) : State :=
  s.modVault vault fun v => { v with copies := v.copies.modify copy fun c => { c with good := false } }

/-- The cluster of a node of the mesh: a core, or a home. -/
def nodeCluster (n : Nat) : Nat := if n < 8192 then clusterOf n else n - 8192

/-- The clusters whose field's clock a step of another agent needs: those of the core or the home that takes it, and both
ends of a message, which a stitch crossing holds while either is stopped (R427). -/
def eventSeats (s : State) (i : Instr) : List Nat :=
  match i with
  | .countedOperationCompletion core _ _ | .copyEngineCycle core | .jobCompletion core _ | .barrierByteCount core _ _
  | .passCloseTimeout core | .tileFetchStaged core | .passStartTest core | .passCompletion core | .engineItemCompletion core
  | .engineClearComplete core | .pageRequestEngine core _ | .prqRecordWrite core _ | .laneRemap core _
  | .ageRuleWin core _ | .backoffExpiry core _ | .yieldWaitExpiry core _ | .watchdog core _ => [clusterOf core]
  | .meetHoldRelease wg _ | .mholdExpiry wg _ => ((s.wg? wg).map fun w => clusterOf w.core).toList
  | .contextSaveComplete group =>
    ((s.wg? group).map fun w => (groupWgs s w.coords.launch w.coords.group).filterMap fun g =>
      (s.wg? g).map fun x => clusterOf x.core).getD []
  | .l2Fill line | .vaultWritePerformed line => [vaultOf line]
  | .heldRequestRelease vault | .remapStepCompletion vault | .hwPageRetirement vault | .patrolScrub vault _ _
  | .vaultTempSample vault _ => [vault]
  | .supplyArrival id | .ownerNotice id | .writebackArrival id =>
    (match mget s.mesh id with
    | some m => [nodeCluster m.ends.1, nodeCluster m.ends.2]
    | none => [])
  | _ => []

/-- Do the clocks run that an event needs (R427). -/
def eventRuns (s : State) (i : Instr) : Bool := (eventSeats s i).all s.clusterRuns

/-! Time (R331 to R334). -/

/-- Does a pass wait to start. -/
def testsWait (s : State) : Bool :=
  s.cores.any fun y => y.2.engine.queue.any fun x => x.kind == .pass && x.staged && x.started.isNone

/-- A pass is tested in the cycle in which it is ready and every 8 cycles from then on: where a core's cycle ends with the
next tick, the tests that are due in its region up to it take place, in the order of the cores (R334). -/
def dueTests (s : State) : State :=
  let ends := fun (core : Nat) => { s with now := s.now + 1 }.cycles core != s.cycles core
  let last := s.cores.filter fun y => ends y.1 && (headPass (s.cycles y.1) y.2.engine.queue).any (passDue s y.1)
  s.cores.foldl (fun s y =>
    if last.any fun z => decide (y.1 ≤ z.1) && regionOfCore y.1 == regionOfCore z.1 then outState (execPassStartTest y.1 s) s
    else s) s

/-- So many ticks pass, with what is bound to its time: passes that start and workgroups that start (log 60). -/
def passTime : Nat → State → State
  | 0, s => s
  | n + 1, s =>
    if testsWait s || startsWait s then passTime n (dueStarts (boundaries { dueTests s with now := s.now + 1 }))
    else boundaries { s with now := s.now + n + 1 }

/-- The state in which a turn's act takes place: its time has passed (log 1), and the hold groups that end with it are
released, at the first of the two events of R357. -/
def turnStart (dt : Nat) (late : Bool) (s : State) : State :=
  { expireMeets (releaseMeets (pastTraps s (passTime dt s))) with late := late }

/-- A turn: time passes, then the one named moves (log 1). -/
def runTurn (t : Turn) (s : State) : Out :=
  let s := turnStart t.dt t.late s
  andThen (match t.act with
    | .issue core slots => if coreFree s core && troupeOk s core slots then issueTurn core [slots] s else .fault .badTurn
    | .cycle core troupes => if coreFree s core && decide troupes.flatten.Nodup then issueTurn core troupes s else .fault .badTurn
    | .kill launch => .next (killLaunch s launch)
    | .perform id => agentTurn (fun s => .next (performTurn s id)) s
    | .flaw entry => .next (s.modEntry entry fun e => { e with bad := true })
    | .flawCopy vault copy => .next (flawCopy s vault copy)
    | .corrected port n => .next (s.modPort port fun x => { x with fecc := satAdd x.fecc n 0xFFFFFFFF })
    | .deliver => .next (if s.link.linkUp.isEmpty then s else s.modLink fun l => { l with msgs := l.msgs.drop 1 })
    | .answered n => .next (s.modLink fun l => { l with answers := l.answers.eraseIdx n })
    | .event i => if i.encoded then .fault .badTurn else if eventRuns s i then agentTurn (exec i) s else .next s) afterTurn

/-! A state that is about to execute given code (withFetchWord). -/

/-- Where the code lies, virtual and physical alike. -/
def probeAddr : Nat := 0x10000

/-- The thread that is about to execute code: at a boundary for a header word, otherwise in a clause of 31
units that begins with the code and goes on with NOP16. -/
def probeThread (code : List Byte) : Thread :=
  let t := Thread.start 1 0 0 (BitVec.ofNat 64 probeAddr) 0 0
  if bitsNat (bytesNat code) 0 7 = 1 then t
  else { t with
    pc := BitVec.ofNat 64 (probeAddr + 4)
    clause := some ⟨BitVec.ofNat 64 probeAddr, BitVec.ofNat 64 (probeAddr + 128), 0, 1,
      code ++ List.replicate (124 - code.length) 0⟩ }

/-- A workgroup of one thread in supervisor context with 64 registers. -/
def probeWg : Workgroup :=
  { Workgroup.start ⟨0, 0, 0, 0, 0, 0, 0, 0⟩ ⟨1, 1, 1, 1, 1, 1, 1, 64, 2048, 4096, 4096, 1, 0⟩
      ⟨0, 0, 0, 0, 0, 2 ^ 32, 0, 0, 0x7FFE, true, false, 0⟩ 0xFF 0 [0] [] 0 with phase := .running }

/-- s with code as the instruction that the next step executes, in thread slot 0 of core 0 (log 3). -/
def placeCode (s : State) (code : List Byte) : State :=
  let s := (s.setThread 0 (probeThread code)).setWg 1 probeWg
  let s := s.modCore 0 fun c => { c with
    tlb := [⟨0, probeAddr / 2 ^ 14, 0, probeAddr / 2 ^ 14, true, true, false, true⟩]
    lastTurn := none, ageWin := [(0, 0)] }
  let s := s.modVault 0 fun v => { v with cap := 512 }
  let s := s.modField 0 fun f => { f with running := true }
  let s := s.modBoot fun b => { b with frames := [probeAddr / 2 ^ 14] }
  { s with vmem := writeBytes s.vmem probeAddr code, agenda := [{ dt := 0, act := .issue 0 [0] }] }

end Sys2Proof.Machine
end

