-- ==== Sys2Proof/Machine/Sched.lean ====
section
/-! DEFINITION. The turn taken when the agenda is empty: which threads may issue, and which steps of other agents
may have work (log 2). What only the environment decides (a temperature, an alarm, a failure, a beacon's
measured offset, the host) comes from the agenda alone. -/

namespace Sys2Proof.Machine

/-- The troupe of a thread: it and the eligible threads that belong with it (R345). -/
def troupeOf (s : State) (k : Nat) (t : Thread) : List Nat :=
  (s.threads.filter fun e => e.1 == k || (coreOf e.1 == coreOf k && sameTroupe t e.2
    && eligible s (coreOf k) (e.1 % 2048))).map fun e => e.1 % 2048

/-- The troupes that may issue, with their cores. -/
def readyTroupes (s : State) : List (Nat × List Nat) :=
  ((s.threads.map fun e => (coreOf e.1, troupeOf s e.1 e.2)).filter fun x =>
    coreFree s x.1 && troupeOk s x.1 x.2).eraseDups

/-- What a step does to the state. -/
abbrev Move := State → Out

/-- The step that applies a record; one of a reserved kind is never queued. -/
def recordMove (k : Nat) (x : RecKind) : Move :=
  match x with
  | .gets => execGets k
  | .getm => execGetm k
  | .upg => execUpg k
  | .putm => execPutm k
  | .puts => execPuts k
  | .bypr => execBypr k
  | .bypw => execBypw k
  | .inv => execInv k
  | .tlbi => execTlbiRecord
  | .sweep => execSweepRecord
  | .window => execWindowData k
  | .bad => execCarouselSlot

/-- Steps of the carousels and the mesh. -/
def carouselMoves (s : State) : List Move :=
  ((List.range 8).filterMap fun k => match nextFrame s k with
    | some f => if visible s f then some (recordMove k f.cmd.kind) else none
    | none => none)
  ++ (s.mesh.filter fun x => s.clusterRuns (nodeCluster x.2.ends.1) && s.clusterRuns (nodeCluster x.2.ends.2)).map fun x => match x.2 with
    | .supply _ _ _ _ _ _ _ | .toHome _ _ _ _ => execSupplyArrival x.1
    | .notice _ _ _ => execOwnerNotice x.1
    | .writeback _ _ _ => execWritebackArrival x.1

/-- Steps of the home slices, the vaults and the sweeps. -/
def homeMoves (s : State) : List Move :=
  (s.tags.filterMap fun x => if !s.clusterRuns (vaultOf x.1) then none else if x.2.awaits = some .fill then some (execL2Fill x.1)
    else if x.2.writing then some (execVaultWritePerformed x.1) else none)
  ++ (s.vaults.filter fun x => s.clusterRuns x.1).flatMap (fun x =>
    (if x.2.heldNow.isEmpty then [] else [execHeldRequestRelease x.1])
    ++ (if x.2.busy then [execRemapStepCompletion x.1] else [])
    ++ (if x.2.pend != 0 && !x.2.busy then [execHwPageRetirement x.1] else []))
  ++ (s.services.filterMap fun x => if x.2.kind = .sweep ∧ x.2.handle.isSome then some (execSweepCompletion x.1) else none)
  ++ (if s.page.xinvSweep.isSome then [execXinvDone] else [])
  ++ (s.accs.filter fun x => performs s x.2 && coreRuns s x.2.core).map fun x s => .next (performAccess s x.1)

/-- Steps of a core's copy engine, matrix engine, page-request table and lanes. -/
def coreMoves (s : State) (core : Nat) (c : Core) : List Move :=
  c.pageReqs.flatMap (fun x => if x.2.reqId.isSome then []
    else [execPageRequestEngine core x.1, execPrqRecordWrite core x.1])
  ++ (if c.jobs.any fun x => jobReady s core x.1 x.2 || x.2.lineEnds then [execCopyEngineCycle core] else [])
  ++ c.jobs.flatMap (fun x =>
    (if x.2.counts && decide (0 < countable s core x.1 x.2) then [execBarrierByteCount core x.1 (countable s core x.1 x.2)] else [])
    ++ (if x.2.fault.isSome || x.2.cancel || (x.2.work.moves && x.2.done == x.2.pieces) then [execJobCompletion core x.1] else []))
  ++ (if c.engine.queue.isEmpty then [] else
    [execPassCloseTimeout core, execTileFetchStaged core, execPassStartTest core, execPassCompletion core, execEngineItemCompletion core])
  ++ (if c.engine.releasing then [execEngineClearComplete core] else [])
  ++ ((List.range 4).filterMap fun r => ((c.rows[r]?).bind (·.pending)).map fun _ => execLaneRemap core r)

/-- Steps that concern a thread. -/
def threadMoves (s : State) (k : Nat) (t : Thread) : List Move :=
  (t.inflight.zipIdx.filterMap fun x =>
    if x.1.result.isSome || x.1.trap.isSome then some (execCountedOperationCompletion (coreOf k) (k % 2048) x.2) else none)
  ++ (if t.backoff.isSome then [execBackoffExpiry (coreOf k) (k % 2048)] else [])
  ++ (if t.yielded.isSome then [execYieldWaitExpiry (coreOf k) (k % 2048)] else [])
  ++ (if t.wait.isSome then [execWatchdog (coreOf k) (k % 2048)]
      else []) ++ (if aged s (coreOf k) t then [execAgeRuleWin (coreOf k) (k % 2048)] else [])
  ++ (match t.held, t.meet with
    | some _, some m => [execMeetHoldRelease t.wg m, execMholdExpiry t.wg m]
    | _, _ => [])

/-- Steps of the launch unit, and of saves and resumptions. -/
def launchMoves (s : State) : List Move :=
  ((nextQueue s).toList.map fun q => execLaunchRecordTake q)
  ++ (s.launch.launches.filterMap fun x => if (readyGroups s x.1 x.2).isEmpty then none else some (execWorkgroupPlacement x.1))
  ++ (s.launch.launches.filterMap fun x => if launchOver s x.1 x.2 then some (execLaunchEnd x.1) else none)
  ++ s.wgs.flatMap fun x =>
    (match x.2.phase with
    | .placed => [execWorkgroupStart x.1]
    | .running => if phasesReached s x.1 x.2 != x.2.phasePub then [execPhaseExchange x.1] else []
    | .saving => [execJobDrainTimeout x.1, execContextSaveComplete x.1]
    | .saved => [execGroupResume x.1]
    | .ended | .gone => [])
    ++ (if wgDone s x.1 x.2 then [execWorkgroupExit x.1] else [])

/-- Steps at fixed times, of the fields, of the fabric and of the units that finish a task. -/
def moduleMoves (s : State) : List Move :=
  (if (s.steps + 1) * 200 ≤ s.timeNs then [execCurrentLimitStep] else [])
  ++ (if (s.refills + 1) * 100 ≤ s.timeNs then [execHeatRefill] else [])
  ++ (s.regions.filterMap fun x => if x.2.until_.isSome then some (execDroopExpiry x.1) else none)
  ++ s.time.fields.flatMap (fun x =>
    (if decide (x.2.mark + 9 ≤ s.time.slot) && !serving s then [execBeaconLoss x.1] else [])
    ++ (if x.2.lost then [execBid x.1, execClaim x.1] else [])
    ++ (if x.2.st = .claim then [execMasterTakeover x.1] else [])
    ++ (if s.time.fresh then [execNewMasterBeacon x.1] else []))
  ++ (if s.time.claims.isEmpty then [] else [execClaimRecord])
  ++ (s.time.replayAt.map fun x => execCarouselReplay x.1)
  ++ ((s.rxEarly.filter (rxDue s)).map execRemoteRequest)
  ++ (s.accs.filterMap fun x => if x.2.remote && decide (x.2.sent + max 1 s.link.fabTmo * micro ≤ s.now)
      then some (execRemoteTimeout x.1) else none)
  ++ (if s.boot.loadBusy.isSome then [execLoaderComplete] else [])
  ++ (if s.boot.quoteBusy then [execQuoteComplete] else [])
  ++ (if s.life.busy then [execLifetimeRecordComplete true] else [])

/-- Steps of other agents that may have work. -/
def agentMoves (s : State) : List Move :=
  carouselMoves s ++ homeMoves s ++ (s.cores.filter fun x => coreRuns s x.1).flatMap (fun x => coreMoves s x.1 x.2)
    ++ (s.threads.filter fun x => coreRuns s (coreOf x.1)).flatMap (fun x => threadMoves s x.1 x.2) ++ launchMoves s ++ moduleMoves s

/-- Has the next slot of the carousels come. -/
def slotDue (s : State) : Bool := decide ((s.time.slot + 1) * Config.slotTime ≤ s.now + Config.cycle + s.time.shift)

/-- All that the default takes in rotation. -/
def defaultMoves (s : State) : List Move :=
  (readyTroupes s).map (fun x => issueTurn x.1 [x.2]) ++ (agentMoves s).map agentTurn

/-- What the default takes now: the carousels' slot when it has come and no record is still to be applied, else the
candidates in rotation by the core cycle, else the carousels (log 2). -/
def defaultMove (s : State) : Move :=
  if slotDue s && !s.frames.any (visible s) then execCarouselSlot
  else (defaultMoves s).getD ((s.now / Config.cycle) % ((defaultMoves s).length + 1)) execCarouselSlot

/-- The turn taken when the agenda is empty, a core cycle later (log 2). -/
def defaultStep (s : State) : Out :=
  let s := turnStart Config.cycle false s
  andThen (defaultMove s s) afterTurn

end Sys2Proof.Machine
end

