-- ==== Sys2Proof/Machine/Step.lean ====
section
/-! DEFINITION. One step of the machine, and the state that is about to execute a given word. -/

namespace Sys2Proof.Machine

/-- One step: the first turn of the agenda, or the default turn when it is empty (logs 1, 2). -/
def step (s : State) : Host.Outcome State Fault Refusal :=
  match s.agenda with
  | t :: r => runTurn t { s with agenda := r }
  | [] => defaultStep s

/-- s with the instruction whose bits are w as the one that the next step executes (log 3). -/
def State.withFetchWord (s : State) (nbits w : Nat) : State :=
  placeCode s (bytesOfNat (w % 2 ^ nbits) (Nat.max 4 (nbits / 8)))

end Sys2Proof.Machine
end

