-- ==== Sys2Proof/Safety.lean ====
section
/-! DEFINITION. The terms that statements are made in: a thread that issues alone, what it must not have
outstanding, what an instruction leaves as it was, and the canonical form of the machine's memories. -/

namespace Sys2Proof.Machine

/-! A thread at an instruction. -/

/-- The troupe is the one thread t of workgroup w in a slot of a core; instruction i passes the checks that R59
makes at issue, and the flag it counts on has room (R45). -/
structure Lone (s : State) (core slot : Nat) (t : Thread) (w : Workgroup) (i : Instr) : Prop where
  low   : slot < 2048
  cur   : s.cur = ⟨core, [slot]⟩
  here  : s.thread? (tkey core slot) = some t
  group : s.wg? t.wg = some w
  legal : issueOk t w i = true
  room  : flagFull t i = false
  /-- the core issues one troupe in the cycle, so a trap is taken at once (R405) -/
  alone : s.gather = none

/-- The lane position that a lone thread's instruction passes through (R347). -/
def laneOf (slot : Nat) : Nat := slot % 4 * 8

/-- The thread has completed instruction i from state s and goes on after it. -/
def goneOn (s : State) (core slot : Nat) (i : Instr) : State := advance s (tkey core slot) (instrLen i)

/-- Nothing of the thread is outstanding that an ordered access, a fence, a job or a matrix operation would wait
for (R160, R166, R168, R232), and no trap of it is deferred. -/
structure Settled (s : State) (k : Nat) (t : Thread) : Prop where
  fence    : t.fence = none
  accs     : ownAccs s k = []
  jobs     : jobsBusy s k t = false
  matrix   : matrixBusy s k = false
  acks     : (s.core (coreOf k)).acks = 0
  deferred : t.deferred = []
  /-- no thread that an ordering of another holds back (R163) -/
  free     : guardedOff s k t = false
  /-- the accesses of the turn are performed in it, where no record is needed (log 6) -/
  prompt   : s.late = false

/-- After a translation the thread has still nothing outstanding, and the turn is still that of one troupe whose accesses
are performed in it. -/
structure Undisturbed (r : State) (k : Nat) : Prop where
  accs   : ownAccs r k = []
  prompt : r.late = false
  alone  : r.gather = none

/-- A lone thread whose predicate holds completes instruction i: its registers become those of u, and it goes on. -/
def Gives (s : State) (core slot : Nat) (t : Thread) (w : Workgroup) (i : Instr) (p : PReg) (u : Thread) : Prop :=
  Lone s core slot t w i → t.rdP p = true →
    exec i s = .next (goneOn (s.setThread (tkey core slot) u) core slot i)

/-- As Gives, u being t with one general register written (R39). -/
def GivesG (s : State) (core slot : Nat) (t : Thread) (w : Workgroup) (i : Instr) (p : PReg) (d : Reg) (v : Word) :
    Prop := Gives s core slot t w i p (t.wrG d v)

/-- As Gives, u being t with one predicate register written (R39). -/
def GivesP (s : State) (core slot : Nat) (t : Thread) (w : Workgroup) (i : Instr) (p d : PReg) (v : Bool) : Prop :=
  Gives s core slot t w i p (t.wrP d v)

/-- As Gives, for an operation counted on setA whose result is known at issue: the flag counts it, and it is in
flight with its result (R45, R48). -/
def GivesCounted (s : State) (core slot : Nat) (t : Thread) (w : Workgroup) (i : Instr) (p : PReg)
    (ws : List RegWrite) : Prop := Gives s core slot t w i p (t.countResult ws)

/-- A lone thread whose predicate holds takes a trap at instruction i (R404). -/
def Traps (s : State) (core slot : Nat) (t : Thread) (w : Workgroup) (i : Instr) (p : PReg) (ti : TrapInfo) : Prop :=
  Lone s core slot t w i → t.rdP p = true →
    exec i s = .next (takeTrap s (tkey core slot) ti (resumeOf t i) (resumeOf t i).retryPc)

/-- A lone thread whose predicate holds completes instruction i, and leaves the state u to go on from. -/
def Leaves (s : State) (core slot : Nat) (t : Thread) (w : Workgroup) (i : Instr) (p : PReg) (u : State) : Prop :=
  Lone s core slot t w i → t.rdP p = true → exec i s = .next (goneOn u core slot i)

/-- A lone thread whose predicate holds completes instruction i: it goes on from a state of which q holds. -/
def Completes (s : State) (core slot : Nat) (t : Thread) (w : Workgroup) (i : Instr) (p : PReg) (q : State → Prop) :
    Prop := Lone s core slot t w i → t.rdP p = true → ∃ u, exec i s = .next (goneOn u core slot i) ∧ q u

/-- A uniform instruction of two sources in a lone thread: it writes f of values that the thread may read in a
and b (R60, R296). n counts the free choices made among such values (log 10). -/
def GivesS2 (s : State) (core slot : Nat) (t : Thread) (w : Workgroup) (i : Instr) (p : PReg) (a b d : Reg)
    (f : Word → Word → Word) : Prop :=
  ∃ x ∈ sregViews w [t.lin] a, ∃ y ∈ sregViews w [t.lin] b, ∃ n,
    Leaves s core slot t w i p (wrS { s with free := n } t.wg [t.lin] d (f x y))

/-- As GivesS2, with one source. -/
def GivesS1 (s : State) (core slot : Nat) (t : Thread) (w : Workgroup) (i : Instr) (p : PReg) (a d : Reg)
    (f : Word → Word) : Prop :=
  ∃ x ∈ sregViews w [t.lin] a, ∃ n, Leaves s core slot t w i p (wrS { s with free := n } t.wg [t.lin] d (f x))

/-- As Leaves, for a thread with nothing outstanding. -/
def LeavesSettled (s : State) (core slot : Nat) (t : Thread) (w : Workgroup) (i : Instr) (p : PReg) (u : State) :
    Prop := Settled s (tkey core slot) t → Leaves s core slot t w i p u

/-- The thread holds no fence, none of its accesses is pending, and no ordering of another holds it back (R163, R168,
R232). -/
structure Quiet (s : State) (k : Nat) (t : Thread) : Prop where
  fence : t.fence = none
  accs  : ownAccs s k = []
  free  : guardedOff s k t = false

/-- An event of the machine: where it is due it happens and leaves a state of which q holds; where it is not,
nothing happens. -/
def Happens (s : State) (i : Instr) (due : Prop) (q : State → Prop) : Prop :=
  (due → ∃ u, exec i s = .next u ∧ q u) ∧ (¬ due → exec i s = .next s)

/-! What an instruction leaves as it was. -/

/-- Every general register but those listed, and every predicate, mask and handle register but those listed, reads
as before. -/
def KeepsRegs (t u : Thread) (gs : List Reg) (ps ms : List PReg) (hs : List HReg) : Prop :=
  (∀ r, r ∉ gs → u.rdG r = t.rdG r) ∧ (∀ r, r ∉ ps → u.rdP r = t.rdP r)
    ∧ (∀ r, r ∉ ms → u.rdM r = t.rdM r) ∧ (∀ r, r ∉ hs → u.rdH r = t.rdH r)

/-- The rest of a thread that a lane operation leaves alone: its place in the workgroup, its trap state and saved
registers, its meeting register and superstep count, and what it waits for. -/
def KeepsRest (t u : Thread) : Prop :=
  u.wg = t.wg ∧ u.lin = t.lin ∧ u.ta = t.ta ∧ u.resume = t.resume ∧ u.trapCause = t.trapCause
    ∧ u.trapAddr = t.trapAddr ∧ u.trapTid = t.trapTid ∧ u.meet = t.meet ∧ u.held = t.held ∧ u.sstep = t.sstep
    ∧ u.deferred = t.deferred ∧ u.fence = t.fence ∧ u.rdv = t.rdv ∧ u.run = t.run ∧ u.refetch = t.refetch

/-- Every byte of vault memory, of wafer scratchpad, and of every workgroup's scratchpad and private slices reads
as before. -/
def KeepsMemory (s u : State) : Prop :=
  (∀ a, memRead u.vmem a = memRead s.vmem a) ∧ (∀ a, memRead u.wmem a = memRead s.wmem a)
    ∧ ∀ g w, s.wg? g = some w → ∃ x, u.wg? g = some x ∧ x.scratch = w.scratch ∧ x.slices = w.slices

/-- Every unit outside the threads and workgroups is as before: the cores with their caches, engines and job
tables, the accesses, the L2, the carousels, the vaults, the page, launch, time, link, boot and lifetime units. -/
def KeepsUnits (s u : State) : Prop :=
  u.cores = s.cores ∧ u.accs = s.accs ∧ u.tags = s.tags ∧ u.entries = s.entries ∧ u.queues = s.queues
    ∧ u.frames = s.frames ∧ u.mesh = s.mesh ∧ u.services = s.services ∧ u.vaults = s.vaults
    ∧ u.columns = s.columns ∧ u.regions = s.regions ∧ u.chunks = s.chunks ∧ u.page = s.page
    ∧ u.launch = s.launch ∧ u.life = s.life ∧ u.boot = s.boot ∧ u.time = s.time ∧ u.link = s.link
    ∧ u.now = s.now ∧ u.replies = s.replies ∧ u.outbox = s.outbox ∧ u.hostReqs = s.hostReqs

/-- Every other thread is as before. -/
def KeepsOthers (s u : State) (k : Nat) : Prop := ∀ j, j ≠ k → u.thread? j = s.thread? j

/-! Jobs. -/

/-- The thread has in h the token of job number n: KIND and the workgroup's new generation (R242). -/
def HasToken (s u : State) (k : Nat) (t : Thread) (w : Workgroup) (h : HReg) (n kind : Nat) (st : JobStatus) : Prop :=
  u.thread? k = some (t.wrH h (BitVec.ofNat 32 (n * 2 ^ 26 + nextGen w.genCtr * 2 ^ 2 + kind)))
    ∧ KeepsOthers s u k
    ∧ ∃ x y, u.wg? t.wg = some x ∧ x.genCtr = nextGen w.genCtr ∧ mget x.jobNums n = some y
      ∧ y.gen = nextGen w.genCtr ∧ y.status = st

/-- A job with this work stands in entry e of the core's table behind a token of number n, and nothing of it is
done (R241, R242, R258). -/
def JobIssued (s u : State) (core slot : Nat) (t : Thread) (w : Workgroup) (h : HReg) (work : JobWork)
    (sync : JobSync) (n e : Nat) : Prop :=
  HasToken s u (tkey core slot) t w h n work.kind .pending
    ∧ ∃ j, mget (u.core core).jobs e = some j ∧ j.work = work ∧ j.wg = t.wg ∧ j.num = n ∧ j.lin = t.lin
      ∧ j.sync = sync ∧ j.done = 0 ∧ j.asid = w.asid ∧ j.super = supervisor t w

/-! Register-only instructions. -/

/-- What a register-only instruction may write: general, predicate and mask registers, the generator where it draws,
and, where its result is counted on setA, the flag in place of the registers. -/
structure Dest where
  g       : List Reg := []
  p       : List PReg := []
  m       : List PReg := []
  counted : Bool := false
  draws   : Bool := false

/-- The destinations of the register-only instructions (R278 to R312); none for any other instruction. -/
def destOf (i : Instr) : Option Dest :=
  match i with
  | .nop16 | .nop _ => some {}
  | .mov16 _ _ d | .add16 _ _ d | .sub16 _ _ d | .mul16 _ _ d | .and16 _ _ d | .or16 _ _ d | .xor16 _ _ d
  | .shl16 _ _ d | .shr16 _ _ d | .sar16 _ _ d | .min16 _ _ d | .max16 _ _ d | .fadd16 _ _ d | .fmul16 _ _ d
  | .fmax16 _ _ d | .fmin16 _ _ d => some { g := [d.setWidth 6] }
  | .add _ _ d _ | .sub _ _ d _ | .mul _ _ d _ | .mulh _ _ d _ | .mulhn _ _ d _ | .and _ _ d _ | .or _ _ d _
  | .xor _ _ d _ | .andn _ _ d _ | .shl _ _ d _ | .shr _ _ d _ | .sar _ _ d _ | .rot _ _ d _ | .min _ _ d _
  | .max _ _ d _ | .minn _ _ d _ | .maxn _ _ d _ | .abs _ d _ | .neg _ d _ | .clz _ d _ | .popc _ d _
  | .brev _ d _ | .sel _ _ d _ | .mov _ d _ | .mad _ _ d _ | .bfe _ _ d _ | .bfi _ _ d _ | .addi _ _ d _
  | .andi _ _ d _ | .ori _ _ d _ | .xori _ _ d _ | .shli _ _ d _ | .shri _ _ d _ | .sari _ _ d _ | .movi _ d _
  | .p2g d _ | .mpop _ d _ | .fadd _ _ d _ | .fsub _ _ d _ | .fmul _ _ d _ | .fmin _ _ d _ | .fmax _ _ d _
  | .fabs _ d _ | .fneg _ d _ | .ffma _ _ d _ | .fflr _ d _ | .fceil _ d _ | .frnd _ d _ | .ftrc _ d _
  | .hadd2 _ _ d _ | .hmul2 _ _ d _ | .hfma2 _ _ d _ | .hmax2 _ _ d _ | .hmin2 _ _ d _ | .badd2 _ _ d _
  | .bmul2 _ _ d _ | .bfma2 _ _ d _ | .qmax _ _ d _ | .qscl _ _ d _ | .qpack _ _ d _ | .idp4 _ _ d _ => some { g := [d] }
  | .lea _ _ d _ => some { g := [d, d + 1] }
  | .qunpk _ _ d _ => some { g := [d, d + 1, d + 2, d + 3, d + 4, d + 5, d + 6, d + 7] }
  | .randSeed _ d _ | .randDraw d _ | .cvt _ _ _ _ _ d _ => some { g := [d], draws := true }
  | .cmp _ _ d _ _ | .cmpn _ _ d _ _ | .fcmp _ _ d _ _ | .pand _ _ d _ | .por _ _ d _ | .pxor _ _ d _
  | .pnot _ d _ | .pmov _ d _ | .mtst _ _ d _ => some { p := [d] }
  | .cmpi _ _ _ t _ => some { p := [t] }
  | .g2p _ _ _ => some { p := [0, 1, 2, 3, 4, 5, 6] }
  | .mand _ _ d _ | .mor _ _ d _ => some { m := [d] }
  | .div _ _ _ _ | .rem _ _ _ _ | .divn _ _ _ _ | .remn _ _ _ _ | .fdiv _ _ _ _ | .fsqrt _ _ _ | .frcp _ _ _
  | .frsq _ _ _ | .fexp2 _ _ _ | .flog2 _ _ _ | .fsin _ _ _ | .fcos _ _ _ | .ftanh _ _ _ => some { counted := true }
  | _ => none

/-! Predicates. -/

/-- The predicate that guards an instruction (R35); p7 where it has none or executes always. -/
def predOf (i : Instr) : PReg :=
  match i with
  | .nop p | .yield p | .exit p | .trap _ p | .tretRetry p | .tretSkip p | .tretJmp _ p | .halt p | .snapc _ _ p
  | .sread _ _ p | .crrd _ _ p | .crwr _ _ p | .sweep _ _ p | .tlbi _ _ p | .pgreq _ _ p | .pgqry _ _ p
  | .cctlL1evict _ _ p | .cctlL2clean _ _ p | .cctlL2evict _ _ p | .cctlL1flush _ p | .add _ _ _ p
  | .sub _ _ _ p | .mul _ _ _ p | .mulh _ _ _ p | .mulhn _ _ _ p | .and _ _ _ p | .or _ _ _ p | .xor _ _ _ p
  | .andn _ _ _ p | .shl _ _ _ p | .shr _ _ _ p | .sar _ _ _ p | .rot _ _ _ p | .min _ _ _ p | .max _ _ _ p
  | .minn _ _ _ p | .maxn _ _ _ p | .abs _ _ p | .neg _ _ p | .clz _ _ p | .popc _ _ p | .brev _ _ p
  | .div _ _ _ p | .rem _ _ _ p | .divn _ _ _ p | .remn _ _ _ p | .mov _ _ p | .lea _ _ _ p | .mad _ _ _ p
  | .bfe _ _ _ p | .bfi _ _ _ p | .cmp _ _ _ _ p | .cmpn _ _ _ _ p | .fcmp _ _ _ _ p | .addi _ _ _ p
  | .andi _ _ _ p | .ori _ _ _ p | .xori _ _ _ p | .shli _ _ _ p | .shri _ _ _ p | .sari _ _ _ p | .movi _ _ p
  | .cmpi _ _ _ _ p | .pand _ _ _ p | .por _ _ _ p | .pxor _ _ _ p | .pnot _ _ p | .pmov _ _ p | .p2g _ p
  | .g2p _ _ p | .mand _ _ _ p | .mor _ _ _ p | .mpop _ _ p | .mtst _ _ _ p | .uAdd _ _ _ p | .uSub _ _ _ p
  | .uMul _ _ _ p | .uMulh _ _ _ p | .uMulhn _ _ _ p | .uAnd _ _ _ p | .uOr _ _ _ p | .uXor _ _ _ p
  | .uAndn _ _ _ p | .uShl _ _ _ p | .uShr _ _ _ p | .uSar _ _ _ p | .uRot _ _ _ p | .uMin _ _ _ p
  | .uMax _ _ _ p | .uMinn _ _ _ p | .uMaxn _ _ _ p | .uAbs _ _ p | .uNeg _ _ p | .uClz _ _ p | .uPopc _ _ p
  | .uBrev _ _ p | .uMov _ _ p | .uLea _ _ _ p | .s2g _ _ p | .g2s _ _ p | .fadd _ _ _ p | .fsub _ _ _ p
  | .fmul _ _ _ p | .fmin _ _ _ p | .fmax _ _ _ p | .fabs _ _ p | .fneg _ _ p | .fdiv _ _ _ p | .fsqrt _ _ p
  | .frcp _ _ p | .frsq _ _ p | .fexp2 _ _ p | .flog2 _ _ p | .fsin _ _ p | .fcos _ _ p | .ftanh _ _ p
  | .ffma _ _ _ p | .fflr _ _ p | .fceil _ _ p | .frnd _ _ p | .ftrc _ _ p | .randSeed _ _ p | .randDraw _ p
  | .cvt _ _ _ _ _ _ p | .hadd2 _ _ _ p | .hmul2 _ _ _ p | .hfma2 _ _ _ p | .hmax2 _ _ _ p | .hmin2 _ _ _ p
  | .badd2 _ _ _ p | .bmul2 _ _ _ p | .bfma2 _ _ _ p | .qmax _ _ _ p | .qscl _ _ _ p | .qpack _ _ _ p
  | .qunpk _ _ _ p | .idp4 _ _ _ p | .bra _ p | .braU _ p | .call _ _ p | .jmpr _ p | .callr _ _ p | .ret _ p
  | .meet _ p | .meetClr p | .ldP _ _ _ _ p | .ldS _ _ _ _ p | .ldC _ _ _ _ p | .ldW _ _ _ _ p
  | .ldG _ _ _ _ _ _ p | .stP _ _ _ _ p | .stS _ _ _ _ p | .stC _ _ _ _ p | .stW _ _ _ _ p | .stG _ _ _ _ _ p
  | .ldb _ _ _ _ p | .atom _ _ _ _ _ p | .red _ _ _ _ _ p | .fence _ _ p | .pref _ _ p | .tsld _ _ _ p
  | .tsev _ p | .tsq _ _ _ _ p | .cpy _ _ _ p | .cpyt _ _ _ _ p | .cpys _ _ _ _ p | .cpyo _ _ _ _ p
  | .cpyr _ _ _ _ p | .job _ _ _ p | .waith _ _ p | .testh _ _ _ p | .movh _ _ p | .cancel _ p | .hsave _ _ _ p
  | .hrest _ _ _ p | .bufq _ _ p | .bufrel _ p | .barinit _ _ p | .bararv _ _ p | .barexp _ _ p | .barwait _ _ p
  | .bartest _ _ _ p | .bardrop _ p | .sstep _ p | .rdv _ _ _ p | .launch _ _ p | .mrsv _ p | .mrel p
  | .mzero _ _ _ p | .mstat _ _ p | .mmaHBf16 _ _ _ _ p | .mmaHF16 _ _ _ _ p | .mmaQE4m3 _ _ _ _ _ p
  | .mmaQE5m2 _ _ _ _ _ p | .mmaNRb4 _ _ _ _ p | .mmaNI8 _ _ _ _ _ p | .mld _ _ _ p | .mst _ _ _ _ p => p
  | _ => 7

/-! Canonical memories. -/

/-- Both memories of the module are in canonical form: addresses rising, no byte zero. -/
def State.memOk (s : State) : Prop := s.vmem.wf = true ∧ s.wmem.wf = true

end Sys2Proof.Machine
end

