-- ==== Sys2Proof/Certificates/Slice0/Obligations.lean ====
section
/-! DEFINITION. The statements for the provers: one proposition each, with the rule of the spec that it
formalises. -/

open Sys2Proof Sys2Proof.Machine

/-- R32 to R58: decoding the bytes that encode writes for a well-formed encoded instruction gives it back, whatever
follows. -/
def Obligations.DecodeEncode : Prop :=
  ∀ (i : Instr) (rest : List Byte), i.encoded = true → i.wf = true → decode (encode i ++ rest) = .ok (i, rest)

/-- Words that the spec writes out: those of the kernel dbl4 (R75), `add g3, g4` and `shl g3, 4` (R278),
`cmpi.lt p2, g9, -5` (R289) and `meet g10` (R356). -/
def Obligations.DecodeWords : Prop :=
  decodeTableWord 32 0x1F800001 = some (.clauseHeader 3 15 0 0)
  ∧ decodeTableWord 32 0x1FF80081 = some (.clauseHeader 3 15 15 1)
  ∧ decodeTableWord 32 0x00005F85 = some (.sread 0 1 7)
  ∧ decodeTableWord 32 0x00810B9D = some (.shli 2 1 2 7)
  ∧ decodeTableWord 32 0x02041BC3 = some (.ldS .plain .b32 2 3 7)
  ∧ decodeTableWord 32 0x02041BCD = some (.stS .plain .b32 2 3 7)
  ∧ decodeTableWord 32 0x00000B85 = some (.exit 7)
  ∧ decodeTableWord 16 0x887A = some (.fmul16 true 2 3)
  ∧ decodeTableWord 16 0x1062 = some (.add16 false 4 3)
  ∧ decodeTableWord 16 0x906E = some (.shl16 true 4 3)
  ∧ decodeTableWord 32 0xFEC94BA5 = some (.cmpi 0x3FB 9 .lt 2 7)
  ∧ decodeTableWord 32 0x00A00FBF = some (.meet 10 7)

/-- The memories of the module keep their canonical form through every step: what a byte reads as never depends
on how it came to be written. -/
def Obligations.MemoryKept : Prop :=
  ∀ s u : State, s.memOk → step s = .next u → u.memOk

/-- The memories are in canonical form right after power-on, and every byte reads as 0 (log 5). -/
def Sys2Proof.Claims.ResetMemory : Prop :=
  State.reset.memOk ∧ ∀ a, memRead State.reset.vmem a = 0 ∧ memRead State.reset.wmem a = 0

/-- After power-on no thread, workgroup, cached line, record or armed chunk is there. -/
def Sys2Proof.Claims.ResetEmpty : Prop :=
  State.reset.threads = [] ∧ State.reset.wgs = [] ∧ State.reset.tags = [] ∧ State.reset.queues = []
  ∧ State.reset.frames = [] ∧ State.reset.chunks = []

/-- R92 to R94, R118 to R120, R147, R150: what the Reset columns give for the registers of the vaults, the placement,
the page unit, the L2 slices and the coherence unit, at their offsets in the device region. -/
def Sys2Proof.Claims.ResetMemoryRegisters : Prop :=
  let r : Nat → Nat := fun o => (devRead State.reset o).toNat
  (∀ v, v < 256 → (∀ k, k < 16 → r (0x1000 * v + 0x40 + 4 * k) = 0) ∧ r (0x1000 * v + 0x84) / 2 ^ 16 = 0
    ∧ r (0x1000 * v + 0x88) = 0 ∧ r (0x1000 * v + 0x90) = 0)
  ∧ r 0x100000 = 12 ∧ r 0x100004 = 80
  ∧ (∀ o ∈ [0x04, 0x0C, 0x10, 0x18, 0x1C, 0x20, 0x24, 0x28], r (0x200000 + o) = 0) ∧ r 0x200008 = 4
  ∧ (∀ v, v < 256 → ∀ o ∈ [0x00, 0x04, 0x08, 0x0C, 0x10, 0x18], r (0x300000 + 0x1000 * v + o) = 0)
  ∧ r 0x400000 = 0 ∧ r 0x400004 = 0 ∧ r 0x400008 = 0

/-- R336 to R338, R373, R378, R398, R402, R417: what the Reset columns give for the registers of the columns, regions,
cores, launch queues, the launch unit, the save pool, the watchdog and the lifetime recorder. -/
def Sys2Proof.Claims.ResetRunRegisters : Prop :=
  let r : Nat → Nat := fun o => (devRead State.reset o).toNat
  (∀ c, c < 256 → r (0x500000 + 0x100 * c) = 32768 ∧ r (0x500004 + 0x100 * c) = 1600
    ∧ r (0x500008 + 0x100 * c) = 32768 ∧ r (0x50000C + 0x100 * c) = 0)
  ∧ (∀ n, n < 16 → r (0x510000 + 0x100 * n) = 256 ∧ ∀ o ∈ [0x04, 0x08, 0x0C, 0x10], r (0x510000 + 0x100 * n + o) = 0)
  ∧ r 0x520000 = 0x02020304
  ∧ (∀ k, k < 8192 → ∀ o ∈ [0x00, 0x04, 0x08, 0x0C], r (0x600000 + 0x20 * k + o) = 0)
  ∧ (∀ q, q < 64 → r (0x700004 + 0x40 * q) = 4 ∧ ∀ o ∈ [0x00, 0x08, 0x0C, 0x10, 0x14, 0x18, 0x1C, 0x20, 0x24, 0x28,
      0x2C, 0x30, 0x34], r (0x700000 + 0x40 * q + o) = 0)
  ∧ r 0x710004 = 1000 ∧ r 0x710008 = 0 ∧ r 0x71000C = 0 ∧ r 0x710010 = 0
  ∧ r 0x720000 = 0 ∧ r 0x720004 = 0 ∧ r 0x720008 = 0 ∧ r 0x72000C = 0 ∧ r 0x720010 = 1000000 ∧ r 0x720014 = 24
  ∧ r 0x720018 % 2 ^ 16 = 0 ∧ (∀ k, k < 8192 → r (0x730000 + 0x10 * k) = 0)

/-- R430, R431, R435, R439, R442, R444, R451: what the Reset columns give for the registers of the fields, the
Ringmaster, the rings and lanes, the ports and routes, the module, and boot. -/
def Sys2Proof.Claims.ResetLinkRegisters : Prop :=
  let r : Nat → Nat := fun o => (devRead State.reset o).toNat
  (∀ f, f < 64 → r (0x800000 + 0x100 * f) = 0 ∧ r (0x800004 + 0x100 * f) / 2 ^ 8 = 0 ∧ r (0x800008 + 0x100 * f) / 2 ^ 3 = 0)
  ∧ r 0x810004 = 0x128DC91B ∧ r 0x81000C = 500 ∧ r 0x810010 = 0 ∧ r 0x810014 = 0
  ∧ r 0x820000 = 0 ∧ r 0x820004 = 0 ∧ r 0x82000C = 0 ∧ (∀ k, k < 8 → r (0x820020 + 4 * k) = 0)
  ∧ (∀ l, l < 1164 → r (0x821000 + 4 * l) = 144 + l)
  ∧ (∀ p, p < 64 → r (0x840000 + 0x100 * p) = 0x00400000
      ∧ ∀ o ∈ [0x04, 0x08, 0x0C, 0x10, 0x14], r (0x840000 + 0x100 * p + o) = 0)
  ∧ (∀ m, m < 1024 → r (0x850000 + 8 * m) = 0 ∧ r (0x850004 + 8 * m) = 0)
  ∧ r 0x860000 = 0 ∧ r 0x860004 = 200 ∧ r 0x860008 = 0
  ∧ (∀ o ∈ [0x00, 0x04, 0x08, 0x0C, 0x10, 0xC0, 0xC4], r (0x870000 + o) = 0)
  ∧ (∀ k, k < 12 → r (0x870040 + 4 * k) = 0 ∧ r (0x870080 + 4 * k) = 0)

/-- What power-on leaves: the parts ResetMemory, ResetEmpty, ResetMemoryRegisters, ResetRunRegisters and
ResetLinkRegisters. -/
def Obligations.ResetState : Prop :=
  Claims.ResetMemory ∧ Claims.ResetEmpty ∧ Claims.ResetMemoryRegisters ∧ Claims.ResetRunRegisters ∧ Claims.ResetLinkRegisters

/-- A step whose turn names a troupe at an instruction of its clause runs, in the state in which the turn's time has
passed, the decoded instruction, counted for SNAPC (R344, R412); at a clause boundary a lone thread whose fetch succeeds
and that is at no meeting address runs its header (R41). An event of another agent runs as such where the clocks that it
needs run (R427), and otherwise does nothing; traps that it raises wait for their cores (R405). What passes with the time,
and in which order, is log 60. -/
def Obligations.StepRunsDecoded : Prop :=
  (∀ (s : State) (core slot dt : Nat) (late : Bool) (slots : List Nat) (rest : List Turn) (t : Thread) (c : Clause) (i : Instr),
    let s0 : State := turnStart dt late { s with agenda := rest }
    let sl := slot :: slots
    let s1 := { formTroupe core sl (dropReplies core sl (takeCycle s0 core)) with cur := ⟨core, sl⟩ }
    s.agenda = ⟨dt, late, .issue core sl⟩ :: rest → s0.gather = none → coreFree s0 core = true → troupeOk s0 core sl = true →
    s0.thread? (tkey core slot) = some t → t.clause = some c → t.refetch = false → decodeBody c t.pc = some i →
    step s = andThen (andThen (exec i s1) fun u => rowIssued core sl (countIssue core sl (takesOneLane s1 i) u)) afterTurn)
  ∧ (∀ (s : State) (dt : Nat) (late : Bool) (rest : List Turn) (i : Instr),
    let s0 : State := turnStart dt late { s with agenda := rest }
    s.agenda = ⟨dt, late, .event i⟩ :: rest → i.encoded = false →
    (eventRuns s0 i = true → step s = andThen (agentTurn (exec i) s0) afterTurn)
    ∧ (eventRuns s0 i = false → step s = .next (afterTurn s0)))
  ∧ (∀ (s r : State) (core slot dt : Nat) (late : Bool) (rest : List Turn) (t u : Thread) (w : Workgroup) (b : List Byte) (i : Instr),
    let s0 : State := turnStart dt late { s with agenda := rest }
    let s1 := formTroupe core [slot] (dropReplies core [slot] (takeCycle s0 core))
    let k := tkey core slot
    s.agenda = ⟨dt, late, .issue core [slot]⟩ :: rest → s0.gather = none → coreFree s0 core = true → troupeOk s0 core [slot] = true →
    s0.thread? k = some t → t.clause = none → s1.thread? k = some u → u.meet ≠ some u.pc → u.held = none →
    s1.wg? u.wg = some w → fetchFor s1 k u w u.pc.toNat 4 = (.code b, r) → decodeHeader b = some i →
    step s = andThen (andThen (exec i { r with cur := ⟨core, [slot]⟩ }) (rowIssued core [slot])) afterTurn)

/-- R39: g0 and p7 discard writes and read zero and true; any other register reads what was last written to it and
writing it changes no other. -/
def Obligations.HardwiredRegisters : Prop :=
  ∀ (t : Thread) (r q : Reg) (v : Word) (a b : PReg) (x : Bool),
    t.rdG 0 = 0 ∧ t.wrG 0 v = t ∧ t.rdP 7 = true ∧ t.wrP 7 x = t
    ∧ (r ≠ 0 → (t.wrG r v).rdG r = v) ∧ (q ≠ r → (t.wrG r v).rdG q = t.rdG q)
    ∧ (a ≠ 7 → (t.wrP a x).rdP a = x) ∧ (b ≠ a → (t.wrP a x).rdP b = t.rdP b)

/-- R280: the results of the ALU group but for the three shifts, each written to d. -/
def Sys2Proof.Claims.IntegerResults : Prop :=
  ∀ (s : State) (core slot : Nat) (t : Thread) (w : Workgroup) (b a d : Reg) (p : PReg),
    let x := t.rdG a
    let y := t.rdG b
    GivesG s core slot t w (.add b a d p) p d (BitVec.ofNat 32 (x.toNat + y.toNat))
    ∧ GivesG s core slot t w (.sub b a d p) p d (BitVec.ofInt 32 (x.toInt - y.toInt))
    ∧ GivesG s core slot t w (.mul b a d p) p d (BitVec.ofNat 32 (x.toNat * y.toNat))
    ∧ GivesG s core slot t w (.mulh b a d p) p d (BitVec.ofInt 32 (x.toInt * y.toInt / 2 ^ 32))
    ∧ GivesG s core slot t w (.mulhn b a d p) p d (BitVec.ofNat 32 (x.toNat * y.toNat / 2 ^ 32))
    ∧ GivesG s core slot t w (.and b a d p) p d (x &&& y)
    ∧ GivesG s core slot t w (.or b a d p) p d (x ||| y)
    ∧ GivesG s core slot t w (.xor b a d p) p d (x ^^^ y)
    ∧ GivesG s core slot t w (.andn b a d p) p d (x &&& ~~~y)
    ∧ GivesG s core slot t w (.rot b a d p) p d (x.rotateLeft (y.toNat % 32))
    ∧ GivesG s core slot t w (.min b a d p) p d (if x.toInt ≤ y.toInt then x else y)
    ∧ GivesG s core slot t w (.max b a d p) p d (if y.toInt ≤ x.toInt then x else y)
    ∧ GivesG s core slot t w (.minn b a d p) p d (if x.toNat ≤ y.toNat then x else y)

/-- R281: the three shifts, whose count is read as n32. -/
def Sys2Proof.Claims.ShiftResults : Prop :=
  ∀ (s : State) (core slot : Nat) (t : Thread) (w : Workgroup) (b a d : Reg) (p : PReg),
    let x := t.rdG a
    let c := (t.rdG b).toNat
    GivesG s core slot t w (.shl b a d p) p d (if 32 ≤ c then 0 else BitVec.ofNat 32 (x.toNat * 2 ^ c))
    ∧ GivesG s core slot t w (.shr b a d p) p d (if 32 ≤ c then 0 else BitVec.ofNat 32 (x.toNat / 2 ^ c))
    ∧ GivesG s core slot t w (.sar b a d p) p d
        (if 32 ≤ c then (if x.getLsbD 31 then 0xFFFFFFFF else 0) else BitVec.ofInt 32 (x.toInt / 2 ^ c))

/-- R282: MAXN, ABS, NEG, CLZ, POPC, BREV and MOV. -/
def Sys2Proof.Claims.UnaryResults : Prop :=
  ∀ (s : State) (core slot : Nat) (t : Thread) (w : Workgroup) (b a d : Reg) (p : PReg),
    let x := t.rdG a
    let y := t.rdG b
    GivesG s core slot t w (.maxn b a d p) p d (if y.toNat ≤ x.toNat then x else y)
    ∧ GivesG s core slot t w (.abs a d p) p d (BitVec.ofInt 32 x.toInt.natAbs)
    ∧ GivesG s core slot t w (.neg a d p) p d (BitVec.ofInt 32 (-x.toInt))
    ∧ (∃ v : Word, GivesG s core slot t w (.clz a d p) p d v ∧ v.toNat ≤ 32
        ∧ (∀ n, n < v.toNat → x.getLsbD (31 - n) = false) ∧ (v.toNat < 32 → x.getLsbD (31 - v.toNat) = true))
    ∧ GivesG s core slot t w (.popc a d p) p d
        (BitVec.ofNat 32 ((List.range 32).filter fun n => x.getLsbD n).length)
    ∧ (∃ v : Word, GivesG s core slot t w (.brev a d p) p d v ∧ ∀ n, n < 32 → v.getLsbD n = x.getLsbD (31 - n))
    ∧ GivesG s core slot t w (.mov a d p) p d x

/-- The integer group, its shifts and the unary forms: the parts IntegerResults, ShiftResults and UnaryResults. -/
def Obligations.IntegerGroup : Prop :=
  Claims.IntegerResults ∧ Claims.ShiftResults ∧ Claims.UnaryResults

/-- R283: the divisions are counted on setA, truncate towards zero, and have the fixed results at zero and at the
one overflow (where the wrapped quotient is 0x8000_0000). -/
def Obligations.DivisionResults : Prop :=
  ∀ (s : State) (core slot : Nat) (t : Thread) (w : Workgroup) (b a d : Reg) (p : PReg),
    let x := t.rdG a
    let y := t.rdG b
    GivesCounted s core slot t w (.div b a d p) p
        [.g d (if y = 0 then 0xFFFFFFFF else BitVec.ofInt 32 (x.toInt.tdiv y.toInt))]
    ∧ GivesCounted s core slot t w (.rem b a d p) p
        [.g d (if y = 0 then x else BitVec.ofInt 32 (x.toInt.tmod y.toInt))]
    ∧ GivesCounted s core slot t w (.divn b a d p) p
        [.g d (if y = 0 then 0xFFFFFFFF else BitVec.ofNat 32 (x.toNat / y.toNat))]
    ∧ GivesCounted s core slot t w (.remn b a d p) p
        [.g d (if y = 0 then x else BitVec.ofNat 32 (x.toNat % y.toNat))]

/-- R284 to R286: SEL executes whatever its selector and takes a where it is true, and a always with p7; LEA adds
the sign-extended b to the pair a modulo 2^64 and writes the pair d, low word first; MAD reads d, too. -/
def Sys2Proof.Claims.SelectLeaMad : Prop :=
  ∀ (s : State) (core slot : Nat) (t : Thread) (w : Workgroup) (b a d : Reg) (p : PReg),
    GivesG s core slot t w (.sel b a d p) 7 d (if t.rdP p then t.rdG a else t.rdG b)
    ∧ GivesG s core slot t w (.sel b a d 7) 7 d (t.rdG a)
    ∧ (let v : DWord := BitVec.ofInt 64 ((t.rdG a).toNat + 2 ^ 32 * (t.rdG (a + 1)).toNat + (t.rdG b).toInt)
       Gives s core slot t w (.lea b a d p) p
        ((t.wrG d (v.extractLsb' 0 32)).wrG (d + 1) (v.extractLsb' 32 32)))
    ∧ GivesG s core slot t w (.mad b a d p) p d
        (BitVec.ofNat 32 ((t.rdG a).toNat * (t.rdG b).toNat + (t.rdG d).toNat))

/-- R287: BFE extracts, and sign-extends with S, the field that b describes; BFI replaces it. -/
def Sys2Proof.Claims.BitFields : Prop :=
  ∀ (s : State) (core slot : Nat) (t : Thread) (w : Workgroup) (b a d : Reg) (p : PReg),
    let pos := (t.rdG b).toNat % 32
    let n := min ((t.rdG b).toNat / 2 ^ 8 % 64) 32
    let f : Nat := (t.rdG a).toNat / 2 ^ pos % 2 ^ n
    GivesG s core slot t w (.bfe b a d p) p d
        (if (t.rdG b).getLsbD 15 = true ∧ 0 < n ∧ 2 ^ (n - 1) ≤ f then BitVec.ofInt 32 ((f : Int) - 2 ^ n) else BitVec.ofNat 32 f)
    ∧ ∃ v : Word, GivesG s core slot t w (.bfi b a d p) p d v
        ∧ ∀ i, i < 32 → v.getLsbD i =
            (if pos ≤ i ∧ i < pos + n then (t.rdG a).getLsbD (i - pos) else (t.rdG d).getLsbD i)

/-- SEL, LEA, MAD and the bit fields: the parts SelectLeaMad and BitFields. -/
def Obligations.AddressAndFields : Prop :=
  Claims.SelectLeaMad ∧ Claims.BitFields

/-- R51, R288, R289: the immediate is the ten bits sign-extended, or with a prefix the 32-bit pattern that the
prefix completes; the immediate forms and CMPI use it. -/
def Obligations.ImmediateResults : Prop :=
  ∀ (s : State) (core slot : Nat) (t : Thread) (w : Workgroup) (n : BitVec 10) (a d : Reg) (q p : PReg) (k : ICond),
    let x := t.rdG a
    let v : Word := match t.immx with
      | some h => BitVec.ofNat 32 (h.toNat * 2 ^ 10 + n.toNat)
      | none => BitVec.ofInt 32 n.toInt
    GivesG s core slot t w (.addi n a d p) p d (BitVec.ofNat 32 (x.toNat + v.toNat))
    ∧ GivesG s core slot t w (.andi n a d p) p d (x &&& v)
    ∧ GivesG s core slot t w (.ori n a d p) p d (x ||| v)
    ∧ GivesG s core slot t w (.xori n a d p) p d (x ^^^ v)
    ∧ (n.toNat < 32 → GivesG s core slot t w (.shli n a d p) p d (BitVec.ofNat 32 (x.toNat * 2 ^ n.toNat)))
    ∧ (n.toNat < 32 → GivesG s core slot t w (.shri n a d p) p d (BitVec.ofNat 32 (x.toNat / 2 ^ n.toNat)))
    ∧ (n.toNat < 32 → GivesG s core slot t w (.sari n a d p) p d (BitVec.ofInt 32 (x.toInt / 2 ^ n.toNat)))
    ∧ (∀ h, t.immx = some h → h ≠ 0 → issueOk t w (.shli n a d p) = false
        ∧ issueOk t w (.shri n a d p) = false ∧ issueOk t w (.sari n a d p) = false)
    ∧ GivesG s core slot t w (.movi n d p) p d v
    ∧ GivesP s core slot t w (.cmpi n a k q p) p q (match k with
        | .eq => decide (x = v)
        | .ne => decide (x ≠ v)
        | .lt => decide (x.toInt < v.toInt)
        | .le => decide (x.toInt ≤ v.toInt)
        | .gt => decide (v.toInt < x.toInt)
        | .ge => decide (v.toInt ≤ x.toInt)
        | .ltn => decide (x.toNat < v.toNat)
        | .gen => decide (v.toNat ≤ x.toNat))

/-- R290, R291: CMP compares as i32, CMPN as n32; FCMP compares the values of two numbers, and a pair with a NaN
is unordered. -/
def Sys2Proof.Claims.CompareResults : Prop :=
  ∀ (s : State) (core slot : Nat) (t : Thread) (w : Workgroup) (b a : Reg) (d p : PReg) (c : Cond) (k : FCond),
    let x := t.rdG a
    let y := t.rdG b
    GivesP s core slot t w (.cmp b a d c p) p d (match c with
        | .eq => decide (x = y)
        | .ne => decide (x ≠ y)
        | .lt => decide (x.toInt < y.toInt)
        | .le => decide (x.toInt ≤ y.toInt)
        | .gt => decide (y.toInt < x.toInt)
        | .ge => decide (y.toInt ≤ x.toInt))
    ∧ GivesP s core slot t w (.cmpn b a d c p) p d (match c with
        | .eq => decide (x = y)
        | .ne => decide (x ≠ y)
        | .lt => decide (x.toNat < y.toNat)
        | .le => decide (x.toNat ≤ y.toNat)
        | .gt => decide (y.toNat < x.toNat)
        | .ge => decide (y.toNat ≤ x.toNat))
    ∧ ((fval x).isNan = true ∨ (fval y).isNan = true →
        GivesP s core slot t w (.fcmp b a d k p) p d (k == .ne || k == .un))
    ∧ ((fval x).isNan = false → (fval y).isNan = false →
        GivesP s core slot t w (.fcmp b a d k p) p d (match k with
          | .eq => decide ((fval x).cmp (fval y) = 0)
          | .ne => decide ((fval x).cmp (fval y) ≠ 0)
          | .lt => decide ((fval x).cmp (fval y) < 0)
          | .le => decide ((fval x).cmp (fval y) ≤ 0)
          | .gt => decide (0 < (fval x).cmp (fval y))
          | .ge => decide (0 ≤ (fval x).cmp (fval y))
          | .un => false
          | .ord => true))

/-- R292: predicates and masks. -/
def Sys2Proof.Claims.PredicateResults : Prop :=
  ∀ (s : State) (core slot : Nat) (t : Thread) (w : Workgroup) (b a : Reg) (x y d n p : PReg),
    GivesP s core slot t w (.pand y x d p) p d (t.rdP x && t.rdP y)
    ∧ GivesP s core slot t w (.por y x d p) p d (t.rdP x || t.rdP y)
    ∧ GivesP s core slot t w (.pxor y x d p) p d (t.rdP x != t.rdP y)
    ∧ GivesP s core slot t w (.pnot x d p) p d (!t.rdP x)
    ∧ GivesP s core slot t w (.pmov x d p) p d (t.rdP x)
    ∧ (∃ v : Word, GivesG s core slot t w (.p2g a p) p a v ∧ v.getLsbD 7 = true
        ∧ (∀ i : PReg, v.getLsbD i.toNat = t.rdP i) ∧ v.toNat < 256)
    ∧ (∃ u : Thread, Gives s core slot t w (.g2p b a p) p u
        ∧ (∀ i : PReg, u.rdP i = if i ≠ 7 ∧ (t.rdG b).getLsbD i.toNat = true then (t.rdG a).getLsbD i.toNat else t.rdP i)
        ∧ (∀ r, u.rdG r = t.rdG r) ∧ u.m = t.m ∧ u.h = t.h ∧ u.f = t.f)
    ∧ Gives s core slot t w (.mand b x d p) p (t.wrM d (t.rdM x &&& (t.rdG b).setWidth 8))
    ∧ Gives s core slot t w (.mor b x d p) p (t.wrM d (t.rdM x ||| (t.rdG b).setWidth 8))
    ∧ GivesG s core slot t w (.mpop x a p) p a (BitVec.ofNat 32
        ((t.rdM x).toNat * 256 + ((List.range 8).filter fun i => (t.rdM x).getLsbD i).length))
    ∧ GivesP s core slot t w (.mtst n x d p) p d ((t.rdM x).getLsbD n.toNat)

/-- Comparisons, predicates and masks: the parts CompareResults and PredicateResults. -/
def Obligations.ConditionGroup : Prop :=
  Claims.CompareResults ∧ Claims.PredicateResults

/-- R34, R278: the 16-bit forms execute in every active thread, with d an operand; the immediate is signed, an
unsigned count for the shifts, or the FP32 value of the signed number. -/
def Obligations.ShortResults : Prop :=
  ∀ (s : State) (core slot : Nat) (t : Thread) (w : Workgroup) (im : Bool) (r e : BitVec 5),
    let d : Reg := e.setWidth 6
    let x := t.rdG d
    let g := t.rdG (r.setWidth 6)
    let v : Word := if im then BitVec.ofInt 32 r.toInt else g
    let c : Nat := if im then r.toNat else g.toNat
    let z : Word := if im then fround (.ofInt r.toInt) else g
    Gives s core slot t w .nop16 7 t
    ∧ GivesG s core slot t w (.mov16 im r e) 7 d v
    ∧ GivesG s core slot t w (.add16 im r e) 7 d (x + v)
    ∧ GivesG s core slot t w (.sub16 im r e) 7 d (x - v)
    ∧ GivesG s core slot t w (.mul16 im r e) 7 d (x * v)
    ∧ GivesG s core slot t w (.and16 im r e) 7 d (x &&& v)
    ∧ GivesG s core slot t w (.or16 im r e) 7 d (x ||| v)
    ∧ GivesG s core slot t w (.xor16 im r e) 7 d (x ^^^ v)
    ∧ GivesG s core slot t w (.shl16 im r e) 7 d (if 32 ≤ c then 0 else BitVec.ofNat 32 (x.toNat * 2 ^ c))
    ∧ GivesG s core slot t w (.shr16 im r e) 7 d (if 32 ≤ c then 0 else BitVec.ofNat 32 (x.toNat / 2 ^ c))
    ∧ GivesG s core slot t w (.sar16 im r e) 7 d
        (if 32 ≤ c then (if x.getLsbD 31 then 0xFFFFFFFF else 0) else BitVec.ofInt 32 (x.toInt / 2 ^ c))
    ∧ GivesG s core slot t w (.min16 im r e) 7 d (if x.toInt ≤ v.toInt then x else v)
    ∧ GivesG s core slot t w (.max16 im r e) 7 d (if v.toInt ≤ x.toInt then x else v)
    ∧ GivesG s core slot t w (.fadd16 im r e) 7 d (fadd x z)
    ∧ GivesG s core slot t w (.fmul16 im r e) 7 d (fmul x z)
    ∧ GivesG s core slot t w (.fmax16 im r e) 7 d (fmax x z)
    ∧ GivesG s core slot t w (.fmin16 im r e) 7 d (fmin x z)

/-- R294, with the results of R280 to R285: the uniform forms, once per troupe. -/
def Sys2Proof.Claims.UniformResults : Prop :=
  ∀ (s : State) (core slot : Nat) (t : Thread) (w : Workgroup) (b a d : Reg) (p : PReg),
    GivesS2 s core slot t w (.uAdd b a d p) p a b d (fun x y => BitVec.ofNat 32 (x.toNat + y.toNat))
    ∧ GivesS2 s core slot t w (.uSub b a d p) p a b d (fun x y => BitVec.ofInt 32 (x.toInt - y.toInt))
    ∧ GivesS2 s core slot t w (.uMul b a d p) p a b d (fun x y => BitVec.ofNat 32 (x.toNat * y.toNat))
    ∧ GivesS2 s core slot t w (.uMulh b a d p) p a b d (fun x y => BitVec.ofInt 32 (x.toInt * y.toInt / 2 ^ 32))
    ∧ GivesS2 s core slot t w (.uMulhn b a d p) p a b d (fun x y => BitVec.ofNat 32 (x.toNat * y.toNat / 2 ^ 32))
    ∧ GivesS2 s core slot t w (.uAnd b a d p) p a b d (fun x y => x &&& y)
    ∧ GivesS2 s core slot t w (.uOr b a d p) p a b d (fun x y => x ||| y)
    ∧ GivesS2 s core slot t w (.uXor b a d p) p a b d (fun x y => x ^^^ y)
    ∧ GivesS2 s core slot t w (.uAndn b a d p) p a b d (fun x y => x &&& ~~~y)
    ∧ GivesS2 s core slot t w (.uShl b a d p) p a b d
        (fun x y => if 32 ≤ y.toNat then 0 else BitVec.ofNat 32 (x.toNat * 2 ^ y.toNat))
    ∧ GivesS2 s core slot t w (.uShr b a d p) p a b d
        (fun x y => if 32 ≤ y.toNat then 0 else BitVec.ofNat 32 (x.toNat / 2 ^ y.toNat))
    ∧ GivesS2 s core slot t w (.uSar b a d p) p a b d
        (fun x y => if 32 ≤ y.toNat then (if x.getLsbD 31 then 0xFFFFFFFF else 0) else BitVec.ofInt 32 (x.toInt / 2 ^ y.toNat))
    ∧ GivesS2 s core slot t w (.uRot b a d p) p a b d (fun x y => x.rotateLeft (y.toNat % 32))
    ∧ GivesS2 s core slot t w (.uMin b a d p) p a b d (fun x y => if x.toInt ≤ y.toInt then x else y)
    ∧ GivesS2 s core slot t w (.uMax b a d p) p a b d (fun x y => if y.toInt ≤ x.toInt then x else y)
    ∧ GivesS2 s core slot t w (.uMinn b a d p) p a b d (fun x y => if x.toNat ≤ y.toNat then x else y)
    ∧ GivesS2 s core slot t w (.uMaxn b a d p) p a b d (fun x y => if y.toNat ≤ x.toNat then x else y)
    ∧ GivesS1 s core slot t w (.uAbs a d p) p a d (fun x => BitVec.ofInt 32 x.toInt.natAbs)
    ∧ GivesS1 s core slot t w (.uNeg a d p) p a d (fun x => BitVec.ofInt 32 (-x.toInt))
    ∧ GivesS1 s core slot t w (.uClz a d p) p a d clzW
    ∧ GivesS1 s core slot t w (.uPopc a d p) p a d
        (fun x => BitVec.ofNat 32 ((List.range 32).filter fun n => x.getLsbD n).length)
    ∧ GivesS1 s core slot t w (.uBrev a d p) p a d BitVec.reverse
    ∧ GivesS1 s core slot t w (.uMov a d p) p a d (fun x => x)
    ∧ GivesS2 s core slot t w (.usel b a d p) 7 a b d (fun x y => if t.rdP p then x else y)

/-- R294: LEA on pairs of uniform registers, S2G, and G2S, which in a lone thread writes its value. -/
def Sys2Proof.Claims.UniformMoves : Prop :=
  ∀ (s : State) (core slot : Nat) (t : Thread) (w : Workgroup) (b a d : Reg) (p : PReg),
    (∃ lo ∈ sregViews w [t.lin] a, ∃ hi ∈ sregViews w [t.lin] (a + 1), ∃ y ∈ sregViews w [t.lin] b, ∃ n,
      let v : DWord := BitVec.ofInt 64 (lo.toNat + 2 ^ 32 * hi.toNat + y.toInt)
      Leaves s core slot t w (.uLea b a d p) p
        (wrS (wrS { s with free := n } t.wg [t.lin] d (v.extractLsb' 0 32)) t.wg [t.lin] (d + 1) (v.extractLsb' 32 32)))
    ∧ (∃ x ∈ sregViews w [t.lin] a, ∃ n, Leaves s core slot t w (.s2g a d p) p
        ({ s with free := n }.setThread (tkey core slot) (t.wrG d x)))
    ∧ Leaves s core slot t w (.g2s a d p) p (wrS s t.wg [t.lin] d (t.rdG a))

/-- The uniform forms: the parts UniformResults and UniformMoves. -/
def Obligations.UniformGroup : Prop :=
  Claims.UniformResults ∧ Claims.UniformMoves

/-- R60, R296: a written uniform register holds the value, for the writing troupe at once and for any other
running thread from its next clause boundary on; until then that thread may also read the value it held before.
Nothing but the workgroup's uniform registers changes. -/
def Obligations.UniformVisibility : Prop :=
  ∀ (s : State) (g : Nat) (lins : List Nat) (r : Reg) (v : Word) (w : Workgroup),
    s.wg? g = some w → lins ≠ [] →
    ∃ x, (wrS s g lins r v).wg? g = some x
      ∧ x.sregs[r.toNat]'r.isLt = v ∧ (∀ q : Reg, q ≠ r → x.sregs[q.toNat]'q.isLt = w.sregs[q.toNat]'q.isLt)
      ∧ sregViews x lins r = [v]
      ∧ (∀ l, l ∉ lins → l ∉ w.exited → l < w.sizes.wgX * w.sizes.wgY * w.sizes.wgZ →
          w.sregs[r.toNat]'r.isLt ∈ sregViews x [l] r ∧ v ∈ sregViews x [l] r)
      ∧ x.scratch = w.scratch ∧ x.slices = w.slices ∧ (wrS s g lins r v).threads = s.threads
      ∧ ∀ k t, s.thread? k = some t → t.wg = g → t.lin ∉ lins →
          ∃ y, (atBoundary (wrS s g lins r v) k).wg? g = some y ∧ sregViews y [t.lin] r = [v]

/-- R191 to R193, R298: an exact value m·2^e rounded to FP32 with RNE is no further from it than any other
magnitude of FP32, the pattern is even on a tie, and it is infinite exactly from the midpoint above the largest
finite value on. -/
def Sys2Proof.Claims.RoundedNearest : Prop :=
  ∀ (m : Nat) (e : Int) (neg : Bool),
    let x : Rat := (m : Rat) * (2 : Rat) ^ e
    let r := (fround (.fin neg m e)).toNat % 2 ^ 31
    let val : Nat → Rat := fun q => if q < 2 ^ 23 then (q : Rat) * (2 : Rat) ^ (-149 : Int)
      else ((q % 2 ^ 23 + 2 ^ 23 : Nat) : Rat) * (2 : Rat) ^ ((q / 2 ^ 23 : Nat) - 150 : Int)
    let far : Nat → Rat := fun q => if x ≤ val q then val q - x else x - val q
    (fround (.fin neg m e)).getLsbD 31 = neg
    ∧ (r = 0x7F800000 ↔ (2 ^ 25 - 1 : Rat) * (2 : Rat) ^ (103 : Int) ≤ x)
    ∧ (r ≠ 0x7F800000 → r < 0x7F800000 ∧ ∀ q, q < 0x7F800000 → q ≠ r →
        far r < far q ∨ (far r = far q ∧ r % 2 = 0))

/-- R186, R189: a pattern of FP32 that is no NaN is the rounding of its own value; every NaN gives the canonical
one. -/
def Sys2Proof.Claims.ExactUnchanged : Prop :=
  ∀ w : Word, fround (fval w) = if (w &&& 0x7FFFFFFF).toNat ≤ 0x7F800000 then w else 0x7FC00000

/-- Rounding to FP32 is nearest, ties to even: the parts RoundedNearest and ExactUnchanged. -/
def Obligations.RoundingToFP32 : Prop :=
  Claims.RoundedNearest ∧ Claims.ExactUnchanged

/-- The number ±m·2^e. -/
def Sys2Proof.Claims.exact (neg : Bool) (m : Nat) (e : Int) : Rat := (if neg then -1 else 1) * (m : Rat) * (2 : Rat) ^ e

/-- R298, R299: the sums, products and negations that FloatResults rounds are exact, with the signs of zero results and the
infinities and NaNs of R299's table. -/
def Sys2Proof.Claims.ExactSums : Prop :=
  ∀ (n k : Bool) (m j : Nat) (e f : Int) (v : FVal),
    let x : FVal := .fin n m e
    let y : FVal := .fin k j f
    (∃ c l g, x.add y = .fin c l g ∧ Claims.exact c l g = Claims.exact n m e + Claims.exact k j f
      ∧ (l = 0 → c = (n && k && m == 0 && j == 0)))
    ∧ (∃ l g, x.mul y = .fin (n != k) l g ∧ Claims.exact (n != k) l g = Claims.exact n m e * Claims.exact k j f)
    ∧ x.neg = .fin (!n) m e ∧ (FVal.inf n).neg = .inf (!n)
    ∧ (FVal.inf n).add (.inf k) = (if n = k then .inf n else .nan) ∧ (FVal.inf n).add y = .inf n ∧ x.add (.inf k) = .inf k
    ∧ (FVal.inf n).mul (.inf k) = .inf (n != k)
    ∧ (FVal.inf n).mul y = (if j = 0 then .nan else .inf (n != k)) ∧ x.mul (.inf k) = (if m = 0 then .nan else .inf (n != k))
    ∧ FVal.nan.add v = .nan ∧ v.add .nan = .nan ∧ FVal.nan.mul v = .nan ∧ v.mul .nan = .nan ∧ FVal.nan.neg = .nan
    ∧ fround .nan = 0x7FC00000 ∧ fround (.inf n) = (if n then 0xFF800000 else 0x7F800000)
    ∧ fround (.fin n 0 e) = (if n then 0x80000000 else 0)

/-- R299, R300: the FPU operations; sums, products and FFMA are one rounding of the exact value (ExactSums,
RoundingToFP32). -/
def Sys2Proof.Claims.FloatResults : Prop :=
  ∀ (s : State) (core slot : Nat) (t : Thread) (w : Workgroup) (b a d : Reg) (p : PReg),
    let x := fval (t.rdG a)
    let y := fval (t.rdG b)
    GivesG s core slot t w (.fadd b a d p) p d (fround (x.add y))
    ∧ GivesG s core slot t w (.fsub b a d p) p d (fround (x.add y.neg))
    ∧ GivesG s core slot t w (.fmul b a d p) p d (fround (x.mul y))
    ∧ GivesG s core slot t w (.ffma b a d p) p d (fround ((x.mul y).add (fval (t.rdG d))))
    ∧ (x.isNan = true ∨ y.isNan = true →
        GivesG s core slot t w (.fmin b a d p) p d 0x7FC00000 ∧ GivesG s core slot t w (.fmax b a d p) p d 0x7FC00000)
    ∧ (x.isNan = false → y.isNan = false → x.cmp y < 0 →
        GivesG s core slot t w (.fmin b a d p) p d (t.rdG a) ∧ GivesG s core slot t w (.fmax b a d p) p d (t.rdG b))
    ∧ (x.isNan = false → y.isNan = false → 0 < x.cmp y →
        GivesG s core slot t w (.fmin b a d p) p d (t.rdG b) ∧ GivesG s core slot t w (.fmax b a d p) p d (t.rdG a))
    ∧ (x.isNan = false → t.rdG a = t.rdG b →
        GivesG s core slot t w (.fmin b a d p) p d (t.rdG a) ∧ GivesG s core slot t w (.fmax b a d p) p d (t.rdG a))
    ∧ (t.rdG a = 0x80000000 → t.rdG b = 0 →
        GivesG s core slot t w (.fmin b a d p) p d 0x80000000 ∧ GivesG s core slot t w (.fmax b a d p) p d 0)
    ∧ (t.rdG a = 0 → t.rdG b = 0x80000000 →
        GivesG s core slot t w (.fmin b a d p) p d 0x80000000 ∧ GivesG s core slot t w (.fmax b a d p) p d 0)
    ∧ GivesG s core slot t w (.fabs a d p) p d (if x.isNan then 0x7FC00000 else t.rdG a &&& 0x7FFFFFFF)
    ∧ GivesG s core slot t w (.fneg a d p) p d (if x.isNan then 0x7FC00000 else t.rdG a ^^^ 0x80000000)

/-- R302: the roundings to integral values of a finite a = ±m·2^e with a fraction; anything else is returned
unchanged, a NaN as the canonical one. A zero result keeps the sign of a. -/
def Sys2Proof.Claims.IntegralResults : Prop :=
  ∀ (s : State) (core slot : Nat) (t : Thread) (w : Workgroup) (a d : Reg) (p : PReg),
    let x := fval (t.rdG a)
    let four : Word → Word → Word → Word → Prop := fun lo hi near cut =>
      GivesG s core slot t w (.fflr a d p) p d lo ∧ GivesG s core slot t w (.fceil a d p) p d hi
        ∧ GivesG s core slot t w (.frnd a d p) p d near ∧ GivesG s core slot t w (.ftrc a d p) p d cut
    (x.isNan = true → four 0x7FC00000 0x7FC00000 0x7FC00000 0x7FC00000)
    ∧ (∀ n, x = .inf n → four (t.rdG a) (t.rdG a) (t.rdG a) (t.rdG a))
    ∧ (∀ n m e, x = .fin n m e → 0 ≤ e ∨ m = 0 → four (t.rdG a) (t.rdG a) (t.rdG a) (t.rdG a))
    ∧ (∀ (n : Bool) (m : Nat) (e : Int), x = .fin n m e → e < 0 → m ≠ 0 →
        let u : Nat := 2 ^ (-e).toNat
        let down := m / u
        let up := (m + u - 1) / u
        let near := if 2 * (m % u) < u ∨ (2 * (m % u) = u ∧ down % 2 = 0) then down else down + 1
        four (fround (.fin n (if n then up else down) 0)) (fround (.fin n (if n then down else up) 0))
          (fround (.fin n near 0)) (fround (.fin n down 0)))

/-- The FPU operations: the parts ExactSums, FloatResults and IntegralResults. -/
def Obligations.FloatGroup : Prop :=
  Claims.ExactSums ∧ Claims.FloatResults ∧ Claims.IntegralResults

/-- R45, R300: the functions counted on setA; each completes with the value of its function, of which QuotientsAndRoots
and SpecialValues speak (for the five others' ordinary values see log 20). -/
def Sys2Proof.Claims.CountedFunctions : Prop :=
  ∀ (s : State) (core slot : Nat) (t : Thread) (w : Workgroup) (b a d : Reg) (p : PReg),
    let x := t.rdG a
    let k := tkey core slot
    let done : Instr → Word → Prop := fun i v => Lone s core slot t w i → t.rdP p = true →
      exec i s = .next (advance (s.setThread k (t.countResult [.g d v])) k (instrLen i))
    done (.fdiv b a d p) (fdiv x (t.rdG b)) ∧ done (.fsqrt a d p) (fsqrt x) ∧ done (.frcp a d p) (frcp x)
    ∧ done (.frsq a d p) (frsq x) ∧ done (.fexp2 a d p) (fexp2 x) ∧ done (.flog2 a d p) (flog2 x)
    ∧ done (.fsin a d p) (fsin x) ∧ done (.fcos a d p) (fcos x) ∧ done (.ftanh a d p) (ftanh x)

/-- The magnitude of a pattern of FP32 below infinity (R186). -/
def Sys2Proof.Claims.magnitude (q : Nat) : Rat :=
  if q < 2 ^ 23 then (q : Rat) * (2 : Rat) ^ (-149 : Int)
  else ((q % 2 ^ 23 + 2 ^ 23 : Nat) : Rat) * (2 : Rat) ^ ((q / 2 ^ 23 : Nat) - 150 : Int)

/-- A positive number, of which above says by its sign whether a magnitude lies below or above it, rounds to FP32 with RNE
as the pattern r: each other pattern lies beyond the midpoint, or at it where r is even (R192, R193). -/
def Sys2Proof.Claims.RoundsTo (above : Rat → Rat) (r : Nat) : Prop :=
  (r = 0x7F800000 ↔ above ((2 ^ 25 - 1 : Rat) * (2 : Rat) ^ (103 : Int)) ≤ 0)
  ∧ (r ≠ 0x7F800000 → r < 0x7F800000 ∧ ∀ q, q < 0x7F800000 →
      let mid := above ((Claims.magnitude q + Claims.magnitude r) / 2)
      (q < r → mid < 0 ∨ (mid = 0 ∧ r % 2 = 0)) ∧ (r < q → 0 < mid ∨ (mid = 0 ∧ r % 2 = 0)))

/-- R298: FDIV, FSQRT, FRCP and FRSQ of finite operands that are not zero are the exact quotient, root, reciprocal and
reciprocal root, rounded once; a root is positive and asked of a positive operand. -/
def Sys2Proof.Claims.QuotientsAndRoots : Prop :=
  ∀ (x y : Word) (n k : Bool) (m j : Nat) (e f : Int), fval x = .fin n m e → fval y = .fin k j f → m ≠ 0 →
    let a : Rat := (m : Rat) * (2 : Rat) ^ e
    let b : Rat := (j : Rat) * (2 : Rat) ^ f
    let low : Word → Nat := fun v => v.toNat % 2 ^ 31
    (j ≠ 0 → (fdiv x y).getLsbD 31 = (n != k) ∧ Claims.RoundsTo (fun z => z * b - a) (low (fdiv x y)))
    ∧ ((frcp x).getLsbD 31 = n ∧ Claims.RoundsTo (fun z => z * a - 1) (low (frcp x)))
    ∧ (n = false → (fsqrt x).getLsbD 31 = false ∧ Claims.RoundsTo (fun z => z * z - a) (low (fsqrt x)))
    ∧ (n = false → (frsq x).getLsbD 31 = false ∧ Claims.RoundsTo (fun z => z * z * a - 1) (low (frsq x)))

/-- R299, R301: the table of special inputs, and FLOG2 of 1. -/
def Sys2Proof.Claims.SpecialValues : Prop :=
  let inf : Word := 0x7F800000
  let ninf : Word := 0xFF800000
  let nan : Word := 0x7FC00000
  let mz : Word := 0x80000000
  let one : Word := 0x3F800000
  (∀ x : Word, (fval x).isNan = true → fsqrt x = nan ∧ frcp x = nan ∧ frsq x = nan ∧ fexp2 x = nan ∧ flog2 x = nan
      ∧ fsin x = nan ∧ fcos x = nan ∧ ftanh x = nan ∧ ∀ y, fdiv x y = nan ∧ fdiv y x = nan)
  ∧ (fsqrt inf = inf ∧ frcp inf = 0 ∧ frsq inf = 0 ∧ fexp2 inf = inf ∧ flog2 inf = inf ∧ fsin inf = nan
      ∧ fcos inf = nan ∧ ftanh inf = one)
  ∧ (fsqrt ninf = nan ∧ frcp ninf = mz ∧ frsq ninf = nan ∧ fexp2 ninf = 0 ∧ flog2 ninf = nan ∧ fsin ninf = nan
      ∧ fcos ninf = nan ∧ ftanh ninf = 0xBF800000)
  ∧ (fsqrt 0 = 0 ∧ frcp 0 = inf ∧ frsq 0 = inf ∧ fexp2 0 = one ∧ flog2 0 = ninf ∧ fsin 0 = 0 ∧ fcos 0 = one
      ∧ ftanh 0 = 0)
  ∧ (fsqrt mz = mz ∧ frcp mz = ninf ∧ frsq mz = ninf ∧ fexp2 mz = one ∧ flog2 mz = ninf ∧ fsin mz = mz
      ∧ fcos mz = one ∧ ftanh mz = mz)
  ∧ (∀ x : Word, (fval x).isNan = false → (fval x).isZero = false → (fval x).negative = true →
      fsqrt x = nan ∧ frsq x = nan ∧ flog2 x = nan)
  ∧ flog2 one = 0
  ∧ (∀ (x y : Word) (n k : Bool) (m j : Nat) (e f : Int), fval x = .fin n m e → fval y = .fin k j f →
      (m ≠ 0 → j = 0 → fdiv x y = if n = k then inf else ninf)
      ∧ (m = 0 → j = 0 → fdiv x y = nan)
      ∧ (m = 0 → j ≠ 0 → fdiv x y = if n = k then 0 else mz)
      ∧ (fdiv x inf = if n then mz else 0) ∧ (fdiv x ninf = if n then 0 else mz)
      ∧ (fdiv inf x = if n then ninf else inf) ∧ (fdiv ninf x = if n then inf else ninf))
  ∧ fdiv inf inf = nan ∧ fdiv inf ninf = nan ∧ fdiv ninf inf = nan ∧ fdiv ninf ninf = nan
  ∧ frcp = fdiv one

/-- The counted functions, the rounding of four of them and the special values of all: the parts CountedFunctions,
QuotientsAndRoots and SpecialValues. -/
def Obligations.CountedGroup : Prop :=
  Claims.CountedFunctions ∧ Claims.QuotientsAndRoots ∧ Claims.SpecialValues

/-- R186: the values of the patterns of the formats with infinities, by mantissa bits M and bias B, and of E4M3, whose one
NaN is its largest pattern. -/
def Sys2Proof.Claims.FormatValues : Prop :=
  let reads : FFmt → Nat → Nat → Bool → Nat → Nat → Int → Prop := fun f q wide neg m ex b => ∃ n e,
    f.value q = .fin neg n e ∧ Claims.exact false n e
      = if ex = 0 then (m : Rat) * (2 : Rat) ^ (1 - b - wide) else ((2 ^ wide + m : Nat) : Rat) * (2 : Rat) ^ ((ex : Int) - b - wide)
  (∀ (f : FFmt) (width wide : Nat) (b : Int) (q : Nat),
    (f, width, wide, b) ∈ [(f32Fmt, 32, 23, (127 : Int)), (f16Fmt, 16, 10, 15), (bf16Fmt, 16, 7, 127), (e5m2Fmt, 8, 2, 15)] →
    q < 2 ^ width →
    let neg := decide (2 ^ (width - 1) ≤ q)
    let ex := q % 2 ^ (width - 1) / 2 ^ wide
    let m := q % 2 ^ wide
    let top := 2 ^ (width - 1 - wide) - 1
    (ex = top → m ≠ 0 → f.value q = .nan) ∧ (ex = top → m = 0 → f.value q = .inf neg)
      ∧ (ex < top → reads f q wide neg m ex b))
  ∧ ∀ q, q < 2 ^ 8 → (q % 2 ^ 7 = 127 → e4m3Fmt.value q = .nan)
      ∧ (q % 2 ^ 7 < 127 → reads e4m3Fmt q 3 (decide (128 ≤ q)) (q % 8) (q % 2 ^ 7 / 8) 7)

/-- R291, R306: the order of values, and by it the larger and the smaller of two patterns of FP16: −0 below +0, the
canonical NaN where either is a NaN. -/
def Sys2Proof.Claims.PackedOrder : Prop :=
  (∀ (n k : Bool) (m j : Nat) (e f : Int),
    let x : FVal := .fin n m e
    let y : FVal := .fin k j f
    (Claims.exact n m e < Claims.exact k j f → x.cmp y < 0) ∧ (Claims.exact k j f < Claims.exact n m e → 0 < x.cmp y)
    ∧ (Claims.exact n m e = Claims.exact k j f → x.cmp y = 0)
    ∧ (FVal.inf true).cmp x < 0 ∧ 0 < x.cmp (.inf true) ∧ 0 < (FVal.inf false).cmp x ∧ x.cmp (.inf false) < 0
    ∧ (FVal.inf true).cmp (.inf false) < 0 ∧ 0 < (FVal.inf false).cmp (.inf true) ∧ (FVal.inf n).cmp (.inf n) = 0)
  ∧ ∀ x y : Nat, x < 2 ^ 16 → y < 2 ^ 16 →
    let a := f16Fmt.value x
    let b := f16Fmt.value y
    let gives : Nat → Nat → Prop := fun low high => minMaxBits f16Fmt false x y = low ∧ minMaxBits f16Fmt true x y = high
    (a = .nan ∨ b = .nan → gives 0x7E00 0x7E00)
    ∧ (a ≠ .nan → b ≠ .nan → (a.cmp b < 0 → gives x y) ∧ (0 < a.cmp b → gives y x) ∧ (x = y → gives x x))
    ∧ (x = 0x8000 → y = 0 → gives x y) ∧ (x = 0 → y = 0x8000 → gives y x)

/-- R190, R306: each half of the result is computed from the same half of a, b and d alone, rounded once in its
own format. -/
def Sys2Proof.Claims.PackedElements : Prop :=
  ∀ (s : State) (core slot : Nat) (t : Thread) (w : Workgroup) (b a d : Reg) (p : PReg),
    let lo : Word → Nat := fun x => x.toNat % 2 ^ 16
    let hi : Word → Nat := fun x => x.toNat / 2 ^ 16
    let both : Instr → (Nat → Nat → Nat → Nat) → Prop := fun i f => ∃ v : Word,
      GivesG s core slot t w i p d v ∧ lo v = f (lo (t.rdG a)) (lo (t.rdG b)) (lo (t.rdG d))
        ∧ hi v = f (hi (t.rdG a)) (hi (t.rdG b)) (hi (t.rdG d))
    let h := f16Fmt.value
    let g := bf16Fmt.value
    both (.hadd2 b a d p) (fun x y _ => roundVal f16Fmt .rne false 0 ((h x).add (h y)))
    ∧ both (.hmul2 b a d p) (fun x y _ => roundVal f16Fmt .rne false 0 ((h x).mul (h y)))
    ∧ both (.hfma2 b a d p) (fun x y z => roundVal f16Fmt .rne false 0 (((h x).mul (h y)).add (h z)))
    ∧ both (.hmax2 b a d p) (fun x y _ => minMaxBits f16Fmt true x y)
    ∧ both (.hmin2 b a d p) (fun x y _ => minMaxBits f16Fmt false x y)
    ∧ both (.badd2 b a d p) (fun x y _ => roundVal bf16Fmt .rne false 0 ((g x).add (g y)))
    ∧ both (.bmul2 b a d p) (fun x y _ => roundVal bf16Fmt .rne false 0 ((g x).mul (g y)))
    ∧ both (.bfma2 b a d p) (fun x y z => roundVal bf16Fmt .rne false 0 (((g x).mul (g y)).add (g z)))

/-- The packed formats, their order and the packed instructions: the parts FormatValues, PackedOrder and PackedElements. -/
def Obligations.PackedResults : Prop :=
  Claims.FormatValues ∧ Claims.PackedOrder ∧ Claims.PackedElements

/-- The distance of two numbers. -/
def Sys2Proof.Claims.distance (x y : Rat) : Rat := if x ≤ y then y - x else x - y

/-- R202: the magnitudes of a code type by index. -/
def Sys2Proof.Claims.rb4Magnitude (type m : Nat) : Rat :=
  let magnitudes : List Rat := match type with
    | 0 => [0, 1, 2, 3, 4, 5, 6, 7]
    | 1 => [0, 1 / 2, 1, 3 / 2, 2, 3, 4, 6]
    | 2 => [0, 1 / 8, 1 / 4, 1 / 2, 1, 2, 4, 8]
    | _ => [0, 1, 2, 3, 4, 6, 8, 12]
  magnitudes.getD m 0

/-- R202: what a code stands for but for the scale: two's complement in type 0, else a signed magnitude; 0b1000 is 0. -/
def Sys2Proof.Claims.rb4Number (type code : Nat) : Rat :=
  if code < 8 then Claims.rb4Magnitude type code
  else if code = 8 then 0
  else -(if type = 0 then Claims.rb4Magnitude 0 (16 - code) else Claims.rb4Magnitude type (code - 8))

/-- R201 to R203, R310, R311: a code decodes exactly to its number times 2^(e − 32), both zeros to +0; a value is encoded as
the nearest magnitude, the even index on a tie, an infinity as the largest and a NaN as 0, with its sign. -/
def Sys2Proof.Claims.Rb4Codes : Prop :=
  ∀ (c : Nat) (w : Word),
    let type := c / 64 % 4
    let scale : Rat := (2 : Rat) ^ ((c % 64 : Nat) - 32 : Int)
    let code : Bool → Nat → Nat := fun neg k => if k = 0 then 0 else if neg then (if type = 0 then 16 - k else 8 + k) else k
    (∀ x, x < 16 → (∃ n m e, fval (rb4Value c x) = .fin n m e ∧ Claims.exact n m e = Claims.rb4Number type x * scale)
      ∧ (x % 8 = 0 → rb4Value c x = 0))
    ∧ ((fval w).isNan = true → rb4Encode c w = 0)
    ∧ (∀ n, fval w = .inf n → rb4Encode c w = code n 7)
    ∧ ∀ n m e, fval w = .fin n m e → ∃ k, k < 8 ∧ rb4Encode c w = code n k ∧ ∀ j, j < 8 → j ≠ k →
        let far : Nat → Rat := fun i => Claims.distance ((m : Rat) * (2 : Rat) ^ e / scale) (Claims.rb4Magnitude type i)
        far k < far j ∨ (far k = far j ∧ k % 2 = 0)

/-- R308 to R312: QMAX, QSCL, whose exponent is the smallest that fits or 63, QPACK and QUNPK, eight codes of
four bits, and IDP4. -/
def Sys2Proof.Claims.QuantInstructions : Prop :=
  ∀ (s : State) (core slot : Nat) (t : Thread) (w : Workgroup) (b a d : Reg) (p : PReg),
    let x := t.rdG a
    let y := t.rdG b
    let abs : Word → Word := fun v => if (fval v).isNan then 0x7FC00000 else v &&& 0x7FFFFFFF
    GivesG s core slot t w (.qmax b a d p) p d (fmax (fmax (t.rdG d) (abs x)) (abs y))
    ∧ (∃ v : Word, GivesG s core slot t w (.qscl b a d p) p d v ∧ v.toNat < 256
        ∧ v.toNat / 64 = (if y.toNat / 4 % 4 = 0 then y.toNat % 4 else 0)
        ∧ (let top : Nat := match y.toNat / 4 % 4, y.toNat % 4 with
            | 0, 0 => 7
            | 0, 1 => 6
            | 0, 2 => 8
            | 0, _ => 12
            | 1, _ => 448
            | 2, _ => 57344
            | _, _ => 127
           let fits : Nat → Prop := fun e => 0 ≤ (FVal.fin false top ((e : Int) - 32)).cmp (fval (abs x))
           ((fval x).isNan = true → v.toNat % 64 = 63)
           ∧ (∀ n, fval x = .inf n → v.toNat % 64 = 63)
           ∧ ((fval x).isNan = false → (fits (v.toNat % 64) ∨ v.toNat % 64 = 63) ∧ ∀ e, e < v.toNat % 64 → ¬ fits e)))
    ∧ (∃ v : Word, GivesG s core slot t w (.qpack b a d p) p d v
        ∧ ∀ i : Nat, i < 8 → v.toNat / 16 ^ i % 16 = rb4Encode (y.toNat % 256) (t.rdG (a + BitVec.ofNat 6 i)))
    ∧ Gives s core slot t w (.qunpk b a d p) p
        ((List.range 8).foldl (fun u i => u.wrG (d + BitVec.ofNat 6 i) (rb4Value (y.toNat % 256) (x.toNat / 16 ^ i % 16))) t)
    ∧ GivesG s core slot t w (.idp4 b a d p) p d (BitVec.ofInt 32 ((t.rdG d).toInt
        + (x.extractLsb' 0 8).toInt * (y.extractLsb' 0 8).toInt + (x.extractLsb' 8 8).toInt * (y.extractLsb' 8 8).toInt
        + (x.extractLsb' 16 8).toInt * (y.extractLsb' 16 8).toInt + (x.extractLsb' 24 8).toInt * (y.extractLsb' 24 8).toInt))

/-- RB4 codes and the QNT group: the parts Rb4Codes and QuantInstructions. -/
def Obligations.QuantResults : Prop :=
  Claims.Rb4Codes ∧ Claims.QuantInstructions

/-- R197: an integer type's least and greatest number, its bits, and what a conversion without saturation gives for a number
out of range or a NaN. -/
def Sys2Proof.Claims.integerType (t : CvtType) : Option (Int × Int × Nat × Word) :=
  match t with
  | .i32 => some (-2 ^ 31, 2 ^ 31 - 1, 32, 0x80000000)
  | .n32 => some (0, 2 ^ 32 - 1, 32, 0xFFFFFFFF)
  | .i8 => some (-128, 127, 8, 0x80)
  | .f32 | .f16 | .bf16 | .e4m3 | .e5m2 => none

/-- R197: the rounding to an integer that a conversion makes in each of its four modes. -/
def Sys2Proof.Claims.IntegerRounding : Prop :=
  ∀ (n : Bool) (m : Nat) (e : Int),
    let x := Claims.exact n m e
    let y : Rounding → Rat := fun r => (toIntegral r n m e : Rat)
    (y .rdn ≤ x ∧ x < y .rdn + 1) ∧ (x ≤ y .rup ∧ y .rup < x + 1)
    ∧ (y .rtz = if n then y .rup else y .rdn)
    ∧ Claims.distance x (y .rne) ≤ 1 / 2 ∧ (Claims.distance x (y .rne) = 1 / 2 → toIntegral .rne n m e % 2 = 0)

/-- R196 to R198, R305: a conversion of a floating or an integer source to a floating type is one rounding of its exact
value; to an integer type a floating source is first rounded to an integer, and what is out of range is clamped with
saturation, or else gives the type's one value; an integer source is clamped with saturation, or keeps its low bits. -/
def Sys2Proof.Claims.Conversions : Prop :=
  ∀ (s : State) (core slot : Nat) (t : Thread) (w : Workgroup) (z : Bool) (r : Rounding) (dt st : CvtType)
    (a d : Reg) (p : PReg),
    let x := t.rdG a
    let g1 := t.rng ^^^ (t.rng * 8192)
    let g2 := g1 ^^^ BitVec.ofNat 32 (g1.toNat / 131072)
    let after := if r = Rounding.sr then g2 ^^^ (g2 * 32) else t.rng
    let source : FFmt → FVal := fun k => k.value (x.toNat % 2 ^ k.width)
    let number : Int := match st with
      | .i32 => x.toInt
      | .i8 => (x.extractLsb' 0 8).toInt
      | .n32 | .f32 | .f16 | .bf16 | .e4m3 | .e5m2 => x.toNat
    let bits : Nat → Int → Word := fun width y => BitVec.ofNat 32 (y % 2 ^ width).toNat
    ∃ v : Word, Gives s core slot t w (.cvt z r dt st a d p) p ({ t with rng := after }.wrG d v)
      ∧ (∀ f k, cvtFmt dt = some f → cvtFmt st = some k → v = BitVec.ofNat 32 (roundVal f r z after.toNat (source k)))
      ∧ (∀ f, cvtFmt dt = some f → (Claims.integerType st).isSome = true →
          v = BitVec.ofNat 32 (roundVal f r z after.toNat (.fin (decide (number < 0)) number.natAbs 0)))
      ∧ ∀ lo hi width bad, Claims.integerType dt = some (lo, hi, width, bad) →
          ((Claims.integerType st).isSome = true → v = bits width (if z then max lo (min hi number) else number))
          ∧ ∀ k, cvtFmt st = some k →
            (source k = .nan → v = if z then 0 else bad)
            ∧ (∀ n, source k = .inf n → v = if z then bits width (if n then lo else hi) else bad)
            ∧ (∀ n m e, source k = .fin n m e → let y := toIntegral r n m e
                v = if y < lo then (if z then bits width lo else bad)
                  else if hi < y then (if z then bits width hi else bad) else bits width y)

/-- R195, R303, R305: the generator's two instructions; a conversion writes the rounded value, draws once in SR
mode and not otherwise. -/
def Sys2Proof.Claims.GeneratorInstructions : Prop :=
  ∀ (s : State) (core slot : Nat) (t : Thread) (w : Workgroup) (z : Bool) (r : Rounding) (dt st : CvtType)
    (a d : Reg) (p : PReg),
    let x := t.rdG a
    let g1 := t.rng ^^^ (t.rng * 8192)
    let g2 := g1 ^^^ BitVec.ofNat 32 (g1.toNat / 131072)
    let next := g2 ^^^ (g2 * 32)
    let after := if r = Rounding.sr then next else t.rng
    Gives s core slot t w (.randSeed a d p) p ({ t with rng := if x = 0 then 0x6A09E667 else x }.wrG d t.rng)
    ∧ Gives s core slot t w (.randDraw d p) p ({ t with rng := next }.wrG d next)
    ∧ ∃ v : Word, Gives s core slot t w (.cvt z r dt st a d p) p
        ({ t with rng := after }.wrG d v)
      ∧ (∀ f k, cvtFmt dt = some f → cvtFmt st = some k →
          v = BitVec.ofNat 32 (roundVal f r z after.toNat (k.value (x.toNat % 2 ^ k.width))))
      ∧ (∀ f, cvtFmt dt = some f → st = .i32 →
          v = BitVec.ofNat 32 (roundVal f r z after.toNat (.ofInt x.toInt)))
      ∧ (dt = .i8 → st = .i32 → v = if z then (BitVec.ofInt 8 (max (-128) (min 127 x.toInt))).setWidth 32
          else (x.setWidth 8).setWidth 32)
      ∧ (∀ n m e, dt = .i32 → st = .f32 → fval x = .fin n m e → let y := toIntegral r n m e
          v = if y < -2 ^ 31 then 0x80000000 else if 2 ^ 31 ≤ y then (if z then 0x7FFFFFFF else 0x80000000)
            else BitVec.ofInt 32 y)
      ∧ (∀ n m e, dt = .n32 → st = .f32 → fval x = .fin n m e → let y := toIntegral r n m e
          v = if y < 0 then (if z then 0 else 0xFFFFFFFF) else if 2 ^ 32 ≤ y then 0xFFFFFFFF else BitVec.ofInt 32 y)
      ∧ (dt = .i32 → st = .f32 → (fval x).isNan = true → v = if z then 0 else 0x80000000)
      ∧ (dt = .n32 → st = .f32 → (fval x).isNan = true → v = if z then 0 else 0xFFFFFFFF)

/-- The generator and the conversions: the parts IntegerRounding, Conversions and GeneratorInstructions. -/
def Obligations.GeneratorResults : Prop :=
  Claims.IntegerRounding ∧ Claims.Conversions ∧ Claims.GeneratorInstructions

/-- A register-only instruction changes in its thread nothing but its destination registers, its generator where it
draws, and its place; no memory, no other thread and no unit changes. -/
def Obligations.LaneFrame : Prop :=
  ∀ (s u : State) (core slot : Nat) (t : Thread) (w : Workgroup) (i : Instr) (x : Dest),
    Lone s core slot t w i → destOf i = some x → exec i s = .next u →
    KeepsMemory s u ∧ KeepsUnits s u ∧ KeepsOthers s u (tkey core slot)
      ∧ ∃ v, u.thread? (tkey core slot) = some v ∧ KeepsRegs t v x.g x.p x.m [] ∧ KeepsRest t v
        ∧ (x.counted = false → v.f = t.f ∧ v.inflight = t.inflight) ∧ (x.draws = false → v.rng = t.rng)

/-- R313, R351: fusion changes no result: a register-only instruction leaves each member of a troupe as it leaves it
when the member issues alone, and every other thread as it was. -/
def Obligations.FusionTransparent : Prop :=
  ∀ (s u : State) (core : Nat) (slots : List Nat) (i : Instr) (x : Dest),
    s.cur = ⟨core, slots⟩ → slots.Nodup → (∀ a ∈ slots, a < 2048) → destOf i = some x →
    (∀ a ∈ slots, ∃ t w, s.thread? (tkey core a) = some t ∧ s.wg? t.wg = some w ∧ issueOk t w i = true) →
    exec i s = .next u →
    (∀ a ∈ slots, ∃ v, exec i { s with cur := ⟨core, [a]⟩ } = .next v
      ∧ u.thread? (tkey core a) = v.thread? (tkey core a))
    ∧ ∀ k, (∀ a ∈ slots, k ≠ tkey core a) → u.thread? k = s.thread? k

/-- R26, R38, R323: one more than the highest general register that an instruction names, a span counted whole: a pair for a
code address, a descriptor, an address of space G and a 64-bit value, four registers for b128 and the four-register formats,
eight for b256 and the packed sets; 64 for the scaled multiplies, which name g56 to g63. -/
def Sys2Proof.Claims.registersNamed (i : Instr) : Nat :=
  match i with
  | .mov16 i s d | .add16 i s d | .sub16 i s d | .mul16 i s d | .and16 i s d | .or16 i s d | .xor16 i s d | .shl16 i s d
  | .shr16 i s d | .sar16 i s d | .min16 i s d | .max16 i s d | .fadd16 i s d | .fmul16 i s d | .fmax16 i s d
  | .fmin16 i s d => if i then d.toNat + 1 else max s.toNat d.toNat + 1
  | .add b a d _ | .sub b a d _ | .mul b a d _ | .mulh b a d _ | .mulhn b a d _ | .and b a d _ | .or b a d _ | .xor b a d _
  | .andn b a d _ | .shl b a d _ | .shr b a d _ | .sar b a d _ | .rot b a d _ | .min b a d _ | .max b a d _ | .minn b a d _
  | .maxn b a d _ | .div b a d _ | .rem b a d _ | .divn b a d _ | .remn b a d _ | .sel b a d _ | .mad b a d _ | .bfe b a d _
  | .bfi b a d _ | .fadd b a d _ | .fsub b a d _ | .fmul b a d _ | .fmin b a d _ | .fmax b a d _ | .fdiv b a d _
  | .ffma b a d _ | .hadd2 b a d _ | .hmul2 b a d _ | .hfma2 b a d _ | .hmax2 b a d _ | .hmin2 b a d _ | .badd2 b a d _
  | .bmul2 b a d _ | .bfma2 b a d _ | .qmax b a d _ | .qscl b a d _ | .idp4 b a d _ | .rdv b a d _ =>
    max (max b.toNat a.toNat) d.toNat + 1
  | .abs a d _ | .neg a d _ | .clz a d _ | .popc a d _ | .brev a d _ | .mov a d _ | .fabs a d _ | .fneg a d _ | .fsqrt a d _
  | .frcp a d _ | .frsq a d _ | .fexp2 a d _ | .flog2 a d _ | .fsin a d _ | .fcos a d _ | .ftanh a d _ | .fflr a d _
  | .fceil a d _ | .frnd a d _ | .ftrc a d _ | .randSeed a d _ | .snapc a d _ | .addi _ a d _ | .andi _ a d _ | .ori _ a d _
  | .xori _ a d _ | .shli _ a d _ | .shri _ a d _ | .sari _ a d _ | .cvt _ _ _ _ a d _ => max a.toNat d.toNat + 1
  | .cmp b a _ _ _ | .cmpn b a _ _ _ | .fcmp b a _ _ _ | .g2p b a _ => max b.toNat a.toNat + 1
  | .movi _ r _ | .p2g r _ | .mpop _ r _ | .s2g _ r _ | .randDraw r _ | .sstep r _ | .mstat _ r _ | .cmpi _ r _ _ _
  | .g2s r _ _ | .tsq _ r _ _ _ | .job r _ _ _ | .waith r _ _ | .bufq _ r _ | .sweep r _ _ | .mand r _ _ _
  | .mor r _ _ _ => r.toNat + 1
  | .tretJmp a _ | .jmpr a _ | .ret a _ | .meet a _ | .call _ a _ | .pgreq a _ _ | .pgqry a _ _ | .cctlL1evict a _ _
  | .cctlL2clean a _ _ | .cctlL2evict a _ _ | .pref a _ _ | .bardrop a _ | .mld a _ _ _ | .mst a _ _ _ _
  | .mmaHBf16 _ a _ _ _ | .mmaHF16 _ a _ _ _ => a.toNat + 2
  | .mmaQE4m3 _ a _ _ _ _ | .mmaQE5m2 _ a _ _ _ _ | .mmaNRb4 _ a _ _ _ | .mmaNI8 _ a _ _ _ _ => max 64 (a.toNat + 2)
  | .callr a d _ => max a.toNat d.toNat + 2
  | .tlbi b a _ | .barinit b a _ | .barexp b a _ | .barwait b a _ | .bartest b a _ _ => max (b.toNat + 1) (a.toNat + 2)
  | .bararv a d _ | .launch a d _ => max (a.toNat + 2) (d.toNat + 1)
  | .lea b a d _ => max (b.toNat + 1) (max a.toNat d.toNat + 2)
  | .sread a d _ => d.toNat + if a.toNat < 16 then 1 else 2
  | .crrd n r _ | .crwr r n _ => r.toNat + if n ∈ [0, 2, 3, 7] then 2 else 1
  | .qpack b a d _ => max (a.toNat + 8) (max b.toNat d.toNat + 1)
  | .qunpk b a d _ => max (d.toNat + 8) (max b.toNat a.toNat + 1)
  | .cpy a _ _ _ | .cpyt _ a _ _ _ | .cpys _ a _ _ _ | .cpyo _ a _ _ _ | .cpyr _ a _ _ _ => a.toNat + 8
  | .ldP _ f b d _ | .ldS _ f b d _ | .ldC _ f b d _ | .ldW _ f b d _ | .stP _ f b d _ | .stS _ f b d _ | .stC _ f b d _
  | .stW _ f b d _ | .ldb _ b d f _ => max (b.toNat + 1) (d.toNat + span f)
  | .ldG _ _ f b d _ _ | .stG _ _ f b d _ => max (b.toNat + 2) (d.toNat + span f)
  | .atom b d _ s c _ | .red b d _ s c _ => max (b.toNat + base s) (d.toNat + if c = .cas64 then 4
      else if c = .cas32 ∨ c = .addN64 ∨ c = .exch64 then 2 else 1)
  | .tsld _ a s _ | .hsave a _ s _ | .hrest a _ s _ => a.toNat + base s
  | _ => 0
where
  span (f : Fmt) : Nat :=
    if f = .b256 then 8 else if f ∈ [.b128, .bf16x4, .e4m3x4, .i8x4] then 4 else if f = .b64 then 2 else 1
  base (s : Space) : Nat := if s = .global then 2 else 1

/-- R43: the control transfers. -/
def Sys2Proof.Claims.Transfers (i : Instr) : Prop :=
  match i with
  | .bra _ _ | .braU _ _ | .call _ _ _ | .jmpr _ _ | .callr _ _ _ | .ret _ _ | .trap _ _ | .tretRetry _ | .tretSkip _
  | .tretJmp _ _ | .exit _ | .halt _ => True
  | _ => False

/-- R45, R48: the operations counted on setA: the loads, ATOM, the divisions, the FPU functions of several cycles, and the
counted reads. -/
def Sys2Proof.Claims.CountsOnA (i : Instr) : Prop :=
  match i with
  | .ldP _ _ _ _ _ | .ldS _ _ _ _ _ | .ldC _ _ _ _ _ | .ldW _ _ _ _ _ | .ldG _ _ _ _ _ _ _ | .ldb _ _ _ _ _
  | .atom _ _ _ _ _ _ | .div _ _ _ _ | .rem _ _ _ _ | .divn _ _ _ _ | .remn _ _ _ _ | .fdiv _ _ _ _ | .fsqrt _ _ _
  | .frcp _ _ _ | .frsq _ _ _ | .fexp2 _ _ _ | .flog2 _ _ _ | .fsin _ _ _ | .fcos _ _ _ | .ftanh _ _ _ | .pgqry _ _ _
  | .tsq _ _ _ _ _ | .bufq _ _ _ | .mstat _ _ _ | .snapc _ _ _ | .crrd _ _ _ | .rdv _ _ _ _ => True
  | _ => False

/-- R40, R47: the matrix operations, counted on setB. -/
def Sys2Proof.Claims.CountsOnB (i : Instr) : Prop :=
  match i with
  | .mmaHBf16 _ _ _ _ _ | .mmaHF16 _ _ _ _ _ | .mmaQE4m3 _ _ _ _ _ _ | .mmaQE5m2 _ _ _ _ _ _ | .mmaNRb4 _ _ _ _ _
  | .mmaNI8 _ _ _ _ _ _ | .mld _ _ _ _ | .mst _ _ _ _ _ => True
  | _ => False

/-- R26, R38, R43, R47, R51: what an instruction may break as it issues: it names a register at or above the declared count;
it is a control transfer with something other than NOP16 after it in its clause; it counts on a set that the clause leaves at
15; or it is a shift whose prefix makes the immediate exceed 31. -/
def Sys2Proof.Claims.IssueFails (t : Thread) (w : Workgroup) (c : Clause) (i : Instr) : Prop :=
  w.sizes.regs < Claims.registersNamed i
  ∨ (Claims.Transfers i ∧ ∃ n b, (t.pc - c.header).toNat - 4 + 4 ≤ n ∧ c.body[n]? = some b ∧ b ≠ 0)
  ∨ (Claims.CountsOnA i ∧ c.setA = 15) ∨ (Claims.CountsOnB i ∧ c.setB = 15)
  ∨ ((∃ m a d p, i = .shli m a d p ∨ i = .shri m a d p ∨ i = .sari m a d p) ∧ ∃ x, t.immx = some x ∧ x ≠ 0)

/-- R26, R38, R43, R47, R51: an instruction that breaks one of these raises ILLEGAL_OP whatever its predicate says, and has
no other effect; one that breaks none passes the checks. That the predicate does not matter, R47 says of flags; for the
checks of R26, R43 and R51 it is the model's reading (DEDUCED, log 27). -/
def Sys2Proof.Claims.IssueChecks : Prop :=
  ∀ (s : State) (core slot : Nat) (t : Thread) (w : Workgroup) (c : Clause) (i : Instr),
    slot < 2048 → s.cur = ⟨core, [slot]⟩ → s.thread? (tkey core slot) = some t → s.wg? t.wg = some w → t.clause = some c →
    s.gather = none → i.encoded = true →
    (Claims.IssueFails t w c i →
      exec i s = .next (takeTrap s (tkey core slot) { cause := .illegalOp } (resumeOf t i) (resumeOf t i).retryPc))
    ∧ (¬ Claims.IssueFails t w c i → issueOk t w i = true)

/-- R52 to R59: reserved words, which no instruction decodes from: a major opcode from 0x38 on, a reserved sub, condition,
format, rounding or qualifier value, a reserved space, special or control register, N outside LD.G, and a prefix payload
above 22 bits. -/
def Sys2Proof.Claims.ReservedWords : Prop :=
  ∀ (w : BitVec 32) (rest : List Byte),
    let major := w.toNat / 2 % 64
    let sub := w.toNat / 2 ^ 10 % 16
    let a := w.toNat / 2 ^ 20 % 64
    let firstReserved : List (Nat × Nat) := [(0x02, 15), (0x04, 13), (0x05, 1), (0x06, 2), (0x07, 6), (0x08, 6), (0x09, 8),
      (0x13, 11), (0x17, 1), (0x18, 5), (0x1A, 8), (0x1B, 5), (0x1F, 4), (0x2D, 2), (0x31, 8), (0x32, 1), (0x33, 4)]
    w.getLsbD 0 = true →
    (0x38 ≤ major ∨ (∃ x ∈ firstReserved, major = x.1 ∧ x.2 ≤ sub)
      ∨ (major = 0x15 ∧ (6 ≤ sub ∧ sub ≤ 9 ∨ sub = 15)) ∨ (major = 0x2E ∧ 3 ≤ sub % 8) ∨ (major = 0x2F ∧ 6 ≤ sub % 8)
      ∨ (major = 0x01 ∧ w.toNat / 2 ^ 29 ≠ 0) ∨ (major = 0x02 ∧ sub = 7 ∧ 19 ≤ a) ∨ (major = 0x02 ∧ sub = 8 ∧ 12 ≤ a)
      ∨ (major = 0x02 ∧ sub = 9 ∧ 12 ≤ w.toNat / 2 ^ 14 % 64)
      ∨ (major = 0x19 ∧ (5 ≤ w.toNat / 2 ^ 28 % 8 ∨ w.toNat / 2 ^ 25 % 8 = w.toNat / 2 ^ 22 % 8))
      ∨ (0x20 ≤ major ∧ major ≤ 0x29 ∧ w.toNat / 2 ^ 23 % 16 = 15)
      ∨ (0x20 ≤ major ∧ major ≤ 0x29 ∧ major ≠ 0x24 ∧ w.getLsbD 10 = true)
      ∨ (0x2B ≤ major ∧ major ≤ 0x2C ∧ 5 ≤ w.toNat / 2 ^ 15 % 8)
      ∨ (major = 0x34 ∧ w.toNat / 2 ^ 18 % 4 ≠ 0) ∨ (major = 0x35 ∧ 2 ≤ w.toNat / 2 ^ 18 % 4)) →
    ∃ e, decode ([w.extractLsb' 0 8, w.extractLsb' 8 8, w.extractLsb' 16 8, w.extractLsb' 24 8] ++ rest) = .error e

/-- R42, R59: bytes of a clause that are no instruction, or a header, raise ILLEGAL_OP in the thread that stands there,
whatever a predicate field in them says. -/
def Sys2Proof.Claims.UndecodedTraps : Prop :=
  ∀ (s : State) (core slot : Nat) (t : Thread) (c : Clause) (e : DecodeError),
    let k := tkey core slot
    let here := if t.immx.isSome then t.pc - 4 else t.pc
    let code := decode (c.body.drop (t.pc - c.header - 4).toNat)
    s.thread? k = some t → t.clause = some c → s.gather = none →
    (code = .error e ∨ ∃ l b a m r, code = .ok (.clauseHeader l b a m, r)) →
    ∃ skip, issueBody core [slot] c t.pc s
      = .next (takeTrap s k { cause := .illegalOp } ⟨.body, some c, here, skip⟩ here)

/-- The checks made at issue: the parts IssueChecks, ReservedWords and UndecodedTraps. -/
def Obligations.IllegalAtIssue : Prop :=
  Claims.IssueChecks ∧ Claims.ReservedWords ∧ Claims.UndecodedTraps
    ∧ ∀ (s : State) (core slot : Nat) (t : Thread) (w : Workgroup) (i : Instr),
      slot < 2048 → s.cur = ⟨core, [slot]⟩ → s.thread? (tkey core slot) = some t → s.wg? t.wg = some w →
      s.gather = none → i.encoded = true → issueOk t w i = false →
      exec i s = .next (takeTrap s (tkey core slot) { cause := .illegalOp } (resumeOf t i) (resumeOf t i).retryPc)

/-- R35, R353: where the predicate is false an instruction has no effect: the thread goes on after it, or with a
control transfer at the end of its clause. -/
def Obligations.SkippedWhenFalse : Prop :=
  ∀ (s : State) (core slot : Nat) (t : Thread) (w : Workgroup) (i : Instr),
    Lone s core slot t w i → i.encoded = true → t.rdP (predOf i) = false →
    exec i s = .next (if isTransfer i then transferTo s (tkey core slot) (resumeOf t i).skipPc
      else goneOn s core slot i)

/-- R42, R44, R407: going on after an instruction and completing a transfer move the thread alone: the address, and
at the end of the clause or at a target the clause boundary. -/
def Obligations.GoingOn : Prop :=
  ∀ (s : State) (core slot : Nat) (t : Thread) (i : Instr) (pc : DWord),
    s.thread? (tkey core slot) = some t →
    let k := tkey core slot
    let next := t.pc + BitVec.ofNat 64 (instrLen i)
    (goneOn s core slot i).thread? k = some { t.retire s.now (s.cycles (coreOf k)) with
        pc := next
        clause := match t.clause with
          | some c => if next = c.stop then none else some c
          | none => none }
    ∧ (transferTo s k pc).thread? k = some { t.retire s.now (s.cycles (coreOf k)) with pc := pc, clause := none }
    ∧ KeepsOthers s (goneOn s core slot i) k ∧ KeepsOthers s (transferTo s k pc) k
    ∧ KeepsMemory s (goneOn s core slot i) ∧ KeepsMemory s (transferTo s k pc)
    ∧ KeepsUnits s (goneOn s core slot i) ∧ KeepsUnits s (transferTo s k pc)

/-- R41, R109: a header whose clause is fetched starts the clause once the flags of its mask are zero and no
deferred trap is due; until then the thread waits, and a fetch that traps does so at the header. -/
def Sys2Proof.Claims.ClauseEntry : Prop :=
  ∀ (s r : State) (core slot : Nat) (t : Thread) (w : Workgroup) (l : BitVec 5) (b a : HReg) (mask : BitVec 12)
    (body : List Byte) (f : Fetched),
    let k := tkey core slot
    let i := Instr.clauseHeader l b a mask
    Lone s core slot t w i → fetchFor s k t w (t.pc.toNat + 4) (4 * l.toNat) = (f, r) →
    (f = .code body → (∀ n, n < 12 → mask.getLsbD n = true → t.rdF n = 0) → t.deferred = [] →
      exec i s = .next (r.setThread k { t.retire s.now (s.cycles core) with
        pc := t.pc + 4
        clause := some ⟨t.pc, t.pc + 4 + BitVec.ofNat 64 (4 * l.toNat), a, b, body⟩ }))
    ∧ (∀ n, f = .code body → n < 12 → mask.getLsbD n = true → t.rdF n ≠ 0 →
        exec i s = .next (holdThread r k .mask))
    ∧ (f = .busy → exec i s = .next (holdThread r k .busy))
    ∧ (∀ c info va, f = .trap c info va → r.gather = none → exec i s = .next (takeTrap r k
        { cause := c, info := info, addr := some va, space := some .global } (resumeOf t i) (resumeOf t i).retryPc))

/-- R51: a prefix before an instruction of majors 0x0A to 0x12 hands it the payload; before anything else it raises
ILLEGAL_OP. -/
def Sys2Proof.Claims.PrefixEntry : Prop :=
  ∀ (s : State) (core slot : Nat) (t : Thread) (w : Workgroup) (x : BitVec 22) (c : Clause) (e : List Byte) (v : Nat),
    let k := tkey core slot
    Lone s core slot t w (.immx x) → t.clause = some c →
    (∀ y : BitVec 32, c.body.drop (t.pc + 4 - c.header - 4).toNat = [y.extractLsb' 0 8, y.extractLsb' 8 8,
        y.extractLsb' 16 8, y.extractLsb' 24 8] ++ e → y.toNat / 2 % 64 = v →
      (y.getLsbD 0 = true → 0x0A ≤ v → v ≤ 0x12 →
        exec (.immx x) s = .next (s.setThread k { t.retire s.now (s.cycles core) with pc := t.pc + 4, immx := some x }))
      ∧ (y.getLsbD 0 = false ∨ v < 0x0A ∨ 0x12 < v →
        exec (.immx x) s = .next (takeTrap s k { cause := .illegalOp } (resumeOf t (.immx x))
          (resumeOf t (.immx x)).retryPc)))

/-- Headers and prefixes: the parts ClauseEntry and PrefixEntry. -/
def Obligations.ClauseStart : Prop :=
  Claims.ClauseEntry ∧ Claims.PrefixEntry

/-- R44, R353: the transfers; the clause is that of header hdr that ends at stop. -/
def Obligations.TransferResults : Prop :=
  ∀ (s : State) (core slot : Nat) (t : Thread) (w : Workgroup) (o : BitVec 22) (o16 : BitVec 16) (a d : Reg)
    (p : PReg) (c : Clause),
    let k := tkey core slot
    let jumps : Instr → State → DWord → Prop := fun i u pc =>
      Lone s core slot t w i → t.rdP p = true → exec i s = .next (transferTo u k pc)
    let pair : DWord := BitVec.ofNat 64 ((t.rdG a).toNat + 2 ^ 32 * (t.rdG (a + 1)).toNat)
    let link := (t.wrG d (c.stop.extractLsb' 0 32)).wrG (d + 1) (c.stop.extractLsb' 32 32)
    t.clause = some c →
    jumps (.bra o p) s (c.header + BitVec.ofInt 64 (4 * o.toInt))
    ∧ jumps (.braU o p) s (c.header + BitVec.ofInt 64 (4 * o.toInt))
    ∧ jumps (.call o16 d p) (s.setThread k link) (c.header + BitVec.ofInt 64 (4 * o16.toInt))
    ∧ (pair.toNat % 4 = 0 → jumps (.jmpr a p) s pair ∧ jumps (.ret a p) s pair
        ∧ jumps (.callr a d p) (s.setThread k link) pair)
    ∧ (pair.toNat % 4 ≠ 0 → Traps s core slot t w (.jmpr a p) p { cause := .illegalOp }
        ∧ Traps s core slot t w (.ret a p) p { cause := .illegalOp }
        ∧ Traps s core slot t w (.callr a d p) p { cause := .illegalOp })

/-- R354, R355: in a troupe of two whose predicates differ, BRA.U counts once in DIV_HINT_CNT and each member goes
its own way; with UNICHK.EN each enters its handler for DIV_HINT, TRAPADDR at the BRA.U, to resume where the branch
took it. -/
def Obligations.UniformBranchDiverges : Prop :=
  ∀ (s : State) (core x y : Nat) (t v : Thread) (w : Workgroup) (o : BitVec 22) (p : PReg) (c : Clause),
    x < y → y < 2048 → s.cur = ⟨core, [x, y]⟩ →
    s.thread? (tkey core x) = some t → s.thread? (tkey core y) = some v → t.wg = v.wg → s.wg? t.wg = some w →
    t.clause = some c → v.clause = some c → t.pc = v.pc →
    issueOk t w (.braU o p) = true → issueOk v w (.braU o p) = true → t.rdP p = true → v.rdP p = false →
    w.crWrites = [] → s.gather = none →
    ∃ u, exec (.braU o p) s = .next u
      ∧ (u.core core).counters.divHint = min ((s.core core).counters.divHint + 1) 0xFFFFFFFF
      ∧ (w.unichk = false → ∃ a b, u.thread? (tkey core x) = some a ∧ u.thread? (tkey core y) = some b
          ∧ a.pc = c.header + BitVec.ofInt 64 (4 * o.toInt) ∧ b.pc = c.stop ∧ a.clause = none ∧ b.clause = none)
      ∧ (w.unichk = true → w.trapen.getLsbD 11 = true → t.ta = false → v.ta = false →
          ∃ a b, u.thread? (tkey core x) = some a ∧ u.thread? (tkey core y) = some b
          ∧ a.ta = true ∧ b.ta = true ∧ a.pc = w.trapvec ∧ b.pc = w.trapvec ∧ a.trapAddr = t.pc ∧ b.trapAddr = t.pc
          ∧ (∃ r, a.resume = some r ∧ r.retryPc = c.header + BitVec.ofInt 64 (4 * o.toInt) ∧ r.skipPc = r.retryPc)
          ∧ (∃ r, b.resume = some r ∧ r.retryPc = c.stop ∧ r.skipPc = r.retryPc))

/-- R356, R409: MEET and its two forms, NOP and YIELD, after which the thread is not ready. -/
def Sys2Proof.Claims.PlaceResults : Prop :=
  ∀ (s : State) (core slot : Nat) (t : Thread) (w : Workgroup) (a : Reg) (p : PReg),
    let pair : DWord := BitVec.ofNat 64 ((t.rdG a).toNat + 2 ^ 32 * (t.rdG (a + 1)).toNat)
    (pair.toNat % 4 = 0 → Gives s core slot t w (.meet a p) p { t with meet := some pair })
    ∧ (pair.toNat % 4 ≠ 0 → Traps s core slot t w (.meet a p) p { cause := .illegalOp })
    ∧ Gives s core slot t w (.meetClr p) p { t with meet := none }
    ∧ Gives s core slot t w (.nop p) p t
    ∧ Gives s core slot t w (.yield p) p { t with yielded := some (s.cycles core) }
    ∧ (∀ u : State, Lone s core slot t w (.yield p) → t.rdP p = true → exec (.yield p) s = .next u →
        slotReady u core slot = false)

/-- R166, R409: EXIT ends a thread all of whose flags are zero, with nothing in flight, whose core has no acknowledgement outstanding and
which has no trap due; it waits for the flags and then the counter, and a deferred trap is raised at it. An ended
thread has left its slot and counts as exited. -/
def Sys2Proof.Claims.ExitResults : Prop :=
  ∀ (s : State) (core slot : Nat) (t : Thread) (w : Workgroup) (p : PReg) (d : Deferred) (ds : List Deferred),
    let k := tkey core slot
    Lone s core slot t w (.exit p) → t.rdP p = true →
    ((∀ n, n < 12 → t.rdF n = 0) → t.inflight = [] → (s.core core).acks = 0 → t.deferred = [] → ∃ u, exec (.exit p) s = .next u
      ∧ u.thread? k = none ∧ KeepsOthers s u k ∧ KeepsMemory s u ∧ KeepsUnits s u
      ∧ ∃ x, u.wg? t.wg = some x ∧ t.lin ∈ x.exited)
    ∧ (∀ n, n < 12 → t.rdF n ≠ 0 → exec (.exit p) s = .next (holdThread s k .exitFlags))
    ∧ ((∀ n, n < 12 → t.rdF n = 0) → (s.core core).acks ≠ 0 → exec (.exit p) s = .next (holdThread s k .acks))
    ∧ ((∀ n, n < 12 → t.rdF n = 0) → (s.core core).acks = 0 → t.deferred = d :: ds →
        exec (.exit p) s = .next (takeTrap (s.setThread k { t with deferred := ds }) k d.trap
          (resumeDeferred t) d.pc))

/-- MEET, NOP, YIELD and EXIT: the parts PlaceResults and ExitResults. -/
def Obligations.PlaceAndExit : Prop :=
  Claims.PlaceResults ∧ Claims.ExitResults

/-- R403, R404: taking a trap with TRAPEN set for its cause. T.resume, TRAPCAUSE, TRAPADDR and TRAPTID are
written, TA is 1, and the thread stands at the clause boundary at TRAPVEC; its registers, flags and handles, every
other thread, every memory and every unit stay as they were. -/
def Obligations.TrapEntry : Prop :=
  ∀ (s : State) (core slot : Nat) (t : Thread) (w : Workgroup) (ti : TrapInfo) (r : Resume) (pc : DWord),
    let k := tkey core slot
    let u := takeTrap s k ti r pc
    slot < 2048 → s.thread? k = some t → s.wg? t.wg = some w → t.ta = false → w.trapen.getLsbD ti.cause.code = true →
    KeepsOthers s u k ∧ KeepsMemory s u ∧ KeepsUnits s u
    ∧ ∃ v, u.thread? k = some v ∧ v.ta = true ∧ v.pc = w.trapvec ∧ v.clause = none ∧ v.resume = some r
      ∧ v.trapAddr = pc ∧ KeepsRegs t v [] [] [] [] ∧ v.f = t.f ∧ v.inflight = t.inflight ∧ v.rng = t.rng
      ∧ v.meet = t.meet ∧ v.retry = t.retry
      ∧ v.trapCause.toNat % 2 ^ 5 = ti.cause.code
      ∧ v.trapCause.toNat / 2 ^ 5 % 2 ^ 3 = (match ti.space with
          | some .slice => 0
          | some .scratch => 1
          | some .window => 2
          | some .wafer => 3
          | some .global => 4
          | none => 7)
      ∧ v.trapCause.getLsbD 8 = ti.write ∧ v.trapCause.getLsbD 9 = ti.defer ∧ v.trapCause.getLsbD 10 = false
      ∧ v.trapCause.getLsbD 11 = ti.addr.isSome ∧ v.trapCause.toNat / 2 ^ 12 = ti.addr.getD 0 % 2 ^ 52
      ∧ v.trapTid.toNat % 2 ^ 11 = slot ∧ v.trapTid.toNat / 2 ^ 16 % 2 ^ 10 = t.lin % 2 ^ 10
      ∧ v.trapTid.toNat / 2 ^ 26 = ti.info % 2 ^ 6

/-- R403, R404: a trap with TA already 1 goes to containment with NEST set, T.resume unchanged and the thread still in its
handler; one whose TRAPEN bit is 0 goes there with the three trap registers as they were. -/
def Sys2Proof.Claims.TrapToContainment : Prop :=
  ∀ (s : State) (core slot : Nat) (t : Thread) (w : Workgroup) (ti : TrapInfo) (r : Resume) (pc : DWord),
    let k := tkey core slot
    slot < 2048 → s.thread? k = some t → s.wg? t.wg = some w →
    (t.ta = true → ∃ v, takeTrap s k ti r pc = containment (s.setThread k v) k ti r pc
      ∧ v.trapCause.getLsbD 10 = true ∧ v.resume = t.resume ∧ v.ta = true ∧ v.trapAddr = pc)
    ∧ (t.ta = false → w.trapen.getLsbD ti.cause.code = false →
        ∃ v, takeTrap s k ti r pc = containment (s.setThread k v) k ti r pc
      ∧ v.trapCause = t.trapCause ∧ v.trapAddr = t.trapAddr ∧ v.trapTid = t.trapTid ∧ v.resume = t.resume ∧ v.ta = false)

/-- R400, R407, R408: what CONTAIN's policy for the thread decides: 00 absorbs DIV_HINT and SWTRAP, 01 retries a
retryable cause three times after 256, 1,024 and 4,096 cycles, 10 kills the thread, 11 its workgroup; a policy that
cannot absorb passes the trap to the next level. -/
def Sys2Proof.Claims.ContainmentPolicies : Prop :=
  ∀ (s : State) (k : Nat) (t : Thread) (w : Workgroup) (ti : TrapInfo) (r : Resume) (pc : DWord),
    s.thread? k = some t → s.wg? t.wg = some w →
    let u := containment s k ti r pc
    (w.contain % 4 = 0 → ti.cause = .divHint ∨ ti.cause = .swtrap → u = resumeAt s k r true)
    ∧ (w.contain % 4 = 1 → ti.cause = .pageAbsent ∨ ti.cause = .bufState ∨ ti.cause = .watchdog
        ∨ ti.cause = .remoteTimeout ∨ (ti.cause = .eccUncorr ∧ ti.info = 0) → t.retry < 3 →
        ∃ v, u.thread? k = some v ∧ v.retry = t.retry + 1 ∧ v.pc = r.retryPc
          ∧ v.backoff = some (s.cycles (coreOf k) + 256 * 4 ^ t.retry))
    ∧ (w.contain % 4 = 2 → u.thread? k = none ∧ KeepsOthers s u k
        ∧ ∃ x, u.wg? t.wg = some x ∧ x.exited = w.exited ++ [t.lin])
    ∧ (w.contain % 4 = 3 → w.phase = .running → ∃ x, u.wg? t.wg = some x ∧ x.killed = true
        ∧ ∀ j v, u.thread? j = some v → v.wg ≠ t.wg)
    ∧ (w.contain % 4 = 0 → ti.cause ≠ .divHint → ti.cause ≠ .swtrap → w.contain / 4 % 4 = 2 → w.phase = .running →
        ∃ x, u.wg? t.wg = some x ∧ x.killed = true)
    ∧ (w.contain % 4 = 1 → 3 ≤ t.retry → w.contain / 4 % 4 = 2 → w.phase = .running →
        ∃ x, u.wg? t.wg = some x ∧ x.killed = true)

/-- Containment of a trap no handler takes: the parts TrapToContainment and ContainmentPolicies. -/
def Obligations.Containment : Prop :=
  Claims.TrapToContainment ∧ Claims.ContainmentPolicies

/-- R409: TRAP raises SWTRAP with its code as INFO: a handler entered from it is where the thread stands next. -/
def Obligations.SoftwareTrap : Prop :=
  ∀ (s : State) (core slot : Nat) (t : Thread) (w : Workgroup) (n : Reg) (p : PReg) (c : Clause),
    Lone s core slot t w (.trap n p) → t.rdP p = true → t.clause = some c → t.immx = none →
    t.ta = false → w.trapen.getLsbD 14 = true →
    ∃ u v, exec (.trap n p) s = .next u ∧ u.thread? (tkey core slot) = some v
      ∧ v.ta = true ∧ v.pc = w.trapvec ∧ v.clause = none ∧ v.trapAddr = t.pc
      ∧ v.trapCause.toNat % 2 ^ 5 = 14 ∧ v.trapTid.toNat / 2 ^ 26 = n.toNat
      ∧ ∃ r, v.resume = some r ∧ r.retryPc = t.pc ∧ r.skipPc = c.stop ∧ r.clause = some c

/-- R406: TRET in a handler; what it restores for an instruction within a body (kind body or transfer), for a header
and for TRET.JMP; the wait for the handler's counted operations; outside a handler, and with a misaligned address, it
traps. -/
def Obligations.TrapReturn : Prop :=
  ∀ (s : State) (core slot : Nat) (t : Thread) (w : Workgroup) (a : Reg) (p : PReg) (r : Resume) (c : Clause),
    let k := tkey core slot
    let pair : DWord := BitVec.ofNat 64 ((t.rdG a).toNat + 2 ^ 32 * (t.rdG (a + 1)).toNat)
    let back : Instr → DWord → Option Clause → Prop := fun i pc cl => Lone s core slot t w i → t.rdP p = true →
      ∃ u v, exec i s = .next u ∧ u.thread? k = some v ∧ v.ta = false ∧ v.pc = pc ∧ v.clause = cl
        ∧ KeepsRegs t v [] [] [] [] ∧ v.f = t.f ∧ KeepsOthers s u k ∧ KeepsMemory s u ∧ KeepsUnits s u
    (t.ta = true → t.inflight.any (·.inTrap) = false → t.resume = some r →
      (r.kind = .body ∨ r.kind = .transfer → r.clause = some c →
        back (.tretRetry p) r.retryPc (if r.retryPc = c.stop then none else some c)
        ∧ back (.tretSkip p) r.skipPc (if r.skipPc = c.stop then none else some c))
      ∧ (r.kind = .header ∨ r.kind = .divHint → back (.tretRetry p) r.retryPc none ∧ back (.tretSkip p) r.skipPc none))
    ∧ (t.ta = true → t.inflight.any (·.inTrap) = false → pair.toNat % 4 = 0 → back (.tretJmp a p) pair none)
    ∧ (t.ta = true → t.inflight.any (·.inTrap) = false → pair.toNat % 4 ≠ 0 →
        Traps s core slot t w (.tretJmp a p) p { cause := .illegalOp })
    ∧ (t.ta = true → t.inflight.any (·.inTrap) = true → Lone s core slot t w (.tretRetry p) → t.rdP p = true →
        exec (.tretRetry p) s = .next (holdThread s k .tret))
    ∧ (t.ta = false → ∀ i, i = .tretRetry p ∨ i = .tretSkip p ∨ i = .tretJmp a p →
        Traps s core slot t w i p { cause := if w.super then .illegalOp else .priv })

/-- R116, R237, R401, R409: in user context the privileged instructions raise PRIV and have no other effect. -/
def Obligations.PrivilegeTraps : Prop :=
  ∀ (s : State) (core slot : Nat) (t : Thread) (w : Workgroup) (i : Instr) (a b d : Reg) (h : HReg) (p : PReg),
    t.ta = false → w.super = false →
    i = .halt p ∨ i = .snapc a d p ∨ i = .crrd a d p ∨ i = .crwr a d p ∨ i = .sweep b h p ∨ i = .tlbi b a p
      ∨ i = .cctlL1flush h p ∨ i = .tretRetry p ∨ i = .tretSkip p ∨ i = .tretJmp a p →
    Traps s core slot t w i p { cause := .priv }

/-- R57, R382, R410: the special registers that SREAD reads; the 64-bit ones into a pair. -/
def Sys2Proof.Claims.SpecialReads : Prop :=
  ∀ (s : State) (core slot : Nat) (t : Thread) (w : Workgroup) (a d : Reg) (p : PReg) (x : Nat),
    (a.toNat < 16 → x = (match a.toNat with
        | 0 => t.lin % w.sizes.wgX
        | 1 => t.lin / w.sizes.wgX % w.sizes.wgY
        | 2 => t.lin / (w.sizes.wgX * w.sizes.wgY)
        | 3 => w.coords.x
        | 4 => w.coords.y
        | 5 => w.coords.z
        | 6 => w.sizes.wgX
        | 7 => w.sizes.wgY
        | 8 => w.sizes.wgZ
        | 9 => w.sizes.gridX
        | 10 => w.sizes.gridY
        | 11 => w.sizes.gridZ
        | 12 => w.coords.stage
        | 13 => w.coords.rank
        | 14 => s.launch.cores.idxOf core
        | _ => w.migr) →
      GivesG s core slot t w (.sread a d p) p d (BitVec.ofNat 32 x))
    ∧ (let two : Nat → Thread := fun v => (t.wrG d (BitVec.ofNat 32 v)).wrG (d + 1) (BitVec.ofNat 32 (v / 2 ^ 32))
       (a = 17 → Gives s core slot t w (.sread a d p) p (two (s.cycles core)))
       ∧ (a = 18 → Gives s core slot t w (.sread a d p) p (two w.refcost))
       ∧ (a = 16 →
          let f := s.field (fieldOfCore core)
          let raw : Int := ((s.now + s.time.shift) * 125 : Nat) + f.skew - f.ofs
          ∃ v, f.lastTime ≤ v ∧ w.lastTime ≤ v
          ∧ Leaves s core slot t w (.sread a d p) p (((s.modField (fieldOfCore core) fun x => { x with lastTime := v }).modWg t.wg
              fun x => { x with lastTime := v }).setThread (tkey core slot) (two v))
          ∧ ((f.lastTime : Int) * 1000 ≤ raw → (w.lastTime : Int) * 1000 ≤ raw → (v : Int) = raw / 1000)))

/-- R58, R403, R410: CRRD is counted on setA and reads the named register, low word first; CRWR of a value that
keeps the register's zero bits is applied at the writer's next clause boundary, any other raises ILLEGAL_OP, and so
does HASHDOM raise PRIV without the host's leave. -/
def Sys2Proof.Claims.ControlRegisters : Prop :=
  ∀ (s : State) (core slot : Nat) (t : Thread) (w : Workgroup) (a d : Reg) (p : PReg),
    t.ta = true ∨ w.super = true →
    let x : DWord := match a.toNat with
      | 0 => w.trapvec
      | 1 => w.trapen.setWidth 64
      | 2 => t.trapCause
      | 3 => t.trapAddr
      | 4 => t.trapTid.setWidth 64
      | 5 => BitVec.ofNat 64 w.contain
      | 6 => BitVec.ofNat 64 w.asid
      | 7 => BitVec.ofNat 64 w.ptbase
      | 8 => BitVec.ofNat 64 w.hashdom
      | 9 => BitVec.ofNat 64 w.mhold
      | 10 => BitVec.ofNat 64 w.unichk.toNat
      | _ => BitVec.ofNat 64 w.lead
    let v : DWord := if d = 0 ∨ d = 7 then BitVec.ofNat 64 ((t.rdG a).toNat + 2 ^ 32 * (t.rdG (a + 1)).toNat)
      else (t.rdG a).setWidth 64
    let fits : Prop := match d.toNat with
      | 0 => v.toNat < 2 ^ 52 ∧ v.toNat % 4 = 0
      | 1 => v.toNat < 2 ^ 15 ∧ v.toNat % 2 = 0
      | 5 | 6 => v.toNat < 2 ^ 8
      | 7 => v.toNat < 2 ^ 48 ∧ v.toNat % 256 = 0
      | 8 => v.toNat < 2 ^ 10
      | 9 => v.toNat < 2 ^ 16
      | 10 => v.toNat < 2
      | 11 => v.toNat < 8
      | _ => False
    (a = 0 ∨ a = 2 ∨ a = 3 ∨ a = 7 → GivesCounted s core slot t w (.crrd a d p) p
      [.g d (x.extractLsb' 0 32), .g (d + 1) (x.extractLsb' 32 32)])
    ∧ (a = 1 ∨ a = 4 ∨ a = 5 ∨ a = 6 ∨ a = 8 ∨ a = 9 ∨ a = 10 ∨ a = 11 →
        GivesCounted s core slot t w (.crrd a d p) p [.g d (x.extractLsb' 0 32)])
    ∧ (fits → (d = 8 → s.hdSvw = true) → Leaves s core slot t w (.crwr a d p) p
        (s.setWg t.wg { w with crWrites := w.crWrites ++ [⟨tkey core slot, d.toNat, v⟩] }))
    ∧ (¬ fits → (d = 8 → s.hdSvw = true) → Traps s core slot t w (.crwr a d p) p { cause := .illegalOp })
    ∧ (d = 8 → s.hdSvw = false → Traps s core slot t w (.crwr a d p) p { cause := .priv })

/-- R403: at its writer's next clause boundary a control register takes the value written last, and no other
writer's write is applied there. -/
def Sys2Proof.Claims.ControlWritesApply : Prop :=
  ∀ (s : State) (k g : Nat) (t : Thread) (w : Workgroup) (v : DWord),
    s.thread? k = some t → t.wg = g → s.wg? g = some w →
    let after : Nat → Workgroup → Prop := fun n x =>
      (atBoundary (s.setWg g { w with crWrites := [⟨k, n, v⟩] }) k).wg? g = some x
    (∀ x, after 0 x → x.trapvec = v ∧ x.crWrites = []) ∧ (∀ x, after 1 x → x.trapen = v.setWidth 32)
    ∧ (v.toNat < 256 → ∀ x, after 5 x → x.contain = v.toNat) ∧ (v.toNat < 256 → ∀ x, after 6 x → x.asid = v.toNat)
    ∧ (∀ x, after 7 x → x.ptbase = v.toNat) ∧ (v.toNat < 1024 → ∀ x, after 8 x → x.hashdom = v.toNat)
    ∧ (v.toNat < 65536 → ∀ x, after 9 x → x.mhold = v.toNat) ∧ (v.toNat < 2 → ∀ x, after 10 x → x.unichk.toNat = v.toNat)
    ∧ (v.toNat < 8 → ∀ x, after 11 x → x.lead = v.toNat)
    ∧ ∀ j n, j ≠ k → ∃ x, (atBoundary (s.setWg g { w with crWrites := [⟨j, n, v⟩] }) k).wg? g = some x
        ∧ x.crWrites = [⟨j, n, v⟩] ∧ x.trapvec = w.trapvec ∧ x.trapen = w.trapen ∧ x.asid = w.asid ∧ x.ptbase = w.ptbase

/-- Special and control registers: the parts SpecialReads, ControlRegisters and ControlWritesApply. -/
def Obligations.RegisterAccess : Prop :=
  Claims.SpecialReads ∧ Claims.ControlRegisters ∧ Claims.ControlWritesApply

/-- R411, R412: HALT in supervisor context stops the thread for good, records its slot and tells the control node;
SNAPC, as a plain store with no lane remap under way, writes 256 bytes to scratch, %cycle and the lane-remap generation
first, and is counted on setA. -/
def Obligations.HaltAndSnapshot : Prop :=
  ∀ (s : State) (core slot : Nat) (t : Thread) (w : Workgroup) (a d : Reg) (p : PReg),
    t.ta = true ∨ w.super = true →
    let k := tkey core slot
    let off := (t.rdG a).toNat
    (Lone s core slot t w (.halt p) → t.rdP p = true → ∃ u, exec (.halt p) s = .next u
      ∧ u.thread? k = some { t with run := .halted, wait := none } ∧ KeepsOthers s u k ∧ KeepsMemory s u
      ∧ (u.core core).haltValid = true ∧ (u.core core).haltSlot = slot
      ∧ (s.link.msgs.length < 1024 → ∃ m, u.link.msgs = s.link.msgs ++ [m]))
    ∧ (Settled s k t → off % 256 = 0 → off + 256 ≤ w.sizes.scratch → (∀ r ∈ (s.core core).rows.toList, r.pending = none) →
        ∃ bs : List Byte,
        bs.length = 256 ∧ bs.take 8 = natBytes 8 (s.cycles core)
        ∧ bs.drop 8 = natBytes 1 ((s.core core).laneGen % 256) ++ bs.drop 9
        ∧ Leaves s core slot t w (.snapc a d p) p
          ((s.setWg t.wg { w with scratch := writeBytes w.scratch off bs }).setThread k
            (t.countResult [.g d (BitVec.ofNat 32 ((s.core core).laneGen % 256))])))
    ∧ (Settled s k t → off % 256 ≠ 0 → Traps s core slot t w (.snapc a d p) p
        { cause := .align, addr := some off, space := some .scratch, write := true })
    ∧ (Settled s k t → off % 256 = 0 → w.sizes.scratch < off + 256 → Traps s core slot t w (.snapc a d p) p
        { cause := .perm, addr := some off, space := some .scratch, write := true })

/-- R199, R212: what a load of each format writes, register by register, and what a store takes: integers are
extended or cut, floating formats widen exactly and narrow RNE with saturation, and words go through unchanged. -/
def Obligations.MemoryFormats : Prop :=
  let halves : BitVec 16 → List Byte := fun v => [v.setWidth 8, v.extractLsb' 8 8]
  (∀ x : Byte, fmtLoad .b8 [x] = [x.setWidth 32] ∧ fmtLoad .i8 [x] = [x.signExtend 32]
    ∧ fmtLoad .e4m3 [x] = [fround (e4m3Fmt.value x.toNat)] ∧ fmtLoad .e5m2 [x] = [fround (e5m2Fmt.value x.toNat)])
  ∧ (∀ x y : Byte, fmtLoad .b16 [x, y] = [(y ++ x).setWidth 32] ∧ fmtLoad .i16 [x, y] = [(y ++ x).signExtend 32]
    ∧ fmtLoad .bf16 [x, y] = [fround (bf16Fmt.value (y ++ x).toNat)]
    ∧ fmtLoad .f16 [x, y] = [fround (f16Fmt.value (y ++ x).toNat)])
  ∧ (∀ w : Word, fmtStore .b8 [w] = [w.setWidth 8] ∧ fmtStore .i8 [w] = [w.setWidth 8]
    ∧ fmtStore .b16 [w] = [w.setWidth 8, w.extractLsb' 8 8] ∧ fmtStore .i16 [w] = [w.setWidth 8, w.extractLsb' 8 8]
    ∧ fmtStore .bf16 [w] = halves (BitVec.ofNat 16 (roundVal bf16Fmt .rne true 0 (fval w)))
    ∧ fmtStore .f16 [w] = halves (BitVec.ofNat 16 (roundVal f16Fmt .rne true 0 (fval w)))
    ∧ fmtStore .e4m3 [w] = [BitVec.ofNat 8 (roundVal e4m3Fmt .rne true 0 (fval w))]
    ∧ fmtStore .e5m2 [w] = [BitVec.ofNat 8 (roundVal e5m2Fmt .rne true 0 (fval w))])
  ∧ (∀ x y z u : Byte, fmtLoad .e4m3x4 [x, y, z, u] = [x, y, z, u].map (fun v => fround (e4m3Fmt.value v.toNat))
    ∧ fmtLoad .i8x4 [x, y, z, u] = [x, y, z, u].map (·.signExtend 32))
  ∧ (∀ a b c d e f g h : Byte, fmtLoad .bf16x4 [a, b, c, d, e, f, g, h] =
      [b ++ a, d ++ c, f ++ e, h ++ g].map fun v : BitVec 16 => fround (bf16Fmt.value v.toNat))
  ∧ (∀ a b c d : Word, fmtStore .i8x4 [a, b, c, d] =
      [a, b, c, d].map (fun w => BitVec.ofInt 8 (max (-128) (min 127 w.toInt)))
    ∧ fmtStore .e4m3x4 [a, b, c, d] =
      [a, b, c, d].map (fun w => BitVec.ofNat 8 (roundVal e4m3Fmt .rne true 0 (fval w)))
    ∧ fmtStore .bf16x4 [a, b, c, d] =
      [a, b, c, d].flatMap fun w => halves (BitVec.ofNat 16 (roundVal bf16Fmt .rne true 0 (fval w))))
  ∧ (∀ (f : Fmt) (ws : List Word), f = .b32 ∨ f = .b64 ∨ f = .b128 ∨ f = .b256 → ws.length = f.regs →
      (fmtStore f ws).length = fmtSize f ∧ fmtLoad f (fmtStore f ws) = ws)
  ∧ ∀ (f : Fmt) (ws : List Word), ws.length = f.regs → (fmtStore f ws).length = fmtSize f

/-- R209, R212, R217, R135, R427: an aligned load within its bound in P, S, C and W, counted on setA; one from a bank
whose clock is stopped is pending until it runs. -/
def Sys2Proof.Claims.LocalLoads : Prop :=
  ∀ (s : State) (core slot : Nat) (t : Thread) (w x : Workgroup) (o : MOrd) (f : Fmt) (b d : Reg) (p : PReg) (m : Nat),
    let base := (t.rdG b).toNat
    let n := fmtSize f
    let gives : Instr → List Byte → Prop := fun i bytes => LeavesSettled s core slot t w i p
      (s.setThread (tkey core slot) (t.countResult (spanWrites d (fmtLoad f bytes))))
    (base % n = 0 → base + n ≤ w.sizes.slice →
      gives (.ldP o f b d p) (readBytes ((mget w.slices t.lin).getD []) base n))
    ∧ (base % n = 0 → base + n ≤ w.sizes.scratch → gives (.ldS o f b d p) (readBytes w.scratch base n))
    ∧ (base % 2 ^ 24 % n = 0 → base / 2 ^ 24 < max 1 w.sizes.cgsize → base % 2 ^ 24 + n ≤ w.sizes.window →
        memberOf s t.wg w (base / 2 ^ 24) = some m → s.wg? m = some x →
        gives (.ldC o f b d p) (readBytes x.scratch (base % 2 ^ 24) n))
    ∧ (base % n = 0 → (t.ta = true ∨ w.super = true ∨ (w.grantLo ≤ base ∧ base + n ≤ w.grantHi)) →
        (s.clusterRuns (base / 2 ^ 24) = true → gives (.ldW o f b d p) (readBytes s.wmem base n))
        ∧ (s.clusterRuns (base / 2 ^ 24) = false → Settled s (tkey core slot) t →
            Completes s core slot t w (.ldW o f b d p) p fun u => u.wmem = s.wmem ∧ u.vmem = s.vmem
              ∧ ∃ id a, mget u.accs id = some a ∧ a.thread = tkey core slot ∧ a.place = some (.wafer base) ∧ a.size = n
                ∧ a.op = .load f d ∧ u.thread? (tkey core slot) = some (t.count { flag := t.flagA, result := none, access := [id], pc := t.pc })))

/-- R209, R212, R218, R135, R427: an aligned store within its bound in P, S, C and W, performed as it issues; one to a
bank whose clock is stopped is pending until it runs. -/
def Sys2Proof.Claims.LocalStores : Prop :=
  ∀ (s : State) (core slot : Nat) (t : Thread) (w x : Workgroup) (o : MOrd) (f : Fmt) (b d : Reg) (p : PReg) (m : Nat),
    let base := (t.rdG b).toNat
    let n := fmtSize f
    let bytes := fmtStore f (t.rdSpan d f.regs)
    (base % n = 0 → base + n ≤ w.sizes.slice → LeavesSettled s core slot t w (.stP o f b d p) p
      (s.setWg t.wg { w with
        slices := mput w.slices t.lin (writeBytes ((mget w.slices t.lin).getD []) base bytes) }))
    ∧ (base % n = 0 → base + n ≤ w.sizes.scratch → LeavesSettled s core slot t w (.stS o f b d p) p
        (s.setWg t.wg { w with scratch := writeBytes w.scratch base bytes }))
    ∧ (base % 2 ^ 24 % n = 0 → base / 2 ^ 24 < max 1 w.sizes.cgsize → base % 2 ^ 24 + n ≤ w.sizes.window →
        memberOf s t.wg w (base / 2 ^ 24) = some m → s.wg? m = some x →
        LeavesSettled s core slot t w (.stC o f b d p) p
          (s.setWg m { x with scratch := writeBytes x.scratch (base % 2 ^ 24) bytes }))
    ∧ (base % n = 0 → (t.ta = true ∨ w.super = true ∨ (w.grantLo ≤ base ∧ base + n ≤ w.grantHi)) →
        (s.bwin = true → inMirror (base + n - 1) = false) →
        (s.clusterRuns (base / 2 ^ 24) = true →
          LeavesSettled s core slot t w (.stW o f b d p) p { s with wmem := writeBytes s.wmem base bytes })
        ∧ (s.clusterRuns (base / 2 ^ 24) = false → Settled s (tkey core slot) t →
            Completes s core slot t w (.stW o f b d p) p fun u => u.wmem = s.wmem ∧ u.vmem = s.vmem
              ∧ ∃ id a, mget u.accs id = some a ∧ a.thread = tkey core slot ∧ a.place = some (.wafer base) ∧ a.size = n
                ∧ a.op = .store bytes))

/-- R135, R209, R212, R403: a misaligned address raises ALIGN, then one outside the bound PERM, with the address,
the space and the direction; nothing is loaded or stored. -/
def Sys2Proof.Claims.LocalTraps : Prop :=
  ∀ (s : State) (core slot : Nat) (t : Thread) (w : Workgroup) (o : MOrd) (f : Fmt) (b d : Reg) (p : PReg),
    let base := (t.rdG b).toNat
    let n := fmtSize f
    let both : Instr → Instr → Space → Cause → Prop := fun ld st sp c => Settled s (tkey core slot) t →
      Traps s core slot t w ld p { cause := c, addr := some base, space := some sp, write := false }
      ∧ Traps s core slot t w st p { cause := c, addr := some base, space := some sp, write := true }
    (base % n ≠ 0 → both (.ldP o f b d p) (.stP o f b d p) .slice .align
      ∧ both (.ldS o f b d p) (.stS o f b d p) .scratch .align ∧ both (.ldW o f b d p) (.stW o f b d p) .wafer .align)
    ∧ (base % 2 ^ 24 % n ≠ 0 → both (.ldC o f b d p) (.stC o f b d p) .window .align)
    ∧ (base % n = 0 → w.sizes.slice < base + n → both (.ldP o f b d p) (.stP o f b d p) .slice .perm)
    ∧ (base % n = 0 → w.sizes.scratch < base + n → both (.ldS o f b d p) (.stS o f b d p) .scratch .perm)
    ∧ (base % 2 ^ 24 % n = 0 → max 1 w.sizes.cgsize ≤ base / 2 ^ 24 ∨ w.sizes.window < base % 2 ^ 24 + n →
        both (.ldC o f b d p) (.stC o f b d p) .window .perm)
    ∧ (base % n = 0 → t.ta = false → w.super = false → base < w.grantLo ∨ w.grantHi < base + n →
        both (.ldW o f b d p) (.stW o f b d p) .wafer .perm)
    ∧ (base % n = 0 → s.bwin = true → inMirror (base + n - 1) = true → Settled s (tkey core slot) t →
        Traps s core slot t w (.stW o f b d p) p { cause := .perm, addr := some base, space := some .wafer, write := true })

/-- Loads and stores in P, S, C and W: the parts LocalLoads, LocalStores and LocalTraps. That a W access outside the
grant raises PERM, as R210 has it, and not R401's PRIV, is the model's reading (DEDUCED, log 77). -/
def Obligations.LocalAccess : Prop :=
  Claims.LocalLoads ∧ Claims.LocalStores ∧ Claims.LocalTraps

/-- The frame of the local stores and of RED in those spaces: where the address resolves to a place, every byte
outside the bytes stored there reads as before, in vault memory every byte does, and no register, other thread,
core or unit changes. The forms that store nothing, the loads, leave every byte. Of an access to a bank whose clock is
stopped (R427) LocalAccess says what it leaves. -/
def Obligations.LocalFrame : Prop :=
  ∀ (s u : State) (core slot : Nat) (t : Thread) (w : Workgroup) (i : Instr) (o : MOrd) (f : Fmt) (c : AtomOp)
    (b d : Reg) (p : PReg) (sp : Space) (n : Nat) (write : Bool) (l : Local),
    let k := tkey core slot
    (write = true ∧ n = fmtSize f ∧ ((i = .stP o f b d p ∧ sp = .slice) ∨ (i = .stS o f b d p ∧ sp = .scratch)
        ∨ (i = .stC o f b d p ∧ sp = .window) ∨ (i = .stW o f b d p ∧ sp = .wafer)))
      ∨ (write = true ∧ n = atomSize c ∧ i = .red b d o sp c p ∧ sp ≠ .global)
      ∨ (write = false ∧ n = fmtSize f ∧ ((i = .ldP o f b d p ∧ sp = .slice) ∨ (i = .ldS o f b d p ∧ sp = .scratch)
        ∨ (i = .ldC o f b d p ∧ sp = .window) ∨ (i = .ldW o f b d p ∧ sp = .wafer))) →
    Lone s core slot t w i → Settled s k t → exec i s = .next u →
    resolveLocal s ⟨t.lin, t.wg, w, supervisor t w⟩ sp (t.rdG b).toNat n write = .ok l → localLate s l = false →
    (∃ v, u.thread? k = some v ∧ KeepsRegs t v [] [] [] [] ∧ KeepsRest t v ∧ v.rng = t.rng) ∧ KeepsOthers s u k
    ∧ u.vmem = s.vmem ∧ KeepsUnits s u
    ∧ (write = false → KeepsMemory s u)
    ∧ (match l with
      | .wafer a => (∀ z, z < a ∨ a + n ≤ z → memRead u.wmem z = memRead s.wmem z)
          ∧ (∀ h z, readLocal u (.scratch h z) 1 = readLocal s (.scratch h z) 1)
          ∧ ∀ h j z, readLocal u (.slice h j z) 1 = readLocal s (.slice h j z) 1
      | .scratch g a => u.wmem = s.wmem ∧ (∀ h z, h ≠ g ∨ z < a ∨ a + n ≤ z →
          readLocal u (.scratch h z) 1 = readLocal s (.scratch h z) 1)
          ∧ ∀ h j z, readLocal u (.slice h j z) 1 = readLocal s (.slice h j z) 1
      | .slice g j a => u.wmem = s.wmem ∧ (∀ h z, readLocal u (.scratch h z) 1 = readLocal s (.scratch h z) 1)
          ∧ ∀ h q z, h ≠ g ∨ q ≠ j ∨ z < a ∨ a + n ≤ z →
            readLocal u (.slice h q z) 1 = readLocal s (.slice h q z) 1)

/-- R227: the value that each atomic operation leaves, from the old value and the operand registers; CAS stores
nothing where the comparison fails. -/
def Sys2Proof.Claims.AtomicTable : Prop :=
  ∀ (old x y z u : Word) (big : Nat), big < 2 ^ 64 →
    let two : Word → Word → Nat := fun lo hi => lo.toNat + hi.toNat * 2 ^ 32
    atomNew .addI32 old.toNat [x] = some ((old.toNat + x.toNat) % 2 ^ 32)
    ∧ atomNew .addF32 old.toNat [x] = some (fround ((fval old).add (fval x))).toNat
    ∧ atomNew .minI32 old.toNat [x] = some (if old.toInt ≤ x.toInt then old else x).toNat
    ∧ atomNew .maxI32 old.toNat [x] = some (if x.toInt ≤ old.toInt then old else x).toNat
    ∧ atomNew .minN32 old.toNat [x] = some (min old.toNat x.toNat)
    ∧ atomNew .maxN32 old.toNat [x] = some (max old.toNat x.toNat)
    ∧ atomNew .and old.toNat [x] = some (old &&& x).toNat
    ∧ atomNew .or old.toNat [x] = some (old ||| x).toNat
    ∧ atomNew .xor old.toNat [x] = some (old ^^^ x).toNat
    ∧ atomNew .exch old.toNat [x] = some x.toNat
    ∧ atomNew .cas32 old.toNat [x, y] = (if old = x then some y.toNat else none)
    ∧ atomNew .addN64 big [x, y] = some ((big + two x y) % 2 ^ 64)
    ∧ atomNew .exch64 big [x, y] = some (two x y)
    ∧ atomNew .cas64 big [x, y, z, u] = (if big = two x y then some (two z u) else none)
    ∧ atomNew .incwrap old.toNat [x] = some (if x.toNat ≤ old.toNat then 0 else old.toNat + 1)
    ∧ (∃ v : Nat, atomNew .addBf16x2 old.toNat [x] = some v
        ∧ v % 2 ^ 16 = roundVal bf16Fmt .rne false 0 ((bf16Fmt.value (old.toNat % 2 ^ 16)).add (bf16Fmt.value (x.toNat % 2 ^ 16)))
        ∧ v / 2 ^ 16 = roundVal bf16Fmt .rne false 0 ((bf16Fmt.value (old.toNat / 2 ^ 16)).add (bf16Fmt.value (x.toNat / 2 ^ 16))))

/-- R227, R229, R230: an atomic at a bank, in P, S, C or W: the old value is read and the new one stored in one step; ATOM returns the
old value, counted on setA, and RED nothing. A misaligned address raises ALIGN. At a bank whose clock is stopped the
operation is pending (R427). -/
def Sys2Proof.Claims.LocalAtomics : Prop :=
  ∀ (s : State) (core slot : Nat) (t : Thread) (w : Workgroup) (o : MOrd) (c : AtomOp) (b d : Reg) (p : PReg)
    (sp : Space) (l : Local),
    let k := tkey core slot
    let base := (t.rdG b).toNat
    let old := bytesNat (readLocal s l (atomSize c))
    let stored : State → State := fun s => match atomNew c old (t.rdSpan d c.regs) with
      | some v => writeLocal s l (natBytes (atomSize c) v)
      | none => s
    sp ≠ .global →
    (resolveLocal s ⟨t.lin, t.wg, w, supervisor t w⟩ sp base (atomSize c) true = .ok l → localLate s l = false →
      LeavesSettled s core slot t w (.red b d o sp c p) p (stored s)
      ∧ LeavesSettled s core slot t w (.atom b d o sp c p) p ((stored s).setThread k
          (t.countResult (spanWrites d (atomOld c old)))))
    ∧ (resolveLocal s ⟨t.lin, t.wg, w, supervisor t w⟩ sp base (atomSize c) true = .ok l → localLate s l = true →
      Settled s k t → ∀ i, i = .red b d o sp c p ∨ i = .atom b d o sp c p →
        Completes s core slot t w i p fun u => u.wmem = s.wmem ∧ u.vmem = s.vmem
          ∧ ∃ id a, mget u.accs id = some a ∧ a.thread = k ∧ a.place = some l ∧ a.size = atomSize c
            ∧ (a.op = .red c (t.rdSpan d c.regs) ∨ a.op = .atom c d (t.rdSpan d c.regs)))
    ∧ (∀ e, resolveLocal s ⟨t.lin, t.wg, w, supervisor t w⟩ sp base (atomSize c) true = .error e →
        Settled s k t →
        Traps s core slot t w (.red b d o sp c p) p { cause := e, addr := some base, space := some sp, write := true }
        ∧ Traps s core slot t w (.atom b d o sp c p) p { cause := e, addr := some base, space := some sp, write := true })
    ∧ ((if sp = .window then base % 2 ^ 24 else base) % atomSize c ≠ 0 →
        resolveLocal s ⟨t.lin, t.wg, w, supervisor t w⟩ sp base (atomSize c) true = .error .align)

/-- Atomics at a bank: the parts AtomicTable and LocalAtomics. -/
def Obligations.LocalAtomicAccess : Prop :=
  Claims.AtomicTable ∧ Claims.LocalAtomics

/-- R97, R98, R106 to R109, R135, R214: an access through a held translation. The address must be aligned and below
2^52; the translation must give U in user context and the right needed; the physical address keeps the offset within the
page; a vault address of the module resolves there, the broadcast window whatever the pol of a store and to a load of any pol but
dev, a device register only to an aligned 4-byte access of the supervisor with pol dev. -/
def Sys2Proof.Claims.TranslationRules : Prop :=
  ∀ (s : State) (x : Ctx) (k lane va size : Nat) (pol : Pol) (r wr atomic : Bool) (e : Trans),
    x.who = .thread k → x.lane = some (coreOf k, lane) →
    (va % size ≠ 0 → resolveG s x va size pol r wr atomic = (.trap .align 0, s))
    ∧ (va % size = 0 → 2 ^ 52 ≤ va → resolveG s x va size pol r wr atomic = (.trap .perm 0, s))
    ∧ (va % size = 0 → va < 2 ^ 52 → mget (s.core (coreOf k)).lanes lane = some e → e.covers x.asid va = true →
        (x.super = true ∨ e.u = true) → (r = true → e.r = true) → (wr = true → e.w = true) →
        let pa := (e.ppn + (va / 2 ^ 14 - e.vpn)) * 2 ^ 14 + va % 2 ^ 14
        pa % 2 ^ 14 = va % 2 ^ 14
        ∧ (pa / 2 ^ 48 % 1024 = s.page.moduleId → pa % 2 ^ 48 < 2 ^ 43 →
            resolveG s x va size pol r wr atomic = (if wr && s.boot.frames.contains (pa % 2 ^ 48 / 2 ^ 14)
              then .trap .perm 0 else .at (.vault (pa % 2 ^ 48)) pa, s))
        ∧ (pa / 2 ^ 48 % 1024 ≠ s.page.moduleId → pa % 2 ^ 48 < 2 ^ 43 →
            resolveG s x va size pol r wr atomic = (.at (.remote pa) pa, s))
        ∧ (pa / 2 ^ 48 % 1024 = s.page.moduleId → 0xFF0000000000 ≤ pa % 2 ^ 48 →
            resolveG s x va size pol r wr atomic = (if pol ≠ .dev ∨ atomic = true ∨ x.super = false then .trap .perm 0
              else if size ≠ 4 then .trap .align 0 else .at (.device (pa % 2 ^ 48)) pa, s))
        ∧ (pa / 2 ^ 48 % 1024 = s.page.moduleId → 0x080000000000 ≤ pa % 2 ^ 48 → pa % 2 ^ 48 < 0x080000400000 →
            resolveG s x va size pol r wr atomic = (if s.bwin = false ∨ atomic = true ∨ (pol = .dev ∧ wr = false) then .trap .perm 0
              else .at (.window (pa % 2 ^ 48 - 0x080000000000)) pa, s)))
    ∧ (va % size = 0 → va < 2 ^ 52 → mget (s.core (coreOf k)).lanes lane = none →
        (s.core (coreOf k)).tlb.find? (·.covers x.asid va) = some e →
        (x.super = false ∧ e.u = false) ∨ (r = true ∧ e.r = false) ∨ (wr = true ∧ e.w = false) →
        (resolveG s x va size pol r wr atomic).1 = .trap .perm 0)

/-- R101 to R103: what a leaf says. An even leaf is not resident unless it is a malformed backing leaf; a valid one
with a reserved bit set, or whose run the page number does not match, is malformed; otherwise it maps the page with
its rights. -/
def Sys2Proof.Claims.LeafRules : Prop :=
  ∀ (s : State) (asid va leaf at_ : Nat),
    (leaf % 4 = 0 → readLeaf s asid va leaf at_ = .absent leaf at_)
    ∧ (leaf % 4 = 2 → leaf / 4 % 2 = 0 → leaf / 2 ^ 7 % 2 ^ 7 = 0 → leaf / 2 ^ 58 % 64 = 0 →
        readLeaf s asid va leaf at_ = .absent leaf at_)
    ∧ (leaf % 4 = 2 → leaf / 4 % 2 ≠ 0 ∨ leaf / 2 ^ 7 % 2 ^ 7 ≠ 0 ∨ leaf / 2 ^ 58 % 64 ≠ 0 →
        readLeaf s asid va leaf at_ = .malformed)
    ∧ (leaf % 2 = 1 → leaf / 2 ^ 58 % 64 ≠ 0 ∨ leaf / 2 ^ 12 % 4 ≠ 0 ∨ leaf / 2 ^ 5 % 8 ≠ 0 →
        readLeaf s asid va leaf at_ = .malformed)
    ∧ (leaf % 2 = 1 → leaf / 2 ^ 58 % 64 = 0 → leaf / 2 ^ 12 % 4 = 0 → leaf / 2 ^ 5 % 8 = 0 →
        let n := leaf / 2 ^ 8 % 16
        let ppn := leaf / 2 ^ 14 % 2 ^ 44
        (ppn % 2 ^ n ≠ va / 2 ^ 14 % 2 ^ n → readLeaf s asid va leaf at_ = .malformed)
        ∧ (ppn % 2 ^ n = va / 2 ^ 14 % 2 ^ n → ppn * 2 ^ 14 % 2 ^ 48 < 2 ^ 43 →
            ∃ e, readLeaf s asid va leaf at_ = .page e ∧ e.asid = asid ∧ e.covers asid va = true
              ∧ e.pa va = ppn * 2 ^ 14 + va % 2 ^ 14
              ∧ e.r = leaf.testBit 1 ∧ e.w = leaf.testBit 2 ∧ e.x = leaf.testBit 3 ∧ e.u = leaf.testBit 4))

/-- Translation and its leaves: the parts TranslationRules and LeafRules. That a page with U = 0 and a device register raise
PERM in user context, as R109 and R214 have it, and not R401's PRIV, is the model's reading (DEDUCED, log 77). -/
def Obligations.Translation : Prop :=
  Claims.TranslationRules ∧ Claims.LeafRules

/-- R126, R131, R135, R214, R217: a global load. From a line the core's L1 holds, from the window's mirror and from
the vault with pol dev the value is known at issue; a miss, a bypass, and a device access that meets a remap step (R82) are pending until they are
served. A non-faulting load behind one of its run that found the page absent is GlobalTraps' (log 81). -/
def Sys2Proof.Claims.GlobalLoads : Prop :=
  ∀ (s r v : State) (core slot : Nat) (t : Thread) (w : Workgroup) (o : MOrd) (pol : Pol) (f : Fmt) (b d : Reg)
    (n : Bool) (p : PReg) (place : Place) (pa : Nat) (l : L1Line),
    let k := tkey core slot
    let i := Instr.ldG o pol f b d n p
    let va : Nat := (t.rdG b).toNat + 2 ^ 32 * (t.rdG (b + 1)).toNat
    let a := accOf k t w va pa (fmtSize f) pol o (.load f d)
    let shift := if n then some false else none
    let now : State → List Byte → State := fun u bytes => u.modThread k fun x => x.count
      { flag := x.flagA, result := some (spanWrites d (fmtLoad f bytes)), shift := shift, nf := n, pc := x.pc }
    let later : State → Nat → State := fun u id => u.modThread k fun x => x.count
      { flag := x.flagA, result := none, access := [id], shift := shift, nf := n, pc := x.pc }
    resolveG s (ctxOf k (laneOf slot) t w) va (fmtSize f) pol true false false = (.at place pa, r) →
    Undisturbed r k → (n = true → foundAbsent t va (fmtSize f) = false) →
    let line := pa % 2 ^ 48 / 128
    (place = .vault (pa % 2 ^ 48) → pol = .dflt → coldError r line = none →
      l1Try r core line w.hashdom false = .hit l →
      LeavesSettled s core slot t w i p (now r (lineSlice l.data (pa % 128) (fmtSize f))))
    ∧ (place = .vault (pa % 2 ^ 48) → pol = .dflt → coldError r line = none →
        l1Try r core line w.hashdom false = .miss v →
        LeavesSettled s core slot t w i p (later (pend v a).2 (pend v a).1))
    ∧ (place = .vault (pa % 2 ^ 48) → pol = .dev → vaultHolds r line = false → vaultError r line = none →
        LeavesSettled s core slot t w i p (now r (lineSlice (vaultLine r line) (pa % 128) (fmtSize f))))
    ∧ (place = .vault (pa % 2 ^ 48) → pol = .dev → vaultHolds r line = true →
        LeavesSettled s core slot t w i p (later (holdDevice r a .bypr).2 (holdDevice r a .bypr).1))
    ∧ (place = .vault (pa % 2 ^ 48) → pol = .bypass ∨ pol = .stream → coldError r line = none →
        recordRoom r a = true →
        ∃ id u n m, LeavesSettled s core slot t w i p (later u id)
          ∧ mget u.accs id = some { a with sent := n, tries := m } ∧ ∃ q, q.kind = .bypr ∧ q.line = line ∧ q.access = some id
            ∧ ∃ c, q ∈ (mget u.queues c).getD [])
    ∧ (∀ x, place = .window x →
        LeavesSettled s core slot t w i p (now r (readBytes r.wmem (mirrorAt (clusterOf core) x) (fmtSize f))))
    ∧ (∀ x, place = .device x →
        LeavesSettled s core slot t w i p (now r (natBytes 4 (devRead r (x - deviceBase)).toNat)))
    ∧ (∀ x, place = .remote x → routeUp r (pa / 2 ^ 48) = true →
        LeavesSettled s core slot t w i p (later (pendRemote r a).2 (pendRemote r a).1))
    ∧ (place = .vault (pa % 2 ^ 48) → ∀ e, (pol = .dev → vaultHolds r line = false) → (if pol = .dev then vaultError r line else coldError r line) = some e →
        Lone s core slot t w i → Settled s k t → t.rdP p = true →
        exec i s = .next (takeTrap r k { cause := .eccUncorr, info := e, addr := some va, space := some .global }
          (resumeOf t i) (resumeOf t i).retryPc))

/-- R109, R221: an address that does not resolve traps a load, a store and an atomic with its address; a non-faulting
load of a page that is not resident completes with zeros, and will shift a 1 into m7, and so does one behind a non-faulting
load of its run that found the page absent (R471; DEDUCED, log 81). -/
def Sys2Proof.Claims.GlobalTraps : Prop :=
  ∀ (s r : State) (core slot : Nat) (t : Thread) (w : Workgroup) (o : MOrd) (pol : Pol) (f : Fmt) (b d : Reg)
    (p : PReg) (c : Cause) (info leaf at_ : Nat),
    let k := tkey core slot
    let va : Nat := (t.rdG b).toNat + 2 ^ 32 * (t.rdG (b + 1)).toNat
    let x := ctxOf k (laneOf slot) t w
    let fresh : Bool → Prop := fun n => n = true → foundAbsent t va (fmtSize f) = false
    let absent : State → State := fun r =>
      let r := r.modThread k fun y => { y with absents := va / 2 ^ 14 :: y.absents }
      r.modThread k fun y =>
        y.count { flag := y.flagA, result := some (spanWrites d (fmtLoad f (List.replicate (fmtSize f) 0))),
                  shift := some true, nf := true, pc := y.pc }
    let traps : Instr → Cause → Nat → Bool → Prop := fun i c info wr =>
      Lone s core slot t w i → Settled s k t → r.gather = none → t.rdP p = true → exec i s = .next (takeTrap r k
        { cause := c, info := info, addr := some va, space := some .global, write := wr }
        (resumeOf t i) (resumeOf t i).retryPc)
    (resolveG s x va (fmtSize f) pol true false false = (.trap c info, r) →
      ∀ n, fresh n → traps (.ldG o pol f b d n p) c info false)
    ∧ (resolveG s x va (fmtSize f) pol false true false = (.trap c info, r) → traps (.stG o pol f b d p) c info true)
    ∧ (∀ q, resolveG s x va (atomSize q) .dflt true true true = (.trap c info, r) →
        traps (.atom b d o .global q p) c info true ∧ traps (.red b d o .global q p) c info true)
    ∧ (resolveG s x va (fmtSize f) pol true false false = (.absent leaf at_, r) →
        traps (.ldG o pol f b d false p) .pageAbsent 0 false
        ∧ (fresh true → LeavesSettled s core slot t w (.ldG o pol f b d true p) p (absent r)))
    ∧ (foundAbsent t va (fmtSize f) = true → LeavesSettled s core slot t w (.ldG o pol f b d true p) p (absent s))
    ∧ (resolveG s x va (fmtSize f) pol false true false = (.absent leaf at_, r) →
        traps (.stG o pol f b d p) .pageAbsent 0 true)

/-- Global loads and the traps of global accesses: the parts GlobalLoads and GlobalTraps. -/
def Obligations.GlobalReads : Prop :=
  Claims.GlobalLoads ∧ Claims.GlobalTraps

/-- R126, R131, R133, R135, R165, R218, R219: a global store: into an L1 line that can be written, to the vault with
pol dev, as a record that bypasses, as a window transaction, to a device register, or to another module, counted on
the core's acknowledgement counter. -/
def Sys2Proof.Claims.GlobalStores : Prop :=
  ∀ (s r v : State) (core slot : Nat) (t : Thread) (w : Workgroup) (o : MOrd) (pol : Pol) (f : Fmt) (b d : Reg)
    (p : PReg) (place : Place) (pa : Nat) (l : L1Line),
    let k := tkey core slot
    let i := Instr.stG o pol f b d p
    let va : Nat := (t.rdG b).toNat + 2 ^ 32 * (t.rdG (b + 1)).toNat
    let bytes := fmtStore f (t.rdSpan d f.regs)
    let a := accOf k t w va pa (fmtSize f) pol o (.store bytes)
    let line := pa % 2 ^ 48 / 128
    let queued : RecKind → Access → Prop := fun kind a =>
      ∃ id u n m, LeavesSettled s core slot t w i p u ∧ mget u.accs id = some { a with sent := n, tries := m }
        ∧ ∃ q, q.kind = kind ∧ q.line = line ∧ q.access = some id ∧ ∃ c, q ∈ (mget u.queues c).getD []
    resolveG s (ctxOf k (laneOf slot) t w) va (fmtSize f) pol false true false = (.at place pa, r) →
    Undisturbed r k →
    (place = .vault (pa % 2 ^ 48) → pol = .dflt → coldError r line = none →
      l1Try r core line w.hashdom true = .hit l →
      LeavesSettled s core slot t w i p
        (r.setL1 core line { l with st := .m, data := patchLine l.data (pa % 128) bytes }))
    ∧ (place = .vault (pa % 2 ^ 48) → pol = .dflt → coldError r line = none →
        l1Try r core line w.hashdom true = .miss v → LeavesSettled s core slot t w i p (pend v a).2)
    ∧ (place = .vault (pa % 2 ^ 48) → pol = .dev → vaultHolds r line = false → vaultError r line = none →
        LeavesSettled s core slot t w i p
          (vaultStore r line (patchLine (vaultLine r line) (pa % 128) bytes)))
    ∧ (place = .vault (pa % 2 ^ 48) → pol = .dev → vaultHolds r line = true →
        LeavesSettled s core slot t w i p (holdDevice r a .bypw).2)
    ∧ (place = .vault (pa % 2 ^ 48) → pol = .bypass ∨ pol = .stream → coldError r line = none → recordRoom r a = true →
        queued .bypw a)
    ∧ (∀ x, place = .window x → queueRoom r (clusterOf core) (line % 8) = true → queued .window { a with pol := .dflt })
    ∧ (∀ x, place = .device x →
        LeavesSettled s core slot t w i p (devWrite r (x - deviceBase) (BitVec.ofNat 32 (bytesNat bytes))))
    ∧ (∀ x, place = .remote x → routeUp r (pa / 2 ^ 48) = true → (r.core core).acks < 65535 →
        LeavesSettled s core slot t w i p
          (pendRemote (r.modCore core fun c => { c with acks := c.acks + 1 }) a).2)
    ∧ (∀ x, place = .remote x → routeUp r (pa / 2 ^ 48) = true → 65535 ≤ (r.core core).acks →
        Lone s core slot t w i → Settled s k t → t.rdP p = true → exec i s = .next (holdThread r k .acks))

/-- R126, R229, R230: a global atomic: ATOM on an L1 line that can be written reads and writes it in one step; one that
misses asks for the line and is pending until that comes; RED goes to the home as a record; to another module each is sent,
and counted until it is acknowledged. -/
def Sys2Proof.Claims.GlobalAtomics : Prop :=
  ∀ (s r v : State) (core slot : Nat) (t : Thread) (w : Workgroup) (o : MOrd) (c : AtomOp) (b d : Reg) (p : PReg)
    (place : Place) (pa : Nat) (l : L1Line),
    let k := tkey core slot
    let va : Nat := (t.rdG b).toNat + 2 ^ 32 * (t.rdG (b + 1)).toNat
    let ops := t.rdSpan d c.regs
    let old := bytesNat (lineSlice l.data (pa % 128) (atomSize c))
    let at_ := accOf k t w va pa (atomSize c) .dflt o (.atom c d ops)
    let rd := accOf k t w va pa (atomSize c) .bypass o (.red c ops)
    let later : State → Nat → State := fun u id => u.modThread k fun x => x.count
      { flag := x.flagA, result := none, access := [id], pc := x.pc }
    resolveG s (ctxOf k (laneOf slot) t w) va (atomSize c) .dflt true true true = (.at place pa, r) →
    Undisturbed r k →
    let line := pa % 2 ^ 48 / 128
    let counted := r.modCore core fun y => { y with acks := y.acks + 1 }
    (place = .vault (pa % 2 ^ 48) → coldError r line = none → l1Try r core line w.hashdom true = .hit l →
      LeavesSettled s core slot t w (.atom b d o .global c p) p
        ((r.setL1 core line { l with
            st := .m
            data := match atomNew c old ops with
              | some v => patchLine l.data (pa % 128) (natBytes (atomSize c) v)
              | none => l.data }).modThread k fun x => x.countResult (spanWrites d (atomOld c old))))
    ∧ (place = .vault (pa % 2 ^ 48) → coldError r line = none → l1Try r core line w.hashdom true = .miss v →
        LeavesSettled s core slot t w (.atom b d o .global c p) p (later (pend v at_).2 (pend v at_).1))
    ∧ (place = .vault (pa % 2 ^ 48) → coldError r line = none →
        recordRoom r rd = true →
        ∃ id u n m, LeavesSettled s core slot t w (.red b d o .global c p) p u
          ∧ mget u.accs id = some { rd with sent := n, tries := m }
          ∧ ∃ q, q.kind = .bypw ∧ q.line = line ∧ q.access = some id ∧ ∃ n, q ∈ (mget u.queues n).getD [])
    ∧ (∀ x, place = .remote x → routeUp r (pa / 2 ^ 48) = true → (r.core core).acks < 65535 →
        LeavesSettled s core slot t w (.red b d o .global c p) p
          (pendRemote counted rd).2
        ∧ LeavesSettled s core slot t w (.atom b d o .global c p) p
            (later (pendRemote counted at_).2 (pendRemote counted at_).1))

/-- R135, R214, R230: a global atomic whose page maps into the broadcast window, or to a device register, raises PERM. -/
def Sys2Proof.Claims.AtomicsOutsideVault : Prop :=
  ∀ (s r : State) (core slot : Nat) (t : Thread) (w : Workgroup) (o : MOrd) (c : AtomOp) (b d : Reg) (p : PReg) (pa : Nat)
    (i : Instr),
    let k := tkey core slot
    let va : Nat := (t.rdG b).toNat + 2 ^ 32 * (t.rdG (b + 1)).toNat
    let window := 0x080000000000 ≤ pa % 2 ^ 48 ∧ pa % 2 ^ 48 < 0x080000400000
    let device := 0xFF0000000000 ≤ pa % 2 ^ 48
    i = .atom b d o .global c p ∨ i = .red b d o .global c p → va % atomSize c = 0 →
    translate s (ctxOf k (laneOf slot) t w) va true true = (.pa pa, r) →
    pa / 2 ^ 48 % 1024 = r.page.moduleId → window ∨ device → r.gather = none → Settled s k t →
    Lone s core slot t w i → t.rdP p = true →
    exec i s = .next (takeTrap r k { cause := .perm, addr := some va, space := some .global, write := true }
      (resumeOf t i) (resumeOf t i).retryPc)

/-- Global stores and atomics: the parts GlobalStores, GlobalAtomics and AtomicsOutsideVault. -/
def Obligations.GlobalWrites : Prop :=
  Claims.GlobalStores ∧ Claims.GlobalAtomics ∧ Claims.AtomicsOutsideVault

/-- R154, R162, R163, R232: the pending accesses of its thread that a FENCE puts before what follows it: at pod scope those of
other modules too, of an acquire those that load. At a scope below pod a thread may leave them pending where no other thread
within the scope has an access, a job or a matrix operation under way; each then keeps the other threads of the scope still
until it is performed (log 26). -/
def Sys2Proof.Claims.FenceScopes : Prop :=
  ∀ (s : State) (k : Nat) (t : Thread) (x : Scope) (kind : FenceKind) (l : List (Nat × Access)),
    let within : Scope → Nat → Nat → Nat → Nat → Prop := fun x core wg core' wg' =>
      x = .pod ∨ x = .module ∨ (x = .cluster ∧ core / 32 = core' / 32) ∨ (x = .workgroup ∧ wg = wg')
    let own : Access → Prop := fun a => a.thread = k ∧ a.wg = t.wg ∧ a.lin = t.lin
    let others := (∀ id a, (id, a) ∈ s.accs → within x (k / 2048) t.wg a.core a.wg → own a ∨ a.job = some askEntry)
      ∧ ∀ c y, (c, y) ∈ s.cores → (∀ e j, (e, j) ∈ y.jobs → j.work.moves = true → ¬ within x (k / 2048) t.wg c j.wg)
        ∧ ∀ g, y.engine.owner = some g → y.engine.queue ≠ [] → ¬ within x (k / 2048) t.wg c g
    s.thread? k = some t →
    (∀ id a, (id, a) ∈ fenceAccs s k (x, kind) ↔ (id, a) ∈ s.accs ∧ own a ∧ a.job = none ∧ (a.remote = true → x = .pod)
      ∧ (kind = .acquire → a.op.loads = true))
    ∧ (mayPass s k t x = true ↔ others)
    ∧ (l ≠ [] → x ≠ .thread → (orderAt s k t x l).isSome = true ↔ x ≠ .pod ∧ others)
    ∧ (∀ u id a, l ≠ [] → x ≠ .thread → orderAt s k t x l = some u → (id, a) ∈ s.accs → id ∈ l.map (·.1) →
        ∃ g, (id, { a with guard := some g }) ∈ u.accs ∧ ∀ core wg core' wg', (wg = wg' → core = core') →
          within x core wg core' wg' → within g core wg core' wg')
    ∧ (guardedOff s k t = true ↔ ∃ id a g, (id, a) ∈ s.accs ∧ a.guard = some g ∧ ¬ own a
        ∧ within g a.core a.wg (k / 2048) t.wg)

/-- R162, R163, R166, R232, R235: FENCE places its hold on the thread's later memory instructions, which wait while what
its kind and scope name is outstanding; at a scope below pod the accesses hold the thread unless no other thread of the
scope could tell (log 26). PREF has no effect on the thread but to go on, whatever its address resolves to, once its
translation is known and unless its line must first leave the L1 (what it takes as forbidden is the model's, log 70). That a
FENCE waits for an earlier FENCE of its thread is DEDUCED (log 64). -/
def Sys2Proof.Claims.FenceHolds : Prop :=
  ∀ (s r : State) (core slot : Nat) (t : Thread) (w : Workgroup) (sc : Scope) (kind : FenceKind) (g : PrefTarget)
    (a : Reg) (p : PReg) (o : MOrd) (f : Fmt) (b d : Reg) (n : Bool) (pol : Pol) (found : Global),
    let k := tkey core slot
    let held : Instr → Prop := fun i => i = .ldS o f b d p ∨ i = .stS o f b d p ∨ i = .ldG o pol f b d n p
      ∨ i = .stG o pol f b d p
    let accs := fenceAccs s k (sc, kind)
    (t.fence = none → t.deferred = [] →
      Gives s core slot t w (.fence sc kind p) p { t with fence := some (sc, kind) })
    ∧ (t.fence = some (sc, kind) → guardedOff s k t = false →
        jobsBusy s k t = true ∨ matrixBusy s k = true ∨ (sc = .pod ∧ accs ≠ [])
          ∨ (sc ≠ .pod ∧ sc ≠ .thread ∧ accs ≠ [] ∧ mayPass s k t sc = false) →
        ∀ i, held i ∨ i = .fence sc kind p →
          Lone s core slot t w i → t.rdP p = true → exec i s = .next (holdThread s k .fence))
    ∧ (t.fence = some (sc, kind) → sc = .pod → kind ≠ .acquire → guardedOff s k t = false → jobsBusy s k t = false →
        matrixBusy s k = false → accs = [] → (s.core core).acks ≠ 0 → ∀ i, held i ∨ i = .fence sc kind p →
          Lone s core slot t w i → t.rdP p = true → exec i s = .next (holdThread s k .fence))
    ∧ (resolveG s (ctxOf k (laneOf slot) t w) (t.rdPair a).toNat 1 .dflt (g != .l1w) (g == .l1w) false = (found, r) →
        (found = .busy → Lone s core slot t w (.pref a g p) → t.rdP p = true →
          exec (.pref a g p) s = .next (holdThread r k .busy))
        ∧ (found ≠ .busy →
            (∀ x pa q, found = .at (.vault x) pa → g ≠ .l2 → l1Try r core (x / 128) w.hashdom (g == .l1w) ≠ .stall q) →
            ∃ u, Leaves s core slot t w (.pref a g p) p u ∧ u.threads = s.threads ∧ u.wgs = s.wgs))

/-- FENCE and PREF: the parts FenceScopes and FenceHolds. -/
def Obligations.FenceAndPrefetch : Prop :=
  Claims.FenceScopes ∧ Claims.FenceHolds

/-- R224, R251, R252: LDB reads scratchpad through a full or draining entry of its workgroup and is counted in it,
waits while the entry fills, and traps otherwise; BUFQ reads the entry; BUFREL frees a full entry that no LDB reads,
and else leaves it to drain. -/
def Sys2Proof.Claims.BufferEntries : Prop :=
  ∀ (s : State) (core slot : Nat) (t : Thread) (w : Workgroup) (e a d : Reg) (f : Fmt) (p : PReg),
    let k := tkey core slot
    let b := (s.core core).buf e.toNat
    let off := (t.rdG a).toNat
    let mine := b.owner = t.wg
    let put : BufEntry → State := fun x => s.modBuf core e.toNat fun _ => x
    (mine → b.st = .full ∨ b.st = .draining → off % fmtSize f = 0 → off + fmtSize f ≤ b.extent →
      LeavesSettled s core slot t w (.ldb e a d f p) p ((put { b with ldbs := b.ldbs + 1 }).setThread k (t.count
        { flag := t.flagA, result := some (spanWrites d (fmtLoad f (readBytes w.scratch (b.base + off) (fmtSize f)))),
          entry := some e.toNat, pc := t.pc })))
    ∧ (mine → b.st = .filling → Lone s core slot t w (.ldb e a d f p) → Settled s k t → t.rdP p = true →
        exec (.ldb e a d f p) s = .next (holdThread s k .entry))
    ∧ (b.st = .free ∨ (b.st ≠ .free ∧ ¬ mine) → Settled s k t → Traps s core slot t w (.ldb e a d f p) p { cause := .bufState })
    ∧ (mine → b.st = .full ∨ b.st = .draining → off % fmtSize f ≠ 0 → Settled s k t →
        Traps s core slot t w (.ldb e a d f p) p { cause := .align, addr := some (b.base + off), space := some .scratch })
    ∧ (mine → b.st = .full ∨ b.st = .draining → off % fmtSize f = 0 → b.extent < off + fmtSize f → Settled s k t →
        Traps s core slot t w (.ldb e a d f p) p { cause := .perm, addr := some (b.base + off), space := some .scratch })
    ∧ GivesCounted s core slot t w (.bufq e a p) p [.g a (BitVec.ofNat 32
        ((match b.st with
          | .free => 0
          | .filling => 1
          | .full => 2
          | .draining => 3) + (if mine then 4 else 0) + (if b.release then 8 else 0) + (if mine then b.extent * 2 ^ 11 else 0)))]
    ∧ (mine → b.st = .full → b.ldbs = 0 → Leaves s core slot t w (.bufrel e p) p (put BufEntry.empty))
    ∧ (mine → (b.st = .full ∧ b.ldbs ≠ 0) ∨ b.st = .draining →
        Leaves s core slot t w (.bufrel e p) p (put { b with st := .draining, release := true }))
    ∧ (b.st = .free ∨ b.st = .filling ∨ ¬ mine → Traps s core slot t w (.bufrel e p) p { cause := .bufState })

/-- R245, R246, R250: TSLD puts a record that keeps R246 into a slot that is empty or its workgroup's, and raises
ILLEGAL_OP for any other record and PERM for another's slot; TSEV empties it; TSQ reads a word or the status. -/
def Sys2Proof.Claims.ShapeSlots : Prop :=
  ∀ (s r : State) (core slot : Nat) (t : Thread) (w : Workgroup) (b : BitVec 5) (a : Reg) (q : Space) (h : HReg)
    (p : PReg) (x : ShapeSlot) (l : Local) (bytes : List Byte),
    let k := tkey core slot
    let now := mget (s.core core).shapes b.toNat
    let mine := now = none ∨ ∃ y, now = some y ∧ y.owner = t.wg
    let word : List Byte → Word := fun c => BitVec.ofNat 32 (bytesNat ((c.drop (4 * h.toNat)).take 4))
    (mine → q ≠ .global → resolveLocal s ⟨t.lin, t.wg, w, supervisor t w⟩ q (t.rdG a).toNat 64 false = .ok l → bankRuns s l = true →
      (shapeOk (readLocal s l 64) = true → LeavesSettled s core slot t w (.tsld b a q p) p
        (s.modCore core fun c => { c with shapes := mput c.shapes b.toNat ⟨t.wg, readLocal s l 64⟩ }))
      ∧ (shapeOk (readLocal s l 64) = false → Settled s k t →
          Traps s core slot t w (.tsld b a q p) p { cause := .illegalOp }))
    ∧ (mine → q = .global →
        readGlobal s k (laneOf slot) t w ((t.rdG a).toNat + 2 ^ 32 * (t.rdG (a + 1)).toNat) 64 = .ok bytes r →
        shapeOk bytes = true → LeavesSettled s core slot t w (.tsld b a q p) p
          (r.modCore core fun c => { c with shapes := mput c.shapes b.toNat ⟨t.wg, bytes⟩ }))
    ∧ (now = some x → x.owner ≠ t.wg → Traps s core slot t w (.tsld b a q p) p { cause := .perm }
        ∧ Traps s core slot t w (.tsev b p) p { cause := .perm }
        ∧ Traps s core slot t w (.tsq b a h false p) p { cause := .perm }
        ∧ GivesCounted s core slot t w (.tsq b a h true p) p [.g a 1])
    ∧ (mine → Leaves s core slot t w (.tsev b p) p (s.modCore core fun c => { c with shapes := mdel c.shapes b.toNat }))
    ∧ (now = some x → x.owner = t.wg → GivesCounted s core slot t w (.tsq b a h false p) p [.g a (word x.bytes)]
        ∧ GivesCounted s core slot t w (.tsq b a h true p) p [.g a 3])
    ∧ (now = none → Traps s core slot t w (.tsq b a h false p) p { cause := .perm }
        ∧ GivesCounted s core slot t w (.tsq b a h true p) p [.g a 0])

/-- R246: the records that a slot may hold, bound by bound: a 52-bit base aligned to the element, rank 1 to 5, zero
reserved bytes, dimensions below 2^31 and boxes in each dimension used and zeros in the others, at most 256 KiB. -/
def Sys2Proof.Claims.ShapeLimits : Prop :=
  ∀ b : List Byte, b.length = 64 → shapeOk b = true →
    let at_ : Nat → Nat → Nat := fun o n => bytesNat ((b.drop o).take n)
    let rank := at_ 8 1 / 16 % 8
    at_ 0 8 < 2 ^ 52 ∧ 1 ≤ rank ∧ rank ≤ 5 ∧ at_ 9 3 = 0 ∧ at_ 62 2 = 0 ∧ (Shape.ofBytes b).bytes ≤ 2 ^ 18
    ∧ at_ 0 8 % (Shape.ofBytes b).size = 0
    ∧ (∀ i, i < rank → 1 ≤ at_ (12 + 4 * i) 4 ∧ at_ (12 + 4 * i) 4 < 2 ^ 31 ∧ 1 ≤ at_ (52 + 2 * i) 2)
    ∧ (∀ i, rank ≤ i → i < 5 → at_ (12 + 4 * i) 4 = 0 ∧ at_ (32 + 4 * i) 4 = 0 ∧ at_ (52 + 2 * i) 2 = 0)

/-- Buffer entries and shape slots: the parts BufferEntries, ShapeSlots and ShapeLimits. -/
def Obligations.EntriesAndSlots : Prop :=
  Claims.BufferEntries ∧ Claims.ShapeSlots ∧ Claims.ShapeLimits

/-- R241, R242, R253 to R259: CPY with a well-formed block whose places are aligned and in bounds issues a copy job,
or waits for a number or a table entry; a bad block raises ILLEGAL_OP, a misaligned source, destination or length ALIGN,
and a place out of bounds PERM, in the order of R258. -/
def Sys2Proof.Claims.CopyIssue : Prop :=
  ∀ (s : State) (core slot : Nat) (t : Thread) (w : Workgroup) (a : Reg) (h : HReg) (sc : Scope) (p : PReg)
    (ss ds : Space) (num e : Nat) (y : JobSync) (ti : TrapInfo),
    let g : BitVec 6 → Nat := fun n => (t.rdG (a + n)).toNat
    let n := g 1
    let src : Loc := ⟨ss, if ss = .global then g 4 + 2 ^ 32 * (t.rdG (a + 4 + 1)).toNat else g 4⟩
    let dst : Loc := ⟨ds, if ds = .global then g 6 + 2 ^ 32 * (t.rdG (a + 6 + 1)).toNat else g 6⟩
    let v := g 0
    a.toNat % 8 = 0 → Quiet s (tkey core slot) t →
    (v < 2 ^ 15 → v % 32 = 0 → v / 2 ^ 11 % 8 ≤ 4 → spaceAt (v / 2 ^ 5 % 8) = some ss →
      spaceAt (v / 2 ^ 8 % 8) = some ds → g 3 = 0 → 1 ≤ n → n ≤ 2 ^ 24 →
      (n % 4 = 0 → src.addr % 4 = 0 → dst.addr % 4 = 0 → rangeOk s (localCtx t w) src n false = true →
        rangeOk s (localCtx t w) dst n true = true → syncOf s (localCtx t w) (v / 2 ^ 11 % 8) (g 2) = .ok y →
        (freeJobNum w = some num → freeJobEntry (s.core core) = some e →
          Completes s core slot t w (.cpy a h sc p) p fun u => JobIssued s u core slot t w h (.copy src dst n) y num e)
        ∧ (freeJobNum w = none ∨ freeJobEntry (s.core core) = none → Lone s core slot t w (.cpy a h sc p) → t.rdP p = true →
            exec (.cpy a h sc p) s = .next (holdThread s (tkey core slot) .jobTable)))
      ∧ (src.addr % 4 ≠ 0 → Traps s core slot t w (.cpy a h sc p) p { cause := .align, addr := some src.addr, space := some ss })
      ∧ (src.addr % 4 = 0 → dst.addr % 4 ≠ 0 → Traps s core slot t w (.cpy a h sc p) p
          { cause := .align, addr := some dst.addr, space := some ds, write := true })
      ∧ (src.addr % 4 = 0 → dst.addr % 4 = 0 → n % 4 ≠ 0 → Traps s core slot t w (.cpy a h sc p) p { cause := .align })
      ∧ (n % 4 = 0 → src.addr % 4 = 0 → dst.addr % 4 = 0 →
          (rangeOk s (localCtx t w) src n false = false → Traps s core slot t w (.cpy a h sc p) p
            { cause := .perm, addr := some src.addr, space := some ss })
          ∧ (rangeOk s (localCtx t w) src n false = true → rangeOk s (localCtx t w) dst n true = false →
            Traps s core slot t w (.cpy a h sc p) p { cause := .perm, addr := some dst.addr, space := some ds, write := true })
          ∧ (rangeOk s (localCtx t w) src n false = true → rangeOk s (localCtx t w) dst n true = true →
            syncOf s (localCtx t w) (v / 2 ^ 11 % 8) (g 2) = .error ti → Traps s core slot t w (.cpy a h sc p) p ti)))
    ∧ (2 ^ 19 ≤ v ∨ v % 32 ≠ 0 ∨ 4 < v / 2 ^ 11 % 8 ∨ g 3 ≠ 0 ∨ n = 0 ∨ 2 ^ 24 < n →
        Traps s core slot t w (.cpy a h sc p) p { cause := .illegalOp })

/-- R250, R251, R257, R258, R260 to R262: a shape copy with its slot, its coordinates and its region in order issues its
job and takes the buffer entry; while a thread waits to load the slot's record the engine accepts none: CPYT, CPYS and CPYR leave it filling with the region as base and extent, CPYO
draining with one more CPYO. -/
def Sys2Proof.Claims.ShapeCopyIssue : Prop :=
  ∀ (s : State) (core slot : Nat) (t : Thread) (w : Workgroup) (kind : BoxKind) (e a : Reg) (h : HReg)
    (sc : Scope) (p : PReg) (c : CopyCtl) (z : ShapeSlot) (num n : Nat) (y : JobSync),
    let x := Shape.ofBytes z.bytes
    let b := (s.core core).buf e.toNat
    let off := (t.rdG (a + 1)).toNat
    let coords := (List.range x.rank).map fun j => (t.rdG (a + BitVec.ofNat 6 (3 + j))).toInt
    let issued : JobWork → State → Prop := fun work u => JobIssued s u core slot t w h work y num n
    let taken : State → Prop := fun u => let r := (u.core core).buf e.toNat
      r.st = .filling ∧ r.owner = t.wg ∧ r.base = off ∧ r.extent = x.bytes
    let form : Instr := match kind with
      | .dense => .cpyt e a h sc p
      | .sparse => .cpys e a h sc p
      | .reduce => .cpyr e a h sc p
      | .out => .cpyo e a h sc p
    a.toNat % 8 = 0 → Quiet s (tkey core slot) t → copyCtl? (t.rdG a).toNat = some c → boxCtlOk kind c = true →
    (slotLoading s core c.slot = true → Lone s core slot t w form → t.rdP p = true →
      exec form s = .next (holdThread s (tkey core slot) .jobTable))
    ∧ (slotLoading s core c.slot = false → mget (s.core core).shapes c.slot = some z → z.owner = t.wg → x.sparse = (kind == .sparse) →
    (kind = .reduce → x.rb4 = false ∧ x.size = (combineType c.rtype).size) →
    (kind = .sparse → ∀ j, j < x.rank → (coords.getD j 0) % ((x.boxes.getD j 0 : Nat) : Int) = 0) →
    off % 16 = 0 → syncOf s (localCtx t w) c.sync (t.rdG (a + 2)).toNat = .ok y →
    freeJobNum w = some num → freeJobEntry (s.core core) = some n →
    (b.st = .free → b.release = false → off + x.bytes ≤ w.sizes.scratch →
      (kind = .dense → Completes s core slot t w (.cpyt e a h sc p) p fun u =>
        issued (.boxIn z.bytes coords off) u ∧ taken u)
      ∧ (kind = .sparse → Completes s core slot t w (.cpys e a h sc p) p fun u =>
        issued (.boxIn z.bytes coords off) u ∧ taken u)
      ∧ (kind = .reduce → Completes s core slot t w (.cpyr e a h sc p) p fun u =>
        issued (.boxReduce z.bytes coords off (combineType c.rtype) (combineOp c.rop)) u ∧ taken u))
    ∧ (kind = .reduce → b.owner = t.wg → b.st = .full → off = b.base → x.bytes = b.extent →
        off + x.bytes ≤ w.sizes.scratch → Completes s core slot t w (.cpyr e a h sc p) p fun u =>
          issued (.boxReduce z.bytes coords off (combineType c.rtype) (combineOp c.rop)) u ∧ taken u)
    ∧ (kind = .out → b.owner = t.wg → b.st = .full → off + x.bytes ≤ b.extent →
        Completes s core slot t w (.cpyo e a h sc p) p fun u =>
          issued (.boxOut z.bytes coords (b.base + off)) u
          ∧ (u.core core).buf e.toNat = { b with st := .draining, cpyos := b.cpyos + 1 }))

/-- R258, R264, R265: JOB reads its card from scratchpad and issues its work; an ARM in wafer scratchpad enters the
receive table, or completes REFUSED where the table is full or the range meets an armed one; a bad card raises
ILLEGAL_OP. -/
def Sys2Proof.Claims.CardIssue : Prop :=
  ∀ (s : State) (core slot : Nat) (t : Thread) (w : Workgroup) (a : Reg) (h : HReg) (sc : Scope) (p : PReg)
    (x : Card) (l : Local) (num e : Nat) (y : JobSync),
    Quiet s (tkey core slot) t → resolveLocal s (localCtx t w) .scratch (t.rdG a).toNat 128 false = .ok l →
    (card? (readLocal s l 128) = some x → syncOf s (localCtx t w) x.sync x.loc = .ok y →
      freeJobNum w = some num → freeJobEntry (s.core core) = some e →
      let work : JobWork := match x.op with
        | 0 => .copy ⟨x.space0, x.src0⟩ ⟨x.spaceD, x.dst⟩ x.len
        | 1 => .reduce ⟨x.space0, x.src0⟩ ⟨x.space1, x.src1⟩ ⟨x.spaceD, x.dst⟩ x.len (combineType x.rtype) (combineOp x.rop)
        | _ => .fill (BitVec.ofNat 32 x.src1) ⟨x.spaceD, x.dst⟩ x.len
      (x.op ≠ 3 → checkPlaces s (localCtx t w) x.len (cardWork x).2 = none →
        Completes s core slot t w (.job a h sc p) p fun u => JobIssued s u core slot t w h work y num e)
      ∧ (x.op = 3 → x.spaceD = .wafer → checkPlaces s (localCtx t w) x.len [(⟨.wafer, x.dst⟩, false)] = none →
          (s.chunks.length < 1024 → (∀ c ∈ s.chunks, c.space = .wafer → partsMeet c.parts [(x.dst, x.len)] = false) →
            Completes s core slot t w (.job a h sc p) p fun u =>
              JobIssued s u core slot t w h (.arm ⟨.wafer, x.dst⟩ x.len) y num e
              ∧ u.chunks = s.chunks ++ [⟨some (t.wg, num), .wafer, [(x.dst, x.len)], x.len, x.len, y, none⟩])
          ∧ (1024 ≤ s.chunks.length → Completes s core slot t w (.job a h sc p) p fun u =>
              HasToken s u (tkey core slot) t w h num 0 .refused ∧ u.chunks = s.chunks)
          ∧ ((∃ c ∈ s.chunks, c.space = .wafer ∧ partsMeet c.parts [(x.dst, x.len)] = true) →
            Completes s core slot t w (.job a h sc p) p fun u =>
              HasToken s u (tkey core slot) t w h num 0 .refused ∧ u.chunks = s.chunks)))
    ∧ (card? (readLocal s l 128) = none → Traps s core slot t w (.job a h sc p) p { cause := .illegalOp })

/-- R135, R209, R210, R256, R258: the bounds of a job's n bytes in each space, and its sync location: none, a barrier object
in S, C or W at a multiple of 32, or a flag in W at a multiple of 4. -/
def Sys2Proof.Claims.CopyLimits : Prop :=
  ∀ (s : State) (t : Thread) (w : Workgroup) (n addr : Nat) (write : Bool),
    let x := localCtx t w
    let fits : Space → Nat → Bool → Bool := fun sp n write => rangeOk s x ⟨sp, addr⟩ n write
    let sync : Nat → Space → Nat → JobSync → Prop := fun code sp size y =>
      (addr % size ≠ 0 → syncOf s x code addr = .error { cause := .align, addr := some addr, space := some sp, write := true })
      ∧ (addr % size = 0 → fits sp size true = false →
          syncOf s x code addr = .error { cause := .perm, addr := some addr, space := some sp, write := true })
      ∧ (addr % size = 0 → fits sp size true = true → syncOf s x code addr = .ok y)
    fits .global n write = true ∧ (fits .slice n write = true ↔ addr + n ≤ w.sizes.slice)
    ∧ (fits .scratch n write = true ↔ addr + n ≤ w.sizes.scratch)
    ∧ (0 < n → (fits .window n write = true ↔ addr / 2 ^ 24 < max 1 w.sizes.cgsize
        ∧ addr % 2 ^ 24 + n ≤ w.sizes.window ∧ memberOf s t.wg w (addr / 2 ^ 24) ≠ none))
    ∧ (fits .wafer n write = true ↔ (t.ta = true ∨ w.super = true ∨ (w.grantLo ≤ addr ∧ addr + n ≤ w.grantHi))
        ∧ addr + n ≤ 2 ^ 32 ∧ ¬ (write = true ∧ s.bwin = true ∧ 12 * 2 ^ 20 < addr % 2 ^ 24 + n))
    ∧ syncOf s x 0 addr = .ok .none
    ∧ (addr < 2 ^ 32 → sync 1 .scratch 32 (.barrier ⟨.scratch, addr⟩) ∧ sync 2 .window 32 (.barrier ⟨.window, addr⟩)
        ∧ sync 3 .wafer 32 (.barrier ⟨.wafer, addr⟩) ∧ sync 4 .wafer 4 (.flag addr))

/-- R254, R264, R265: the cards that JOB accepts, field by field, and what is read from one. -/
def Sys2Proof.Claims.CardFields : Prop :=
  ∀ b : List Byte, b.length = 128 →
    let at_ : Nat → Nat → Nat := fun o n => bytesNat ((b.drop o).take n)
    let c := at_ 0 4
    let op := c % 16
    let rop := c / 2 ^ 4 % 4
    let rtype := c / 2 ^ 6 % 4
    let sp : Nat → Nat := fun i => c / 2 ^ (8 + 3 * i) % 8
    let sync := c / 2 ^ 17 % 8
    let stream := c / 2 ^ 20 % 2
    let low : Nat → Nat → Prop := fun sp a => sp = 4 ∨ a < 2 ^ 32
    let spaceOf : Nat → Space := fun n => match n with
      | 0 => .slice
      | 1 => .scratch
      | 2 => .window
      | 3 => .wafer
      | _ => .global
    let region : Nat → Option Region := fun o =>
      if at_ (o + 12) 4 / 8 = 1 then some ⟨spaceOf (at_ (o + 12) 4 % 8), at_ o 8, at_ (o + 8) 4⟩ else none
    let good := op < 4 ∧ c < 2 ^ 21 ∧ (∀ i, i < 3 → sp i ≤ 4) ∧ sync ≤ 4 ∧ 4 ≤ at_ 4 4 ∧ at_ 4 4 ≤ 2 ^ 24 ∧ at_ 4 4 % 4 = 0
      ∧ at_ 36 28 = 0 ∧ at_ 112 16 = 0
      ∧ (∀ o ∈ [64, 80, 96], at_ (o + 12) 4 < 16 ∧ at_ (o + 12) 4 % 8 ≤ 4 ∧ low (at_ (o + 12) 4 % 8) (at_ o 8))
      ∧ low (sp 2) (at_ 24 8) ∧ (op ≤ 1 → low (sp 0) (at_ 8 8)) ∧ (op = 1 → low (sp 1) (at_ 16 8) ∧ rop ≠ 3 ∧ rtype ≠ 3)
      ∧ (op ≠ 1 → rop = 0 ∧ rtype = 0 ∧ sp 1 = 0) ∧ (2 ≤ op → sp 0 = 0 ∧ at_ 8 8 = 0) ∧ (op = 0 ∨ op = 3 → at_ 16 8 = 0)
      ∧ (op = 2 → at_ 16 8 < 2 ^ 32) ∧ (op = 3 → stream = 0 ∧ 3 ≤ sync ∧ 3 ≤ sp 2)
    ((card? b).isSome = true ↔ good)
    ∧ (good → card? b = some ⟨op, rop, rtype, spaceOf (sp 0), spaceOf (sp 1), spaceOf (sp 2), sync, decide (stream = 1),
        at_ 4 4, at_ 8 8, at_ 16 8, at_ 24 8, at_ 32 4, (region 64).toList ++ (region 80).toList, region 96⟩)

/-- Jobs of the copy engine as they issue: the parts CopyLimits, CardFields, CopyIssue, ShapeCopyIssue and CardIssue. -/
def Obligations.JobIssue : Prop :=
  Claims.CopyLimits ∧ Claims.CardFields ∧ Claims.CopyIssue ∧ Claims.ShapeCopyIssue ∧ Claims.CardIssue

/-- R242, R243, R266 to R268: the handle instructions. A token whose number and generation match names its job: a
WAITH waits while it is pending, returns the code of its status, or raises its fault; TESTH tests its status; a
token that names no job raises HANDLE_BAD, and the null token counts as a job that is done. MOVH copies a token. Where
a WAITH that raises a fault resumes, and its place, are DEDUCED (log 66). That a token with generation 0 of a number that was
never used names no job, and so raises HANDLE_BAD, is the model's choice (DESIGN CHOICE, log 88). -/
def Sys2Proof.Claims.HandleResults : Prop :=
  ∀ (s : State) (core slot : Nat) (t : Thread) (w : Workgroup) (a : Reg) (b : PReg) (h g : HReg) (c : HCond)
    (p : PReg) (x : JobNum) (ti : TrapInfo),
    let k := tkey core slot
    let tok := (t.rdH h).toNat
    let n := tok / 2 ^ 26
    let names := tok ≠ 0 ∧ tok % 4 ≠ 3 ∧ mget w.jobNums n = some x ∧ x.gen = tok / 4 % 2 ^ 24
    let holds : JobStatus → Bool := fun st => match c with
      | .done => decide (st ≠ .pending)
      | .ok => decide (st = .done)
      | .can => decide (st = .cancelled)
      | .flt => decide (st = .faulted)
      | .ref => decide (st = .refused)
      | .den => decide (st = .denied)
    (names → x.status ≠ .pending → x.status ≠ .faulted → GivesG s core slot t w (.waith a h p) p a (match x.status with
        | .cancelled => 1
        | .refused => 3
        | .denied => 4
        | _ => 0))
    ∧ (names → x.status = .pending → Lone s core slot t w (.waith a h p) → t.rdP p = true →
        exec (.waith a h p) s = .next (holdThread s k .handle))
    ∧ (names → x.status = .faulted → x.trap = some ti → Lone s core slot t w (.waith a h p) → t.rdP p = true →
        exec (.waith a h p) s = .next (takeTrap (s.setWg t.wg { w with jobNums := mput w.jobNums n { x with seen := true } })
          k ti (resumeOf t (.waith a h p)) (resumeOf t (.waith a h p)).retryPc))
    ∧ (names → GivesP s core slot t w (.testh b h c p) p b (holds x.status))
    ∧ (tok = 0 → GivesG s core slot t w (.waith a h p) p a 0 ∧ GivesP s core slot t w (.testh b h c p) p b (holds .done)
        ∧ Leaves s core slot t w (.cancel h p) p s)
    ∧ (tok ≠ 0 → (tok % 4 = 3 ∨ mget w.jobNums n = none ∨ ∃ y, mget w.jobNums n = some y ∧ y.gen ≠ tok / 4 % 2 ^ 24) →
        ∀ i, i = .waith a h p ∨ i = .testh b h c p ∨ i = .cancel h p → Traps s core slot t w i p { cause := .handleBad })
    ∧ Gives s core slot t w (.movh g h p) p (t.wrH h (t.rdH g))
    ∧ (names → ∃ u, Leaves s core slot t w (.cancel h p) p u ∧ u.threads = s.threads ∧
        ∀ e j, (s.core core).jobs.find? (fun z => z.2.wg == t.wg && z.2.num == n) = some (e, j) → j.work.kind = 0 →
          ∃ z, mget (u.core core).jobs e = some z ∧ z.cancel = true)

/-- R268: HSAVE stores the token and the workgroup's context tag; HREST loads them back, and raises HANDLE_BAD for
another workgroup's tag or a KIND of 3. At a bank whose clock is stopped a HREST waits (R427). -/
def Sys2Proof.Claims.SavedHandles : Prop :=
  ∀ (s r : State) (core slot : Nat) (t : Thread) (w : Workgroup) (a : Reg) (h : HReg) (sp : Space) (p : PReg)
    (l : Local) (pa : Nat) (bytes : List Byte) (line : L1Line),
    let k := tkey core slot
    let va : Nat := (t.rdG a).toNat + 2 ^ 32 * (t.rdG (a + 1)).toNat
    let saved := natBytes 4 (t.rdH h).toNat ++ natBytes 4 t.wg
    let good : List Byte → Prop := fun b => bytesNat (b.take 4) = 0
      ∨ (bytesNat ((b.drop 4).take 4) = t.wg ∧ bytesNat (b.take 4) % 4 ≠ 3)
    (sp ≠ .global → resolveLocal s ⟨t.lin, t.wg, w, supervisor t w⟩ sp (t.rdG a).toNat 8 true = .ok l → bankRuns s l = true →
      LeavesSettled s core slot t w (.hsave a h sp p) p (writeLocal s l saved))
    ∧ (sp ≠ .global → resolveLocal s ⟨t.lin, t.wg, w, supervisor t w⟩ sp (t.rdG a).toNat 8 false = .ok l → bankRuns s l = true →
        let b := readLocal s l 8
        (good b → LeavesSettled s core slot t w (.hrest a h sp p) p
          (s.setThread k (t.wrH h (BitVec.ofNat 32 (bytesNat (b.take 4))))))
        ∧ (¬ good b → Settled s k t → Traps s core slot t w (.hrest a h sp p) p { cause := .handleBad }))
    ∧ (sp ≠ .global → resolveLocal s ⟨t.lin, t.wg, w, supervisor t w⟩ sp (t.rdG a).toNat 8 false = .ok l → bankRuns s l = false →
        Settled s k t → Lone s core slot t w (.hrest a h sp p) → t.rdP p = true →
        exec (.hrest a h sp p) s = .next (holdThread s k .order))
    ∧ (sp = .global → resolveG s (ctxOf k (laneOf slot) t w) va 8 .dflt false true false = (.at (.vault (pa % 2 ^ 48)) pa, r) →
        Undisturbed r k → coldError r (pa % 2 ^ 48 / 128) = none →
        l1Try r core (pa % 2 ^ 48 / 128) w.hashdom true = .hit line →
        LeavesSettled s core slot t w (.hsave a h sp p) p (r.setL1 core (pa % 2 ^ 48 / 128)
          { line with st := .m, data := patchLine line.data (pa % 128) saved }))
    ∧ (sp = .global → readGlobal s k (laneOf slot) t w va 8 = .ok bytes r → good bytes →
        LeavesSettled s core slot t w (.hrest a h sp p) p
          (r.modThread k fun x => x.wrH h (BitVec.ofNat 32 (bytesNat (bytes.take 4)))))

/-- The handle instructions: the parts HandleResults and SavedHandles. -/
def Obligations.Handles : Prop :=
  Claims.HandleResults ∧ Claims.SavedHandles

/-- R111, R112: PGQRY is counted and tells whether a page is resident and may be loaded; PGREQ completes DONE for a
resident page, DENIED beyond the address space, and for an absent page joins the page-request entry that is there for it
or takes one, or completes REFUSED where all sixteen are taken. That PGQRY answers by the page's U and R bits alone is a
DESIGN CHOICE (log 70). -/
def Sys2Proof.Claims.PageRequests : Prop :=
  ∀ (s r : State) (core slot : Nat) (t : Thread) (w : Workgroup) (a : Reg) (d : PReg) (h : HReg) (p : PReg)
    (e : Trans) (leaf leafAt num n at_ : Nat) (x : PageReq),
    let k := tkey core slot
    let va : Nat := (t.rdG a).toNat + 2 ^ 32 * (t.rdG (a + 1)).toNat
    let found := lookup s (.thread k) w.asid w.ptbase va
    let allowed := e.r = true ∧ (t.ta = true ∨ w.super = true ∨ e.u = true)
    (2 ^ 52 ≤ va → GivesCounted s core slot t w (.pgqry a d p) p [.p d false])
    ∧ (va < 2 ^ 52 → found = (.page e, r) →
        Leaves s core slot t w (.pgqry a d p) p (r.setThread k (t.countResult [.p d (decide allowed)])))
    ∧ (va < 2 ^ 52 → found = (.absent leaf leafAt, r) →
        Leaves s core slot t w (.pgqry a d p) p (r.setThread k (t.countResult [.p d false])))
    ∧ (va < 2 ^ 52 → found.1 = .busy → Lone s core slot t w (.pgqry a d p) → t.rdP p = true →
        exec (.pgqry a d p) s = .next (holdThread found.2 k .busy))
    ∧ (freeJobNum w = some num → freeJobEntry (s.core core) = some n → 2 ^ 52 ≤ va →
        ∃ u, Leaves s core slot t w (.pgreq a h p) p u ∧ HasToken s u k t w h num 1 .denied)
    ∧ (freeJobNum w = some num → freeJobEntry (r.core core) = some n → va < 2 ^ 52 → r.threads = s.threads →
        (found = (.page e, r) → ∃ u, Leaves s core slot t w (.pgreq a h p) p u ∧ HasToken s u k t w h num 1 .done)
        ∧ (found = (.absent leaf leafAt, r) → 16 ≤ (r.core core).pageReqs.length →
            ∃ u, Leaves s core slot t w (.pgreq a h p) p u ∧ HasToken s u k t w h num 1 .refused)
        ∧ (found = (.absent leaf leafAt, r) → (r.core core).pageReqs.length < 16 →
            let same := (r.core core).pageReqs.find? fun y => y.2.asid == w.asid && y.2.va / 2 ^ 14 == va / 2 ^ 14
            (same = none → (List.range 16).find? (fun j => (mget (r.core core).pageReqs j).isNone) = some at_ →
              ∃ u y, Leaves s core slot t w (.pgreq a h p) p u ∧ HasToken s u k t w h num 1 .pending
                ∧ (u.core core).pageReqs = mput (r.core core).pageReqs at_ y ∧ y.va = va ∧ y.asid = w.asid
                ∧ y.handles = [(t.wg, num)])
            ∧ (same = some (at_, x) → ∃ u, Leaves s core slot t w (.pgreq a h p) p u ∧ HasToken s u k t w h num 1 .pending
                ∧ (u.core core).pageReqs = mput (r.core core).pageReqs at_ { x with handles := x.handles ++ [(t.wg, num)] })))

/-- R115, R116, R237: in supervisor context TLBI puts one record into carousel 0's queue of its cluster (DEDUCED, log 46:
one queue for each cluster and carousel) and SWEEP one with a handle, once the core's TLBIs have been applied; a selector that is not well formed raises ILLEGAL_OP and a
full queue holds the thread. A CCTL of
a line that its core's L1 does not hold completes DONE, the home writes the record of an L2CLEAN or L2EVICT, behind a
handle, and a CCTL of an absent page traps. -/
def Sys2Proof.Claims.Maintenance : Prop :=
  ∀ (s r : State) (core slot : Nat) (t : Thread) (w : Workgroup) (a b : Reg) (h : HReg) (p : PReg) (num n pa : Nat)
    (leaf at_ : Nat),
    let k := tkey core slot
    let va : Nat := (t.rdG a).toNat + 2 ^ 32 * (t.rdG (a + 1)).toNat
    let sel := (t.rdG b).toNat
    let line := pa % 2 ^ 48 / 128
    let q := queueKey (clusterOf core) 0
    let super := t.ta = true ∨ w.super = true
    (super → sel < 2 ^ 10 → sel / 2 ^ 8 ≠ 3 → queueRoom s (clusterOf core) 0 = true →
      (∃ x u, Leaves s core slot t w (.tlbi b a p) p u ∧ u.queue q = s.queue q ++ [x] ∧ x.kind = .tlbi
        ∧ x.line = va ∧ x.arg = sel ∧ u.threads = s.threads)
      ∧ (tlbiPending s core = false → freeJobNum w = some num → freeJobEntry (s.core core) = some n →
          ∃ x u, Leaves s core slot t w (.sweep b h p) p u ∧ HasToken s u k t w h num 2 .pending
            ∧ u.queue q = s.queue q ++ [x] ∧ x.kind = .sweep ∧ x.arg = sel))
    ∧ (super → 2 ^ 10 ≤ sel ∨ sel / 2 ^ 8 = 3 → Traps s core slot t w (.tlbi b a p) p { cause := .illegalOp }
        ∧ Traps s core slot t w (.sweep b h p) p { cause := .illegalOp })
    ∧ (super → sel < 2 ^ 10 → sel / 2 ^ 8 ≠ 3 → queueRoom s (clusterOf core) 0 = false →
        Lone s core slot t w (.tlbi b a p) → t.rdP p = true →
        exec (.tlbi b a p) s = .next (holdThread s k .recordQueue))
    ∧ (super → sel < 2 ^ 10 → sel / 2 ^ 8 ≠ 3 → tlbiPending s core = true → Lone s core slot t w (.sweep b h p) →
        t.rdP p = true → exec (.sweep b h p) s = .next (holdThread s k .order))
    ∧ (super → (s.core core).l1 = [] → freeJobNum w = some num → freeJobEntry (s.core core) = some n →
        ∃ u, Leaves s core slot t w (.cctlL1flush h p) p u ∧ HasToken s u k t w h num 2 .done)
    ∧ (translate s (ctxOf k (laneOf slot) t w) va true false = (.pa pa, r) → pa % 2 ^ 48 < 2 ^ 43 →
        pa / 2 ^ 48 = r.page.moduleId → r.threads = s.threads → r.wgs = s.wgs →
        freeJobNum w = some num → freeJobEntry (r.core core) = some n →
        (r.l1? core line = none → ∃ u, Leaves s core slot t w (.cctlL1evict a h p) p u ∧ HasToken s u k t w h num 2 .done)
        ∧ (queueRoom r (vaultOf line) (line % 8) = true → ∃ x u, Leaves s core slot t w (.cctlL2clean a h p) p u
            ∧ HasToken s u k t w h num 2 .pending
            ∧ u.queue (queueKey (vaultOf line) (line % 8)) = r.queue (queueKey (vaultOf line) (line % 8)) ++ [x]
            ∧ x.kind = .bypr ∧ x.line = line)
        ∧ (queueRoom r (vaultOf line) (line % 8) = true → ∃ x u, Leaves s core slot t w (.cctlL2evict a h p) p u
            ∧ HasToken s u k t w h num 2 .pending
            ∧ u.queue (queueKey (vaultOf line) (line % 8)) = r.queue (queueKey (vaultOf line) (line % 8)) ++ [x]
            ∧ x.kind = .inv ∧ x.line = line))
    ∧ (translate s (ctxOf k (laneOf slot) t w) va true false = (.absent leaf at_, r) →
        r.gather = none → ∀ i, i = .cctlL1evict a h p ∨ i = .cctlL2clean a h p ∨ i = .cctlL2evict a h p →
          Lone s core slot t w i → t.rdP p = true → exec i s = .next (takeTrap r k
            { cause := .pageAbsent, addr := some va, space := some .global } (resumeOf t i) (resumeOf t i).retryPc))

/-- Page requests, TLBI, SWEEP and CCTL: the parts PageRequests and Maintenance. -/
def Obligations.PageAndMaintenance : Prop :=
  Claims.PageRequests ∧ Claims.Maintenance

/-- R360, R362: an object stored at its place reads back field by field; the completion test raises the phase modulo
256 and clears ARR exactly where INIT is set, ARR has reached EXP and PEND is zero, and a completed phase wakes every
thread that waits on the object. -/
def Sys2Proof.Claims.BarrierObject : Prop :=
  (∀ (s : State) (l : Local) (b : Bar) (done : Bool),
    (∃ off, l = .wafer off) ∨ (∃ g off x, l = .scratch g off ∧ s.wg? g = some x) →
    b.exp < 2 ^ 16 → b.arr < 2 ^ 16 → b.ph < 256 → b.flags < 256 → b.pend < 2 ^ 56 →
    Bar.ofBytes (readLocal (storeBar s l (b, done)) l 32) = b
    ∧ (done = false → (storeBar s l (b, done)).threads = s.threads)
    ∧ (done = true → ∀ k t, s.thread? k = some t → ∃ u, (storeBar s l (b, done)).thread? k = some u
        ∧ u.woken = (if t.woken = some (l, false) then some (l, true) else t.woken)))
  ∧ ∀ b : Bar, b.test = if b.flags / 2 % 2 = 1 ∧ b.exp ≤ b.arr ∧ b.pend = 0
      then ({ b with ph := (b.ph + 1) % 256, arr := 0 }, true) else (b, false)

/-- R209, R360: what a pair names: an object of 32 bytes in scratchpad, window or wafer scratchpad, whose traps are
BAR_OVERFLOW with its place; a pair that is no descriptor, or of space G, gives PERM, an address that is no multiple of 32
ALIGN, and one out of bounds PERM. -/
def Sys2Proof.Claims.BarrierPlaces : Prop :=
  ∀ (s : State) (t : Thread) (w : Workgroup) (d : DWord) (write : Bool) (x : Descriptor),
    let found := resolveBar s t w d write
    let fails : Cause → Prop := fun c => found = .error { cause := c, addr := some x.addr, space := some x.space, write := write }
    let outside : Nat → Nat → Prop := fun lo hi => x.addr < lo ∨ hi < x.addr + 32
    (descriptor? d = none → found = .error { cause := .perm })
    ∧ (descriptor? d = some x →
        (x.space = .global → found = .error { cause := .perm })
        ∧ (x.space ≠ .global → x.addr % 32 ≠ 0 → fails .align)
        ∧ (x.addr % 32 = 0 → x.space = .scratch → outside 0 w.sizes.scratch → fails .perm)
        ∧ (x.addr % 32 = 0 → x.space = .window →
            max 1 w.sizes.cgsize ≤ x.addr / 2 ^ 24 ∨ w.sizes.window < x.addr % 2 ^ 24 + 32 → fails .perm)
        ∧ (x.addr % 32 = 0 → x.space = .wafer → t.ta = false → w.super = false → outside w.grantLo w.grantHi → fails .perm)
        ∧ (∀ l ov, found = .ok (l, ov) → x.addr % 32 = 0 ∧ x.space ≠ .global
            ∧ ov = { cause := .barOverflow, addr := some x.addr, space := some x.space, write := write }
            ∧ (x.space = .scratch → l = .scratch t.wg x.addr) ∧ (x.space = .wafer → l = .wafer x.addr)))

/-- R363, R364, R366: the barrier instructions on an object x that their pair names; where the operation does not fit
the object they raise BAR_OVERFLOW (ov is that trap, by BarrierPlaces), and where the pair names none its trap e; at a bank
whose clock is stopped they wait (R427). -/
def Sys2Proof.Claims.BarrierResults : Prop :=
  ∀ (s : State) (core slot : Nat) (t : Thread) (w : Workgroup) (a b d : Reg) (q p : PReg) (l : Local) (ov e : TrapInfo),
    let k := tkey core slot
    let x := Bar.ofBytes (readLocal s l 32)
    let v := (t.rdG b).toNat
    let ready := x.flags / 2 % 2 = 1
    let names : Bool → Prop := fun write => resolveBar s t w (t.rdPair a) write = .ok (l, ov) ∧ bankRuns s l = true
    let holds : State → Prop := fun u => Lone s core slot t w (.barwait b a p) → Settled s k t → t.rdP p = true →
      exec (.barwait b a p) s = .next (holdThread u k .barrier)
    (names true → ready → v < 2 ^ 31 → LeavesSettled s core slot t w (.barinit b a p) p s)
    ∧ (names true → ¬ ready ∨ 2 ^ 31 ≤ v → LeavesSettled s core slot t w (.barinit b a p) p
        (storeBar s l (⟨v % 2 ^ 16, 0, 0, 2, 0⟩, false)))
    ∧ (names true → ready → x.arr < x.exp → LeavesSettled s core slot t w (.bararv a d p) p
        ((storeBar s l ({ x with arr := x.arr + 1 }).test).modThread k fun y => y.wrG d (BitVec.ofNat 32 x.ph)))
    ∧ (names true → ¬ ready ∨ x.exp ≤ x.arr → Settled s k t → Traps s core slot t w (.bararv a d p) p ov)
    ∧ (names true → ready → x.pend + v < 2 ^ 56 → LeavesSettled s core slot t w (.barexp b a p) p
        (storeBar s l ({ x with pend := x.pend + v }, false)))
    ∧ (names true → ¬ ready ∨ 2 ^ 56 ≤ x.pend + v → Settled s k t → Traps s core slot t w (.barexp b a p) p ov)
    ∧ (names true → ready → x.exp ≠ 0 → LeavesSettled s core slot t w (.bardrop a p) p
        (storeBar s l ({ x with exp := x.exp - 1 }).test))
    ∧ (names true → ¬ ready ∨ x.exp = 0 → Settled s k t → Traps s core slot t w (.bardrop a p) p ov)
    ∧ (names false → ready → LeavesSettled s core slot t w (.bartest b a q p) p
        (s.setThread k (t.wrP q (decide (x.ph ≠ v % 256)))))
    ∧ (names false → t.woken = none → ready → x.ph ≠ v % 256 → LeavesSettled s core slot t w (.barwait b a p) p s)
    ∧ (names false → t.woken = none → ready → x.ph = v % 256 → holds (s.setThread k { t with woken := some (l, false) }))
    ∧ (names false → t.woken = some (l, false) → holds s)
    ∧ (names false → t.woken = some (l, true) → LeavesSettled s core slot t w (.barwait b a p) p s)
    ∧ (names false → t.woken = none → ¬ ready → Settled s k t → Traps s core slot t w (.bartest b a q p) p ov
        ∧ Traps s core slot t w (.barwait b a p) p ov)
    ∧ (resolveBar s t w (t.rdPair a) true = .error e → Settled s k t →
        ∀ i, i = .barinit b a p ∨ i = .bararv a d p ∨ i = .barexp b a p ∨ i = .bardrop a p → Traps s core slot t w i p e)
    ∧ (resolveBar s t w (t.rdPair a) false = .error e → Settled s k t →
        Traps s core slot t w (.barwait b a p) p e ∧ Traps s core slot t w (.bartest b a q p) p e)
    ∧ (resolveBar s t w (t.rdPair a) true = .ok (l, ov) → bankRuns s l = false → Settled s k t →
        ∀ i, i = .barinit b a p ∨ i = .bararv a d p ∨ i = .barexp b a p ∨ i = .bardrop a p →
          Lone s core slot t w i → t.rdP p = true → exec i s = .next (holdThread s k .order))

/-- Barrier objects: the parts BarrierObject, BarrierPlaces and BarrierResults. -/
def Obligations.Barriers : Prop :=
  Claims.BarrierObject ∧ Claims.BarrierPlaces ∧ Claims.BarrierResults

/-- R367 to R369: an SSTEP for phase k may return, with LEAD 0 once every workgroup of the grid has reached phase k, else once
every neighbour has reached phase k − LEAD, if there is such a phase: the neighbours are the stages beside it, or with one
stage the workgroups one step away in one dimension. A running workgroup has reached what its threads have all counted, as
the others know it once it has been told them; one not yet dispatched none, and one that has ended every phase. -/
def Sys2Proof.Claims.StepPhases : Prop :=
  ∀ (s : State) (g k n h : Nat) (w x : Workgroup) (l : Launch),
    let z := w.sizes
    let c := w.coords
    let index : Nat → Nat → Nat → Nat → Nat := fun a b q st => a + z.gridX * (b + z.gridY * (q + z.gridZ * st))
    let one : Nat → Nat → Prop := fun a b => a + 1 = b ∨ a = b + 1
    let near : Nat → Prop := fun n =>
      (1 < z.stages ∧ ∃ st, st < z.stages ∧ one st c.stage ∧ n = index c.x c.y c.z st)
      ∨ (z.stages ≤ 1 ∧ ((∃ a, a < z.gridX ∧ one a c.x ∧ n = index a c.y c.z 0)
          ∨ (∃ a, a < z.gridY ∧ one a c.y ∧ n = index c.x a c.z 0) ∨ ∃ a, a < z.gridZ ∧ one a c.z ∧ n = index c.x c.y a 0))
    let known : Nat → Nat → Prop := fun n k => reached s g c.launch n k = true
    let here : Nat × Workgroup → Prop := fun y => y ∈ s.wgs ∧ y.2.coords.launch = c.launch ∧ y.2.coords.linear = n
      ∧ y.2.phase ≠ .ended ∧ y.2.phase ≠ .gone
    c.x < z.gridX → c.y < z.gridY → c.z < z.gridZ → c.stage < z.stages →
    (stepMayReturn s g w k = true ↔
      if w.lead = 0 then ∀ n, n < z.gridX * z.gridY * z.gridZ * z.stages → known n k
      else k < w.lead ∨ ∀ n, near n → known n (k - w.lead))
    ∧ (here (h, x) → (∀ y, here y → y = (h, x)) →
        (h = g → x.phase = .placed → ¬ known n k)
        ∧ (h = g → x.phase ≠ .placed → x.image = none → (known n k ↔ ∀ y ∈ s.threads, y.2.wg = g → k < y.2.sstep))
        ∧ (h ≠ g → (known n k ↔ ∀ m, x.phasePub = some m → k < m)))
    ∧ ((∀ y, ¬ here y) → mget s.launch.launches c.launch = some l → (known n k ↔ n ∈ l.placed))

/-- R369: an SSTEP counts its phase, returns it where LEAD allows, and waits else; a waiting one does not count again. The
count is made once the thread's own accesses are performed and its core's acknowledgement counter is clear: R175 has every
event before the SSTEP of a thread precede those after the SSTEP of a thread that it releases, so what is pending must take
its place before the count can release another (DEDUCED, log 83). -/
def Sys2Proof.Claims.SuperstepResults : Prop :=
  ∀ (s : State) (core slot : Nat) (t : Thread) (w : Workgroup) (d : Reg) (p : PReg) (since : Nat),
    let k := tkey core slot
    let c := s.setThread k { t with sstep := t.sstep + 1 }
    (t.wait = none → stepMayReturn c t.wg w t.sstep = true → LeavesSettled s core slot t w (.sstep d p) p
        (c.setThread k ({ t with sstep := t.sstep + 1 }.wrG d (BitVec.ofNat 32 t.sstep))))
    ∧ (t.wait = none → stepMayReturn c t.wg w t.sstep = false → Lone s core slot t w (.sstep d p) → Settled s k t →
        t.rdP p = true → exec (.sstep d p) s = .next (holdThread c k .superstep))
    ∧ (t.wait = some (.superstep, since) → stepMayReturn s t.wg w (t.sstep - 1) = true →
        Leaves s core slot t w (.sstep d p) p (s.setThread k (t.wrG d (BitVec.ofNat 32 (t.sstep - 1)))))
    ∧ (t.wait = some (.superstep, since) → stepMayReturn s t.wg w (t.sstep - 1) = false → Lone s core slot t w (.sstep d p) →
        t.rdP p = true → exec (.sstep d p) s = .next (holdThread s k .superstep))
    ∧ (t.wait = none → ownAccs s k ≠ [] → Lone s core slot t w (.sstep d p) → t.rdP p = true →
        exec (.sstep d p) s = .next (holdThread s k .step))
    ∧ (t.wait = none → ownAccs s k = [] → (s.core core).acks ≠ 0 → Lone s core slot t w (.sstep d p) → t.rdP p = true →
        exec (.sstep d p) s = .next (holdThread s k .step))

/-- R371: RDV with a partner outside the workgroup or with itself raises PERM; with one that has exited it returns 0;
it posts and waits where the partner stands at no RDV for it, and else both exchange values, counted on setA, and go
on. -/
def Sys2Proof.Claims.RendezvousResults : Prop :=
  ∀ (s : State) (core slot : Nat) (t : Thread) (w : Workgroup) (b a d : Reg) (p : PReg) (j : Nat) (u : Thread)
    (v : Word) (e : Reg),
    let k := tkey core slot
    let q := (t.rdG b).toNat
    let got : Thread → Reg → Word → List Flight := fun x r y =>
      x.inflight ++ [{ flag := x.flagA, result := some [.g r y], pc := x.pc, inTrap := x.ta }]
    (w.sizes.threads ≤ q ∨ q = t.lin → Traps s core slot t w (.rdv b a d p) p { cause := .perm })
    ∧ (q < w.sizes.threads → q ≠ t.lin → q ∈ w.exited → ∃ x y, Leaves s core slot t w (.rdv b a d p) p x
        ∧ x.thread? k = some y ∧ y.inflight = got t d 0 ∧ y.rdv = none)
    ∧ (q < w.sizes.threads → q ≠ t.lin → ownAccs s k = [] → q ∉ w.exited → t.rdv = none →
        (memberThread s w q = none ∨ ∃ z, memberThread s w q = some (j, z) ∧ z.rdv = none) →
        Lone s core slot t w (.rdv b a d p) → t.rdP p = true →
        exec (.rdv b a d p) s = .next (holdThread (s.setThread k { t with rdv := some (q, t.rdG a, d) }) k .rendezvous))
    ∧ (q < w.sizes.threads → q ≠ t.lin → ownAccs s k = [] → q ∉ w.exited → t.rdv = none → j ≠ k →
        memberThread s w q = some (j, u) → u.rdv = some (t.lin, v, e) →
        ∃ x y z, Leaves s core slot t w (.rdv b a d p) p x ∧ x.thread? k = some y ∧ y.inflight = got t d v ∧ y.rdv = none
          ∧ x.thread? j = some z ∧ z.inflight = got u e (t.rdG a) ∧ z.rdv = none ∧ z.pc = u.pc + 4 ∧ z.wait = none)

/-- R372: LAUNCH appends the record, with its priority at most the launch's and the module bytes, to the binding's
device queue and returns 0; it returns 1 where the queue is full, and, a DESIGN CHOICE (log 84), where it is off, is a host
queue or DEVEN is 0; a misaligned address raises ALIGN. -/
def Sys2Proof.Claims.DeviceLaunch : Prop :=
  ∀ (s r : State) (core slot : Nat) (t : Thread) (w : Workgroup) (a d : Reg) (p : PReg) (rec : List Byte) (l : Launch),
    let k := tkey core slot
    let va : Nat := (t.rdG a).toNat + 2 ^ 32 * (t.rdG (a + 1)).toNat
    let q := r.lqueue l.binding.devq
    let n := 2 ^ max 1 (min 12 q.size)
    let open_ := l.binding.deven = true ∧ q.en = true ∧ q.dev = true ∧ (q.tail + 1) % n ≠ q.head % n
    (va % 256 ≠ 0 → Settled s k t → Traps s core slot t w (.launch a d p) p
      { cause := .align, addr := some va, space := some .global })
    ∧ (va % 256 = 0 → readGlobal s k (laneOf slot) t w va 256 = .ok rec r → rec.length = 256 →
        mget r.launch.launches w.coords.launch = some l →
        (open_ → ∃ (u : State) (x : List Byte), LeavesSettled s core slot t w (.launch a d p) p (u.modThread k fun y => y.wrG d 0)
          ∧ (u.lqueue l.binding.devq).tail = (q.tail + 1) % n ∧ u.threads = r.threads ∧ u.vmem = r.vmem
          ∧ u.wmem = writeBytes r.wmem ((q.base + 256 * (q.tail % n)) % 2 ^ 32) x
          ∧ x.length = 256 ∧ x.take 41 = rec.take 41 ∧ (x.drop 42).take 198 = (rec.drop 42).take 198
          ∧ bytesNat ((x.drop 41).take 1) % 16 = min (bytesNat ((rec.drop 41).take 1) % 16) l.priority
          ∧ bytesNat ((x.drop 41).take 1) / 16 = bytesNat ((rec.drop 41).take 1) / 16
          ∧ (x.drop 240).take 5 = natBytes 1 l.binding.queue ++ natBytes 1 w.asid ++ natBytes 2 w.hashdom ++ [1])
        ∧ (¬ open_ → LeavesSettled s core slot t w (.launch a d p) p (r.modThread k fun y => y.wrG d 1)))

/-- SSTEP, RDV and LAUNCH: the parts StepPhases, SuperstepResults, RendezvousResults and DeviceLaunch. -/
def Obligations.Meeting : Prop :=
  Claims.StepPhases ∧ Claims.SuperstepResults ∧ Claims.RendezvousResults ∧ Claims.DeviceLaunch

/-- R315, R318 to R320, R330: MRSV takes a free engine, and says whether its workgroup has it; MREL leaves it to the
accepted items; MZERO queues its item; MSTAT reads the engine or a counter; without the engine MZERO raises
MRSV_NONE, and a full queue holds the thread. -/
def Sys2Proof.Claims.EngineControl : Prop :=
  ∀ (s : State) (core slot : Nat) (t : Thread) (w : Workgroup) (n d : Reg) (b q p : PReg) (x : Bool) (acc : HReg),
    let k := tkey core slot
    let e := s.engine core
    let mine := e.owner = some t.wg ∧ e.releasing = false
    (mine → Gives s core slot t w (.mrsv q p) p (t.wrP q true))
    ∧ (e.owner = none → Leaves s core slot t w (.mrsv q p) p
        ((s.modEngine core fun y => { y with owner := some t.wg, releasing := false }).setThread k (t.wrP q true)))
    ∧ (¬ mine → e.owner ≠ none → Gives s core slot t w (.mrsv q p) p (t.wrP q false))
    ∧ (e.owner = some t.wg → Leaves s core slot t w (.mrel p) p (s.modEngine core fun y =>
        { y with releasing := true, queue := y.queue.map fun z => { z with closed := true } }))
    ∧ (e.owner ≠ some t.wg → ∃ u, Leaves s core slot t w (.mrel p) p u ∧ u.engine core = e ∧ u.threads = s.threads)
    ∧ (mine → e.queue.length < 8 → ∃ u y, Leaves s core slot t w (.mzero x b acc p) p u ∧ u.threads = s.threads
        ∧ (u.engine core).queue = e.queue ++ [y] ∧ y.kind = .zero ∧ y.tile = acc.toNat ∧ y.band = b.toNat
        ∧ y.whole = x ∧ y.flag = none ∧ y.started = none)
    ∧ (mine → 8 ≤ e.queue.length → Lone s core slot t w (.mzero x b acc p) → t.rdP p = true →
        exec (.mzero x b acc p) s = .next (holdThread s k .engineQueue))
    ∧ (¬ mine → Traps s core slot t w (.mzero x b acc p) p { cause := .mrsvNone })
    ∧ (1 ≤ n.toNat → n.toNat ≤ 5 → GivesCounted s core slot t w (.mstat n d p) p
        [.g d (BitVec.ofNat 32 (w.mstat.toList.getD n.toNat 0))])
    ∧ ∃ v : Nat, GivesCounted s core slot t w (.mstat 0 d p) p [.g d (BitVec.ofNat 32 v)]
        ∧ v % 16 = (if e.owner = none then 0 else if e.releasing then 3 else if e.owner = some t.wg then 1 else 2)
        ∧ (e.owner ≠ some t.wg → v < 16) ∧ (e.owner = some t.wg → e.queue.length ≤ 8 → v / 2 ^ 4 % 16 = e.queue.length)

/-- R321, R322, R324, R326, R328, R329: a multiply, an MLD and an MST that pass their checks are accepted, counted on
setB: a multiply opens a pass in an empty queue, and joins a forming one of its kind and B with fewer than eight
members none of which has its band; without the engine each raises MRSV_NONE, and a bad descriptor PERM. -/
def Sys2Proof.Claims.MatrixResults : Prop :=
  ∀ (s r v : State) (core slot : Nat) (t : Thread) (w : Workgroup) (i : Instr) (kind : MmaKind) (bsel : Bool)
    (b a : Reg) (n : PReg) (acc : HReg) (p : PReg) (f : MstFmt) (da db : Descriptor) (la lb : List Operand) (x : Item),
    let k := tkey core slot
    let e := s.engine core
    let mine := e.owner = some t.wg ∧ e.releasing = false
    let six := (i = .mmaHBf16 b a n acc p ∧ kind = .bf16 ∧ bsel = false) ∨ (i = .mmaHF16 b a n acc p ∧ kind = .f16 ∧ bsel = false)
      ∨ (i = .mmaQE4m3 b a bsel n acc p ∧ kind = .e4m3) ∨ (i = .mmaQE5m2 b a bsel n acc p ∧ kind = .e5m2)
      ∨ (i = .mmaNRb4 b a n acc p ∧ kind = .rb4 ∧ bsel = false) ∨ (i = .mmaNI8 b a bsel n acc p ∧ kind = .i8)
    let scaled := decide (kind ≠ .bf16 ∧ kind ≠ .f16)
    let member : Member := ⟨k, t.pc, t.flagB, acc.toNat, (n.toNat + da.bofs) % 8, la,
      if scaled then t.rdSpan 56 8 else [], none, [], w.asid⟩
    let counted : State → Prop := fun u => ∃ y, u.thread? k = some y ∧ y.rdF t.flagB = t.rdF t.flagB + 1
      ∧ KeepsRegs t y [] [] [] [] ∧ KeepsRest t y
    (¬ mine → (six → Traps s core slot t w i p { cause := .mrsvNone })
      ∧ Traps s core slot t w (.mld a n acc p) p { cause := .mrsvNone }
      ∧ Traps s core slot t w (.mst a f n acc p) p { cause := .mrsvNone })
    ∧ (mine → Quiet s k t → descriptor? (t.rdPair a) = none →
        (w.stale = [] → six → Traps s core slot t w i p { cause := .perm })
        ∧ Traps s core slot t w (.mld a n acc p) p { cause := .perm }
        ∧ Traps s core slot t w (.mst a f n acc p) p { cause := .perm })
    ∧ (mine → Quiet s k t → w.stale = [] → six → t.flagB < 12 → descriptor? (t.rdPair a) = some da →
        descriptor? ((w.sregs[(b + 1).toNat]'(b + 1).isLt) ++ (w.sregs[b.toNat]'b.isLt)) = some db →
        da.addr % 128 = 0 → db.addr % 256 = 0 →
        operandLines s k (laneOf slot) t w da.space da.addr false 6 = .ok la r →
        operandLines r k (laneOf slot) t w db.space db.addr false (if scaled then 50 else 48) = .ok lb v →
        v.threads = s.threads → v.cycles core = s.cycles core → v.engine core = e →
        (e.queue = [] → ∃ u y, Leaves s core slot t w i p u ∧ counted u ∧ (u.engine core).queue = [y]
          ∧ y.kind = .pass ∧ y.mma = kind ∧ y.bsel = bsel ∧ y.b = lb ∧ y.members = [member] ∧ y.closed = false
          ∧ y.opened = s.cycles core)
        ∧ (e.queue = [x] → x.kind = .pass → x.closed = false → x.mma = kind → x.bsel = bsel → x.bKey = db.key →
            x.members.length < 8 → (∀ y ∈ x.members, y.tile ≠ member.tile ∨ y.band ≠ member.band) →
            s.cycles core < x.opened + 32 → ∃ u, Leaves s core slot t w i p u ∧ counted u
              ∧ (u.engine core).queue = [{ x with
                  members := x.members ++ [member], closed := decide (x.members.length = 7) }]))
    ∧ (mine → Quiet s k t → t.flagB < 12 → descriptor? (t.rdPair a) = some da → da.space ≠ .global →
        da.addr % 128 = 0 → e.queue.length < 8 →
        (operandLines s k (laneOf slot) t w da.space da.addr false 16 = .ok la s →
          ∃ u y, Leaves s core slot t w (.mld a n acc p) p u ∧ counted u ∧ (u.engine core).queue = e.queue ++ [y]
            ∧ y.kind = .load ∧ y.tile = acc.toNat ∧ y.band = (n.toNat + da.bofs) % 8 ∧ y.mem = la
            ∧ y.flag = some t.flagB)
        ∧ (operandLines s k (laneOf slot) t w da.space da.addr true (4 * mstSize f) = .ok la s →
          ∃ u y, Leaves s core slot t w (.mst a f n acc p) p u ∧ counted u ∧ (u.engine core).queue = e.queue ++ [y]
            ∧ y.kind = .store ∧ y.tile = acc.toNat ∧ y.band = (n.toNat + da.bofs) % 8 ∧ y.mem = la ∧ y.fmt = f
            ∧ y.flag = some t.flagB))

/-- The matrix engine as its instructions issue: the parts EngineControl and MatrixResults. -/
def Obligations.MatrixIssue : Prop :=
  Claims.EngineControl ∧ Claims.MatrixResults

/-- R324, R326, R316: a pass that has formed for 32 cycles closes; the earliest pass started 96 cycles ago ends: it
leaves the queue, the flag of each member decrements, each element of a good member's band takes its step, every other
tile element keeps its value, and the counter of members rises. -/
def Sys2Proof.Claims.PassEvents : Prop :=
  (∀ (s : State) (core : Nat) (x : Item), (s.engine core).queue = [x] → x.kind = .pass → x.closed = false →
    Happens s (.passCloseTimeout core) (x.opened + 32 ≤ s.cycles core) fun u =>
      (u.engine core).queue = [{ x with closed := true }] ∧ (u.engine core).tiles = (s.engine core).tiles
        ∧ u.threads = s.threads)
  ∧ ∀ (s : State) (core g at_ : Nat) (w : Workgroup) (x : Item),
    let e := s.engine core
    let good := x.members.filter fun m => (m.bad.or x.bBad).isNone
    e.owner = some g → s.wg? g = some w → e.queue.find? (fun y => y.started.isSome) = some x →
    x.started = some at_ → (x.members.map fun m => (m.tile, m.band)).Nodup → (∀ m ∈ x.members, m.band < 8) →
    Happens s (.passCompletion core) (at_ + 96 ≤ s.cycles core) fun u =>
      (u.engine core).queue = e.queue.filter (fun y => y.id ≠ x.id)
      ∧ (∀ m ∈ good, ∀ i < 8, ∀ c < 64,
          tileGet (u.engine core).tiles (tileKey m.tile (8 * m.band + i) c)
            = stepElem x.mma x.bsel (rowElems x.mma ((m.aData.drop (96 * i)).take 96))
                (rowElems x.mma ((x.bData.drop (96 * c)).take 96)) (m.scales.getD i 0)
                ((x.bData.drop (6144 + 4 * c)).take 4) (tileGet e.tiles (tileKey m.tile (8 * m.band + i) c)))
      ∧ (∀ tile band i c, band < 8 → i < 8 → c < 64 → (∀ m ∈ good, (m.tile, m.band) ≠ (tile, band)) →
          tileGet (u.engine core).tiles (tileKey tile (8 * band + i) c)
            = tileGet e.tiles (tileKey tile (8 * band + i) c))
      ∧ (∀ k t m, s.thread? k = some t → t.wg = g → x.members.filter (fun y => y.thread = k) = [m] → ∃ y,
          u.thread? k = some y ∧ y.rdF m.flag = (if m.flag < 12 then t.rdF m.flag - 1 else y.rdF m.flag)
            ∧ KeepsRegs t y [] [] [] [] ∧ y.pc = t.pc)
      ∧ ∃ y, u.wg? g = some y ∧ y.mstat.toList.getD 5 0 = (w.mstat.toList.getD 5 0 + good.length) % 2 ^ 32

/-- R331 to R334: the closed and staged pass at the head is tested as it becomes ready and every 8 cycles then: the
droop spacing, then the current limit, then the tokens; the first check that fails charges the bubble, and when all pass
the pass starts, the tokens fall by its cost and the region's count rises by one; the passes of a region that are to be
tested go by their core numbers (DEDUCED, log 60). -/
def Sys2Proof.Claims.PassStart : Prop :=
  ∀ (s : State) (core g : Nat) (w : Workgroup) (x : Item),
    let e := s.engine core
    let r := s.region (regionOfCore core)
    let c := s.column (clusterOf core)
    let cost := memberCost s x.mma * x.members.length
    let ready := x.closed = true ∧ x.staged = true ∧ coreRuns s core = true ∧ ownerRuns s e = true
      ∧ (∀ b, x.ready = some b → b + 8 * x.tests ≤ s.cycles core) ∧ lowerDue s core = false
    let droop := (∃ b, r.until_ = some b ∧ s.now < b) ∧ ∃ b, e.lastStart = some b ∧ s.cycles core < b + 192
    let counts : State → Nat → Prop := fun u n => ∃ y, u.wg? g = some y
      ∧ ∀ m < 6, y.mstat.toList.getD m 0 = if m = n then (w.mstat.toList.getD m 0 + 1) % 2 ^ 32 else w.mstat.toList.getD m 0
    let held : State → Prop := fun u => (u.engine core).queue = (e.queue.map fun y =>
        if y.id = x.id then { y with ready := some (y.ready.getD (s.cycles core)), tests := y.tests + 1 } else y)
      ∧ (u.engine core).lastStart = e.lastStart ∧ (u.column (clusterOf core)).tok = c.tok
      ∧ (u.region (regionOfCore core)).now = r.now
    headPass (s.cycles core) e.queue = some x → e.owner = some g → s.wg? g = some w →
    (ready → droop → ∃ u, exec (.passStartTest core) s = .next u ∧ held u ∧ counts u 3)
    ∧ (ready → ¬ droop → r.cnt + r.rise ≤ r.now → ∃ u, exec (.passStartTest core) s = .next u ∧ held u ∧ counts u 2
        ∧ (u.region (regionOfCore core)).bub = min (r.bub + 1) (2 ^ 32 - 1))
    ∧ (ready → ¬ droop → r.now < r.cnt + r.rise → c.tok < cost → ∃ u, exec (.passStartTest core) s = .next u ∧ held u ∧ counts u 1
        ∧ (u.column (clusterOf core)).bub = min (c.bub + 1) (2 ^ 32 - 1))
    ∧ (ready → ¬ droop → r.now < r.cnt + r.rise → cost ≤ c.tok → ∃ u, exec (.passStartTest core) s = .next u ∧ counts u 4
        ∧ (u.engine core).queue = (e.queue.map fun y => if y.id = x.id then { y with started := some (s.cycles core) } else y)
        ∧ (u.engine core).lastStart = some (s.cycles core) ∧ u.column (clusterOf core) = { c with tok := c.tok - cost }
        ∧ u.region (regionOfCore core) = { r with now := r.now + 1 })
    ∧ (¬ ready → exec (.passStartTest core) s = .next s)

/-- R133, R134, R327: the unit stages the earliest closed pass while its buffer holds fewer than two: operands in wafer
scratchpad are read at the bank, B once and A once for each member; an operand line of the vault that its home lacks is
asked for with a BYPR record in the queue of the core's cluster (DEDUCED, log 7); with two staged nothing happens. The unit
waits for banks whose clocks are stopped (R427). -/
def Sys2Proof.Claims.TileFetch : Prop :=
  ∀ (s : State) (core g b a va : Nat) (w : Workgroup) (x : Item) (m : Member),
    let e := s.engine core
    let span : Nat → Nat → List Operand := fun o n => (List.range n).map fun j => .wafer (o + 128 * j)
    let runs : Nat → Nat → Prop := fun o n => ∀ j < n, waferRuns s (o + 128 * j) 128 = true
    (e.owner = some g → s.wg? g = some w → e.queue = [x] → x.kind = .pass → x.closed = true → x.staged = false →
      x.b = span b 48 → x.members = [m] → m.a = span a 6 →
      Happens s (.tileFetchStaged core) (coreRuns s core = true ∧ ownerRuns s e = true ∧ runs b 48 ∧ runs a 6) fun u => ∃ y,
        (u.engine core).queue = [y] ∧ y.staged = true ∧ y.bData = readBytes s.wmem b 6144 ∧ y.bBad = none
          ∧ y.members = [{ m with aData := readBytes s.wmem a 768, bad := none }] ∧ u.wmem = s.wmem)
    ∧ (e.owner = some g → s.wg? g = some w → e.queue = [x] → x.kind = .pass → x.closed = true → x.staged = false →
        x.b = [.vault a va] → x.members = [] → a < 2 ^ 43 → lacks s x (.vault a va) = true → s.accs = [] →
        queueRoom s (clusterOf core) (a / 128 % 8) = true →
        Happens s (.tileFetchStaged core) (coreRuns s core = true ∧ ownerRuns s e = true) fun u => ∃ r,
          u.queue (queueKey (clusterOf core) (a / 128 % 8)) = s.queue (queueKey (clusterOf core) (a / 128 % 8)) ++ [r]
          ∧ r.kind = .bypr ∧ r.src = core ∧ r.line = a / 128 ∧ u.cores = s.cores)
    ∧ (2 ≤ (e.queue.filter (·.staged)).length → exec (.tileFetchStaged core) s = .next s)

/-- R316, R319, R320, R329: an item at the head is performed: MZERO writes +0 to its band or tile, MLD the patterns it
reads, MST stores the band; its flag decrements and it leaves. An engine being released becomes free, its tiles +0, once
its queue is empty. An MLD or MST waits for banks whose clocks are stopped (R427). -/
def Sys2Proof.Claims.ItemEvents : Prop :=
  (∀ (s : State) (core g : Nat) (w : Workgroup) (x : Item) (r : List Item),
    let e := s.engine core
    let runs : Nat → Prop := fun o => ∀ j < 16, waferRuns s (o + 128 * j) 128 = true
    e.owner = some g → s.wg? g = some w → e.queue = x :: r → (∀ y ∈ r, y.id ≠ x.id) →
    (x.kind = .zero → x.flag = none → Happens s (.engineItemCompletion core) (coreRuns s core = true ∧ ownerRuns s e = true) fun u =>
        (u.engine core).queue = r ∧ u.threads = s.threads
        ∧ ∀ tile row col, row < 64 → col < 64 → tileGet (u.engine core).tiles (tileKey tile row col)
            = if tile = x.tile ∧ (x.whole = true ∨ row / 8 = x.band) then 0
              else tileGet e.tiles (tileKey tile row col))
    ∧ (∀ base k t f, x.kind = .load → x.mem = (List.range 16).map (fun j => .wafer (base + 128 * j)) → x.flag = some f →
        f < 12 → x.thread = k → s.thread? k = some t → t.wg = g → x.band < 8 →
        Happens s (.engineItemCompletion core) (coreRuns s core = true ∧ ownerRuns s e = true ∧ runs base) fun u => (u.engine core).queue = r
          ∧ (∀ row col, row < 8 → col < 64 → tileGet (u.engine core).tiles (tileKey x.tile (8 * x.band + row) col)
              = BitVec.ofNat 32 (bytesNat (readBytes s.wmem (base + 4 * (64 * row + col)) 4)))
          ∧ ∃ y, u.thread? k = some y ∧ y.rdF f = t.rdF f - 1 ∧ KeepsRegs t y [] [] [] [])
    ∧ (∀ base k t f, x.kind = .store → x.mem = (List.range 16).map (fun j => .wafer (base + 128 * j)) → x.flag = some f →
        f < 12 → x.fmt = .f32 → x.thread = k → s.thread? k = some t → t.wg = g →
        Happens s (.engineItemCompletion core) (coreRuns s core = true ∧ ownerRuns s e = true ∧ runs base) fun u => (u.engine core).queue = r
          ∧ (u.engine core).tiles = e.tiles
          ∧ (∀ row col, row < 8 → col < 64 → bytesNat (readBytes u.wmem (base + 4 * (64 * row + col)) 4)
              = (tileGet e.tiles (tileKey x.tile (8 * x.band + row) col)).toNat)
          ∧ (∀ a, a < base ∨ base + 2048 ≤ a → memRead u.wmem a = memRead s.wmem a)
          ∧ ∃ y, u.thread? k = some y ∧ y.rdF f = t.rdF f - 1 ∧ KeepsRegs t y [] [] [] []))
  ∧ ∀ (s : State) (core : Nat), Happens s (.engineClearComplete core)
      ((s.engine core).releasing = true ∧ (s.engine core).queue = []) fun u =>
        (u.engine core).owner = none ∧ (u.engine core).releasing = false ∧ (u.engine core).queue = []
        ∧ (∀ key, tileGet (u.engine core).tiles key = 0) ∧ u.threads = s.threads

/-- R200, R323: the elements of 96 bytes of a row or a column: 48 of two bytes, 96 of one, or 192 codes, the low ones first. -/
def Sys2Proof.Claims.RowElements : Prop :=
  ∀ b : List Byte, b.length = 96 →
    let byte : Nat → Nat := fun i => (b.getD i 0).toNat
    (∀ k, k = .bf16 ∨ k = .f16 → (rowElems k b).length = 48
      ∧ ∀ i, i < 48 → (rowElems k b).getD i 0 = byte (2 * i) + 256 * byte (2 * i + 1))
    ∧ (∀ k, k = .e4m3 ∨ k = .e5m2 ∨ k = .i8 → (rowElems k b).length = 96 ∧ ∀ i, i < 96 → (rowElems k b).getD i 0 = byte i)
    ∧ (rowElems .rb4 b).length = 192
    ∧ ∀ i, i < 96 → (rowElems .rb4 b).getD (2 * i) 0 = byte i % 16 ∧ (rowElems .rb4 b).getD (2 * i + 1) 0 = byte i / 16

/-- R204, R207, R323: a step adds an element's block values to the accumulator in increasing K order, one rounding each: one
of BF16 and FP16, two of the 8-bit formats, whose scale bytes bsel selects, four of RB4. -/
def Sys2Proof.Claims.StepOrder : Prop :=
  ∀ (bsel : Bool) (row col : List Nat) (sa : Word) (sb : List Byte) (v : Word) (k : MmaKind),
    let block : Nat → Nat → Word := fun j q => blockValue k ((row.drop (48 * j)).take 48) ((col.drop (48 * j)).take 48)
      (sa.toNat / 256 ^ q % 256) (sb.getD q 0).toNat
    let first := if bsel then 2 else 0
    (k = .bf16 ∨ k = .f16 → stepElem k bsel row col sa sb v = fadd v (blockValue k (row.take 48) (col.take 48) 0 0))
    ∧ (k = .e4m3 ∨ k = .e5m2 ∨ k = .i8 →
        stepElem k bsel row col sa sb v = fadd (fadd v (block 0 first)) (block 1 (first + 1)))
    ∧ (k = .rb4 → stepElem k bsel row col sa sb v
        = fadd (fadd (fadd (fadd v (block 0 0)) (block 1 1)) (block 2 2)) (block 3 3))

/-- R205, R206: the value of a block of 48 products: of INT8 and RB4 the exact sum with the scales, +0 where it is zero; of
the others the exact sum rounded once, a NaN or infinity by the products, −0 only where all products are −0. -/
def Sys2Proof.Claims.BlockValues : Prop :=
  ∀ (k : MmaKind) (a b : List Nat) (ca cb : Nat), a.length = 48 → b.length = 48 →
    let v := blockValue k a b ca cb
    let two : Int → Rat := fun e => (2 : Rat) ^ e
    let e : Int := ((ca % 64 + cb % 64 : Nat) : Int) - 64
    let isExactly : Rat → Prop := fun x => (∃ n m g, fval v = .fin n m g ∧ Claims.exact n m g = x) ∧ (x = 0 → v = 0)
    let i8 : Nat → Int := fun x => (BitVec.ofNat 8 x).toInt
    let floats : FFmt → Int → Prop := fun f e =>
      let l := (a.zip b).map fun x => (f.value x.1).mul (f.value x.2)
      let number : FVal → Rat := fun x => match x with
        | .fin n m g => Claims.exact n m g
        | .nan | .inf _ => 0
      (.nan ∈ l ∨ (.inf true ∈ l ∧ .inf false ∈ l) → v = 0x7FC00000)
      ∧ (∀ n, .nan ∉ l → .inf n ∈ l → .inf (!n) ∉ l → v = if n then 0xFF800000 else 0x7F800000)
      ∧ ((∀ x ∈ l, ∃ g, x = .fin true 0 g) → v = 0x80000000)
      ∧ ((∀ x ∈ l, ∃ n m g, x = .fin n m g) → (∃ x ∈ l, ∀ g, x ≠ .fin true 0 g) → ∃ n m g,
          Claims.exact n m g = (l.map number).sum * two e
          ∧ v = if (fround (.fin n m g)).toNat % 2 ^ 31 = 0 then 0 else fround (.fin n m g))
    (k = .i8 → isExactly (((a.zip b).map fun x => i8 x.1 * i8 x.2).sum * two e))
    ∧ (k = .rb4 → (∀ x ∈ a, x < 16) → (∀ x ∈ b, x < 16) → isExactly (((a.zip b).map fun x =>
        Claims.rb4Number (ca / 64 % 4) x.1 * Claims.rb4Number (cb / 64 % 4) x.2).sum * two e))
    ∧ (k = .bf16 → floats bf16Fmt 0) ∧ (k = .f16 → floats f16Fmt 0)
    ∧ (k = .e4m3 → floats e4m3Fmt e) ∧ (k = .e5m2 → floats e5m2Fmt e)

/-- The matrix engine at work: the parts RowElements, StepOrder, BlockValues, PassEvents, PassStart, TileFetch and
ItemEvents. -/
def Obligations.MatrixEvents : Prop :=
  Claims.RowElements ∧ Claims.StepOrder ∧ Claims.BlockValues ∧ Claims.PassEvents ∧ Claims.PassStart ∧ Claims.TileFetch ∧ Claims.ItemEvents

/-- R331 to R333, R336, R337, R427: a refill adds HEAT_RATE tokens, half of it while the vault is closed, up to HEAT_CAP,
or owes them in a field whose clock is stopped (DEDUCED, log 11); a step's count becomes that of the last completed step and counting starts
again; a write of RISE is kept but for 0; an alarm counts, sets EVT, holds for 2 µs from the last alarm, and then expires. -/
def Sys2Proof.Claims.GovernorEvents : Prop :=
  ∀ (s : State) (r : Nat) (v : Word),
    Happens s .heatRefill ((s.refills + 1) * 100 ≤ s.timeNs) (fun u => u.refills = s.refills + 1 ∧ u.regions = s.regions
        ∧ ∀ c, let x := s.column c
            let rate := if (s.vault c).closed then x.rate / 2 else x.rate
            (s.clusterRuns c = true → u.column c = { x with tok := min (x.tok + rate) x.cap })
            ∧ (s.clusterRuns c = false → (mget s.columns c).isSome → u.column c = { x with owed := x.owed + rate }))
    ∧ Happens s .currentLimitStep ((s.steps + 1) * 200 ≤ s.timeNs) (fun u => u.steps = s.steps + 1
        ∧ u.columns = s.columns ∧ ∀ n, u.region n = { s.region n with cnt := (s.region n).now, now := 0 })
    ∧ Happens s (.curlimStep r v) (v.toNat % 2 ^ 16 ≠ 0) (fun u =>
        u.region r = { s.region r with rise := v.toNat % 2 ^ 16 } ∧ ∀ n, n ≠ r → u.region n = s.region n)
    ∧ (∃ u, exec (.droopAlarm r) s = .next u ∧ (∀ n, n ≠ r → u.region n = s.region n)
        ∧ u.region r = { s.region r with
            count := min ((s.region r).count + 1) (2 ^ 16 - 1), evt := true
            until_ := some (s.now + 2000 * Config.nano), lastLow := s.timeNs % 2 ^ 32 })
    ∧ Happens s (.droopExpiry r) (∃ b, (s.region r).until_ = some b ∧ b ≤ s.now) (fun u =>
        u.region r = { s.region r with until_ := none } ∧ ∀ n, n ≠ r → u.region n = s.region n)

/-- R83: a vault's table is what two of its three copies hold that pass their ECC check and lie in vaults that are not
fenced, copy 0 in the vault itself, copy 1 85 and copy 2 171 vaults on. -/
def Sys2Proof.Claims.TableVote : Prop :=
  ∀ (s : State) (v : Nat) (m a b c : MapCopy), (s.vault v).copies = [a, b, c] →
    let counts : MapCopy → Nat → Prop := fun x n => x = m ∧ x.good = true ∧ (s.vault ((v + n) % 256)).fenced = false
    votedTable (countedCopies s v) = some m ↔
      (counts a 0 ∧ counts b 85) ∨ (counts a 0 ∧ counts c 171) ∨ (counts b 85 ∧ counts c 171)

/-- R79, R81 to R84, R92: more than 64 corrected errors make a live bank pending; a step is accepted only where the
vault is neither busy nor fenced, takes the pending banks and is abandoned by a vote that fences the vault; once no line
of the vault is cached it updates the map, the capacity, the pending banks and GEN, and discards what lies beyond the
new capacity, which reads as 0 from then on as unwritten memory does (the model's choice, logs 5 and 9); a request held is
performed after it. -/
def Sys2Proof.Claims.RemapEvents : Prop :=
  ∀ (s : State) (v b n l : Nat) (m : MapCopy) (x : Word) (r : Rec) (rest : List Rec),
    let i := s.vault v
    let line := v * 2 ^ 28 + l
    let live := liveBanks (i.map &&& ~~~i.retire)
    (∃ u, exec (.patrolScrub v [(b, n)] []) s = .next u ∧ u.vmem = s.vmem ∧ (u.vault v).map = i.map
        ∧ (u.vault v).cap = i.cap ∧ (u.vault v).pend
          = if 64 < n ∧ i.map.getLsbD b = true then i.pend ||| BitVec.ofNat 512 (2 ^ b) else i.pend)
    ∧ (∃ u, exec (.patrolScrub v [] [l]) s = .next u ∧ u.vmem = s.vmem ∧ (u.vault v).pend = i.pend
        ∧ (u.vault v).bad = if l < i.lines ∧ line ∉ i.bad then i.bad ++ [line] else i.bad)
    ∧ (x.getLsbD 0 = false ∨ i.busy = true ∨ i.fenced = true →
        exec (.vaultRemapGo v x) s = .next (s.modVault v fun y => { y with goRej := true }))
    ∧ (x.getLsbD 0 = true → i.busy = false → i.fenced = false → votedTable (countedCopies s v) = none →
        ∃ u, exec (.vaultRemapGo v x) s = .next u ∧ u.vmem = s.vmem ∧ u.tags = s.tags ∧ ∃ y, u.vault v = y
          ∧ y.fenced = true ∧ y.busy = false ∧ y.remapDone = 0 ∧ y.map = i.map ∧ y.cap = i.cap ∧ y.pend = i.pend
          ∧ y.gen = i.gen)
    ∧ (x.getLsbD 0 = true → i.busy = false → i.fenced = false → votedTable (countedCopies s v) = some m →
        ∃ u, exec (.vaultRemapGo v x) s = .next u ∧ u.vmem = s.vmem ∧ ∃ y, u.vault v = y ∧ y.busy = true
          ∧ y.remapDone = 0 ∧ y.goRej = false ∧ y.retire = i.pend ∧ y.map = i.map ∧ y.cap = i.cap ∧ y.pend = i.pend
          ∧ y.gen = i.gen ∧ y.copies = i.copies.map fun _ => m)
    ∧ (i.busy = true → (∀ y ∈ s.tags, vaultOf y.1 ≠ v) → ∃ u, exec (.remapStepCompletion v) s = .next u
        ∧ (u.vault v).map = i.map &&& ~~~i.retire ∧ (u.vault v).cap = live.length
        ∧ (u.vault v).pend = i.pend &&& ~~~i.retire ∧ (u.vault v).gen = (i.gen + 1) % 256
        ∧ (u.vault v).busy = false ∧ (u.vault v).remapDone = 1 ∧ u.tags = s.tags
        ∧ (∀ a, a / 2 ^ 35 ≠ v ∨ a < v * 2 ^ 35 + live.length * 2 ^ 26 → memRead u.vmem a = memRead s.vmem a)
        ∧ (∀ a, a / 2 ^ 35 = v → v * 2 ^ 35 + live.length * 2 ^ 26 ≤ a → memRead u.vmem a = 0))
    ∧ (i.busy = false ∨ (∃ y ∈ s.tags, vaultOf y.1 = v) →
        ∃ u, exec (.remapStepCompletion v) s = .next u ∧ u.vaults = s.vaults ∧ u.vmem = s.vmem)
    ∧ (i.heldNow = r :: rest → i.busy = false → r.kind = .gets → s.tag? r.line = none →
        (∀ y ∈ (s.slice v).parked, y.line ≠ r.line) → tagFree (vaultOf r.line) s = true → r.access = none →
        ∃ u t, exec (.heldRequestRelease v) s = .next u ∧ (u.vault v).heldNow = rest ∧ u.tag? r.line = some t
          ∧ t.awaits = some .fill ∧ t.held = [r] ∧ t.dom = r.dom ∧ t.entry = none)
    ∧ (i.heldNow = [] ∨ i.busy = true → exec (.heldRequestRelease v) s = .next s)
    ∧ Happens s (.vaultFloor x) (x.toNat % 128 ≤ 100) (fun u => u = { s with vaultFloor := x.toNat % 128 })

/-- R85 to R90: every 10 µs a vault takes the highest of its layers' temperatures; the multiplier rises at a boundary
and falls 2 °C below it; the vault closes at 115 °C, with its column's tokens halved, until a sample below 113 °C; and
its refresh is charged to the workgroup that is resident. -/
def Sys2Proof.Claims.TemperatureSample : Prop :=
  ∀ (s : State) (v g : Nat) (w : Workgroup) (layers : List Int), layers ≠ [] →
    Happens s (.vaultTempSample v layers) (((s.vault v).samples + 1) * 10000 ≤ s.timeNs) fun u =>
      let i := s.vault v
      let j := u.vault v
      j.temp ∈ layers ∧ (∀ x ∈ layers, x ≤ j.temp) ∧ j.samples = i.samples + 1
      ∧ (∀ n < 3, n < j.mult ↔ (85 + 10 * (n : Int)) * 16 ≤ j.temp ∨ (n < i.mult ∧ (83 + 10 * (n : Int)) * 16 < j.temp))
      ∧ j.mult ≤ 3
      ∧ (j.closed = true ↔ 115 * 16 ≤ j.temp ∨ (i.closed = true ∧ 113 * 16 ≤ j.temp))
      ∧ (u.column v).tok = (if j.closed = true ∧ i.closed = false then (s.column v).tok / 2 else (s.column v).tok)
      ∧ (clusterWgs s v = [] → u.wgs = s.wgs)
      ∧ (clusterWgs s v = [(g, w)] → s.wg? g = some w → hostRefresh s = false →
          u.wg? g = some { w with refcost := w.refcost + 3 * 2 ^ j.mult * 100 })

/-- Governors, remap steps and temperatures: the parts GovernorEvents, TableVote, RemapEvents and TemperatureSample. -/
def Obligations.ColumnsAndVaults : Prop :=
  Claims.GovernorEvents ∧ Claims.TableVote ∧ Claims.RemapEvents ∧ Claims.TemperatureSample

/-- R405: a trap raised in a step of one troupe is taken at once; where more may come in its core's cycle it is listed, and
the traps listed are taken in increasing slot order, those of one slot in the order in which they came. -/
def Sys2Proof.Claims.CycleTraps : Prop :=
  (∀ (s : State) (k : Nat) (ti : TrapInfo) (at_ : Resume) (pc : DWord) (l : List Raised),
    (s.gather = none → raiseTraps s [⟨k, ti, at_, pc⟩] = takeTrap s k ti at_ pc)
    ∧ (s.gather = some l → raiseTraps s [⟨k, ti, at_, pc⟩] = { s with gather := some (l ++ [⟨k, ti, at_, pc⟩]) }))
  ∧ ∀ l : List Raised, (inSlotOrder l).Perm l ∧ (inSlotOrder l).Pairwise (·.key ≤ ·.key)
      ∧ ∀ k, (inSlotOrder l).filter (·.key == k) = l.filter (·.key == k)

/-- R45, R220 to R222, R240: a counted operation whose result is known completes at any time (DEDUCED, log 8): its registers
are written, its flag falls, a non-faulting load shifts m7, in issue order among such loads; a trap in its place is raised
at its instruction (DEDUCED, log 29), or where the thread stands if it is deferred. -/
def Sys2Proof.Claims.CountedCompletion : Prop :=
  ∀ (s : State) (core slot n : Nat) (t : Thread) (w : Workgroup) (x : Flight) (ws : List RegWrite) (b : Bool)
    (ti : TrapInfo) (at_ : Resume),
    let k := tkey core slot
    let i := Instr.countedOperationCompletion core slot n
    let written : Thread := { (ws.foldl Thread.wrResult t).wrF x.flag (t.rdF x.flag - 1) with
      inflight := t.inflight.eraseIdx n, retry := 0 }
    let ended : Thread := { t.wrF x.flag (t.rdF x.flag - 1) with inflight := t.inflight.eraseIdx n }
    s.thread? k = some t → s.wg? t.wg = some w → t.inflight[n]? = some x → x.entry = none →
    (x.trap = none → x.result = some ws → x.nf = false → x.shift = none → exec i s = .next (s.setThread k written))
    ∧ (x.trap = none → x.result = some ws → x.nf = true → x.shift = some b → (∀ y ∈ t.inflight.take n, y.nf = false) →
        ∃ u, exec i s = .next (s.setThread k u) ∧ u.rdM 7 = (t.rdM 7 <<< 1 ||| if b then 1 else 0)
          ∧ (∀ r, r ≠ 7 → u.rdM r = t.rdM r) ∧ (∀ r, u.rdG r = written.rdG r) ∧ u.inflight = written.inflight
          ∧ u.f = written.f ∧ u.retry = 0)
    ∧ (x.trap = some ti → x.nf = false → x.resume = some at_ →
        exec i s = .next (raiseTraps (s.setThread k ended) [⟨k, ti, at_, x.pc⟩]))
    ∧ (x.trap = some ti → x.nf = false → x.resume = none → w.phase = .running →
        exec i s = .next (raiseTraps (s.setThread k ended) [⟨k, ti, resumeDeferred ended, x.pc⟩]))
    ∧ (x.result = none → x.trap = none → exec i s = .next s)
    ∧ (x.nf = true → (∃ y ∈ t.inflight.take n, y.nf = true) → exec i s = .next s)

/-- R357, R358: a hold group is released when no thread of the workgroup outside it holds M, one that has exited holding M
among them, or, where one does, MHOLD cycles after its first member entered: every member empties its meeting register and
continues, and each thread released by the expiry counts. -/
def Sys2Proof.Claims.HoldEvents : Prop :=
  ∀ (s : State) (g : Nat) (m : DWord) (w : Workgroup),
    let member : Nat × Thread → Prop := fun x =>
      x ∈ s.threads ∧ x.2.wg = g ∧ x.2.held.isSome = true ∧ x.2.meet = some m ∧ x.2.pc = m
    let single : Nat → Thread → Prop := fun k t => s.thread? k = some t ∧ ∀ y, (k, y) ∈ s.threads → y = t
    let outside := (∃ x ∈ s.threads, x.2.wg = g ∧ x.2.meet = some m ∧ x.2.held = none)
      ∨ ∃ w, s.wg? g = some w ∧ m ∈ w.metGone
    let released : State → Prop := fun u =>
      (∀ k t, single k t → member (k, t) →
          u.thread? k = some { t with held := none, meet := none, ready := some (s.cycles (coreOf k)) })
      ∧ (∀ k t, single k t → ¬ member (k, t) → u.thread? k = some t)
    Happens s (.meetHoldRelease g m) ((∃ x, member x) ∧ ¬ outside) (fun u => released u ∧ u.wgs = s.wgs ∧ u.cores = s.cores)
    ∧ (s.wg? g = some w →
        Happens s (.mholdExpiry g m) (outside ∧ ∃ x b, member x ∧ x.2.held = some b ∧ b + w.mhold ≤ s.cycles w.core) fun u =>
          released u ∧ u.wg? g = some { w with metGone := w.metGone.filter (· != m) } ∧ (u.core w.core).counters.meetExpire
            = min ((s.core w.core).counters.meetExpire + (holdGroup s g m).length) (2 ^ 32 - 1))

/-- R350, R405, R407, R409, R413, R367, R368, R373: the longest ready of a row's instructions, once ready for more than
4,096 cycles, wins the row's next issue, and the win counts (one win at a time, which lapses: DEDUCED, log 59); a backoff ends at its cycle and a YIELD after 64 cycles; a thread
blocked for WDOG_LIM (counted as DEDUCED in log 68) raises WATCHDOG at its instruction or header, the lowest slot of its core first; the other workgroups
learn the phase that every thread has reached, and that a workgroup whose threads have exited has reached all; a write of 1
clears the thread counters. -/
def Sys2Proof.Claims.ThreadEvents : Prop :=
  ∀ (s : State) (core slot : Nat) (t : Thread) (w : Workgroup) (g n : Nat) (v : Word),
    let k := tkey core slot
    let row : Nat × Thread → Prop := fun x => x ∈ s.threads ∧ coreOf x.1 = core ∧ x.1 % 4 = slot % 4
    let raised : Nat → Bool := fun j => (s.gather.getD []).any fun r => r.key == j
    (s.thread? k = some t →
      Happens s (.ageRuleWin core slot) (slotReady s core slot = true ∧ waitsForMate s core t = false
          ∧ (∀ y, mget (s.core core).ageWin (slot % 4) = some y → slotReady s core y = false)
          ∧ ∃ r, t.ready = some r ∧ r + 4096 < s.cycles core
            ∧ ∀ x q, row x → slotReady s core (x.1 % 2048) = true → waitsForMate s core x.2 = false →
                x.2.ready = some q → r ≤ q) (fun u =>
        mget (u.core core).ageWin (slot % 4) = some slot ∧ u.threads = s.threads
          ∧ (u.core core).counters.ageWins = min ((s.core core).counters.ageWins + 1) (2 ^ 32 - 1))
      ∧ Happens s (.backoffExpiry core slot) (∃ b, t.backoff = some b ∧ b ≤ s.cycles core) (fun u =>
          u = s.setThread k { t with backoff := none, wait := none, ready := some (s.cycles core) })
      ∧ Happens s (.yieldWaitExpiry core slot) (∃ b, t.yielded = some b ∧ b + 64 ≤ s.cycles core) (fun u =>
          u = s.setThread k { t with yielded := none, ready := some (s.cycles core) })
      ∧ (s.wg? t.wg = some w →
          Happens s (.watchdog core slot) ((0 < s.launch.wdog ∧ (∃ r b, t.wait = some (r, b) ∧ r.blocks = true)
              ∧ t.ready = none ∧ t.run = .running ∧ t.held = none ∧ w.phase = .running
              ∧ t.issued + s.launch.wdog * (1000 * Config.nano) ≤ s.now ∧ raised k = false)
              ∧ ∀ x ∈ s.threads, coreOf x.1 = core → x.1 < k → watchdogDue s x.2 = false ∨ raised x.1 = true) fun u =>
            u = raiseTraps s [⟨k, { cause := .watchdog }, blockedAt t, (blockedAt t).retryPc⟩]))
    ∧ (s.wg? g = some w → w.image = none → w.phase ≠ .placed →
        ((∀ x ∈ s.threads, x.2.wg = g → n ≤ x.2.sstep) → (∃ x ∈ s.threads, x.2.wg = g ∧ x.2.sstep = n) →
          exec (.phaseExchange g) s = .next (s.setWg g { w with phasePub := some n }))
        ∧ ((∀ x ∈ s.threads, x.2.wg ≠ g) → exec (.phaseExchange g) s = .next (s.setWg g { w with phasePub := none })))
    ∧ Happens s (.thrClr core v) (v.getLsbD 0 = true) (fun u => ∃ c, u = s.setCore core c
        ∧ c.counters.divHint = 0 ∧ c.counters.meetHolds = 0 ∧ c.counters.meetExpire = 0 ∧ c.counters.ageWins = 0
        ∧ c.counters.bytes = (s.core core).counters.bytes ∧ c.rows = (s.core core).rows
        ∧ c.engine = (s.core core).engine ∧ c.jobs = (s.core core).jobs)

/-- R22, R108: a failed lane waits for the row's next clause boundary, where the row maps it onto its spare, the core's
generation rises and the lane's last-page register is cleared; a row that loses a second lane stops, and no other row
changes. -/
def Sys2Proof.Claims.LaneEvents : Prop :=
  ∀ (s : State) (core row lane : Nat) (r : Row),
    let rows : State → List Row := fun u => (u.core core).rows.toList
    (rows s)[row]? = some r →
    (r.stopped = false → lane < 8 → r.spare = none → r.pending = none → ∃ u, exec (.laneFailure core row lane) s = .next u
        ∧ rows u = (rows s).set row { r with pending := some lane } ∧ u.threads = s.threads
        ∧ (u.core core).laneGen = (s.core core).laneGen)
    ∧ (r.stopped = false → lane ≤ 8 → r.spare ≠ some lane → r.spare ≠ none → r.pending ≠ some lane →
        ∃ u, exec (.laneFailure core row lane) s = .next u ∧ rows u = (rows s).set row { r with stopped := true })
    ∧ (r.stopped = true → exec (.laneFailure core row lane) s = .next s)
    ∧ (r.pending = some lane → Happens s (.laneRemap core row) (rowAtBoundary s core row = true) fun u =>
        u.threads = s.threads ∧ rows u = (rows s).set row { r with spare := some lane, pending := none }
        ∧ (u.core core).laneGen = ((s.core core).laneGen + 1) % 256
        ∧ (u.core core).lanes = mdel (s.core core).lanes (row * 8 + lane))
    ∧ (r.pending = none → exec (.laneRemap core row) s = .next s)

/-- What happens to threads and lanes without an issue: the parts CycleTraps, CountedCompletion, HoldEvents, ThreadEvents and LaneEvents. -/
def Obligations.ThreadAndLaneEvents : Prop :=
  Claims.CycleTraps ∧ Claims.CountedCompletion ∧ Claims.HoldEvents ∧ Claims.ThreadEvents ∧ Claims.LaneEvents

/-- R131 to R133, R165 to R167, R438: a request from another module takes its place in the order of its numbers for a
source core and line: a later one is held, an earlier one has no effect (DEDUCED, log 62); a write whose turn it is becomes a BYPW record in
the queue of the home's cluster, or with pol dev is made at the vault; one to a marked frame writes nothing and answers
PERM. An acknowledgement lowers the counter and a value
enters its flight; no answer within FAB_TMO, 1 µs at least (DEDUCED, log 63), leaves a deferred REMOTE_TIMEOUT, which is
delivered at the flag's fall or the next wait on the counter (DEDUCED, log 65). -/
def Sys2Proof.Claims.RemoteEvents : Prop :=
  (∀ (s : State) (r : RemoteReq) (b : List Byte),
    let line := r.addr / 128
    let next := rxNext s r.srcModule r.srcCore line
    let q := queueKey (vaultOf line) (line % 8)
    let a := remoteAccess s r (.write (remoteWho r) b)
    (remoteFits r = false ∨ r.seq < next → exec (.remoteRequest r) s = .next s)
    ∧ (remoteFits r = true → next < r.seq → r ∉ s.rxEarly →
        exec (.remoteRequest r) s = .next { s with rxEarly := s.rxEarly ++ [r] })
    ∧ (remoteFits r = true → r.seq = next → r.op = .write b → s.rxEarly = [] → r.device = false →
        queueRoom s (vaultOf line) (line % 8) = true → s.boot.frames.contains (r.addr / 2 ^ 14) = true →
        ∃ u, exec (.remoteRequest r) s = .next u ∧ rxNext u r.srcModule r.srcCore line = next + 1
          ∧ u.accs = s.accs ∧ u.vmem = s.vmem ∧ u.link.answers
            = s.link.answers ++ [⟨remoteWho r, 256, a.pa, b.length, true, some (.perm, 0), []⟩])
    ∧ (remoteFits r = true → r.seq = next → r.op = .write b → s.rxEarly = [] →
        s.boot.frames.contains (r.addr / 2 ^ 14) = false →
        (r.device = false → queueRoom s (vaultOf line) (line % 8) = true →
          ∃ u id x, exec (.remoteRequest r) s = .next u ∧ rxNext u r.srcModule r.srcCore line = next + 1
            ∧ mget u.accs id = some a ∧ u.queue q = s.queue q ++ [x] ∧ x.kind = .bypw ∧ x.line = line ∧ x.access = some id
            ∧ u.vmem = s.vmem)
        ∧ (r.device = true → s.accs = [] → vaultHolds s line = false → vaultError s line = none →
          ∃ u, exec (.remoteRequest r) s = .next u ∧ rxNext u r.srcModule r.srcCore line = next + 1
            ∧ readBytes u.vmem r.addr b.length = b
            ∧ ∀ z, z < r.addr ∨ r.addr + b.length ≤ z → memRead u.vmem z = memRead s.vmem z)))
  ∧ ∀ (s : State) (id : Nat) (a : Access) (t : Thread) (value : List Byte) (f : Fmt) (d : Reg) (b : List Byte),
    let late := a.sent + max 1 s.link.fabTmo * (1000 * Config.nano) ≤ s.now
    let flights : (Flight → Flight) → Thread := fun g =>
      { t with inflight := t.inflight.map fun x => if x.access.contains id then g x else x }
    let tmo : TrapInfo := { accTrap a .remoteTimeout 0 with defer := true }
    let regs : List Byte → List RegWrite := fun b => spanWrites d (fmtLoad f b)
    mget s.accs id = some a → s.thread? a.thread = some t → t.wg = a.wg → t.lin = a.lin → a.remote = true →
    a.job = none →
    (a.op = .load f d →
      Happens s (.remoteAck id value) (value.length = a.size) (fun u => mget u.accs id = none
        ∧ u.thread? a.thread = some (flights fun x => x.gets id a.part value regs)
        ∧ ∀ x : Flight, x.access = [id] → x.got = [] →
            (x.gets id a.part value regs).access = [] ∧ (x.gets id a.part value regs).result = some (regs value))
      ∧ Happens s (.remoteTimeout id) late (fun u => mget u.accs id = none
        ∧ u.thread? a.thread = some (flights fun x => { x with access := [], trap := some tmo })))
    ∧ (a.op = .store b →
      (∃ u, exec (.remoteAck id value) s = .next u ∧ mget u.accs id = none ∧ u.threads = s.threads
        ∧ (u.core a.core).acks = (s.core a.core).acks - 1)
      ∧ Happens s (.remoteTimeout id) late (fun u => mget u.accs id = none
        ∧ (u.core a.core).acks = (s.core a.core).acks - 1
        ∧ u.thread? a.thread = some { t with deferred := t.deferred ++ [⟨tmo, a.pc, .counter⟩] }))

/-- R168, R241, R255, R259: the engine moves up to 128 bytes in a cycle: a copy of at most that within the scratchpad
of its workgroup, alone in its core's table, is done in one: the destination holds what the source held, no other byte
of it changes, and the bytes count. -/
def Sys2Proof.Claims.CopyCycle : Prop :=
  ∀ (s : State) (core e a b n : Nat) (j : Job) (w : Workgroup),
    (s.core core).jobs = [(e, j)] → j.work = .copy ⟨.scratch, a⟩ ⟨.scratch, b⟩ (8 * n) → n ≤ 16 → j.pieces = n →
    j.done = 0 → j.sync = .none → j.fault = none → j.cancel = false → j.saved = false → j.line = none →
    j.windows = [] → jobPending s core e = false → s.wg? j.wg = some w → a + 8 * n ≤ w.sizes.scratch → b + 8 * n ≤ w.sizes.scratch →
    a + 8 * n ≤ b ∨ b + 8 * n ≤ a →
    Happens s (.copyEngineCycle core) (coreRuns s core = true) fun u => ∃ x y,
      u.wg? j.wg = some x ∧ readBytes x.scratch b (8 * n) = readBytes w.scratch a (8 * n)
      ∧ (∀ c, c < b ∨ b + 8 * n ≤ c → memRead x.scratch c = memRead w.scratch c)
      ∧ (u.core core).jobs = [(e, y)] ∧ y.done = n ∧ y.work = j.work ∧ y.fault = none
      ∧ (u.core core).counters.bytes = (s.core core).counters.bytes + 8 * n

/-- R256, R362, R364, R365: a count of bytes at an object that has not been initialised leaves it as it is and marks its job;
else each byte lowers PEND by 1, or sets OVF and marks the job where PEND is 0, and the completion test follows it. -/
def Sys2Proof.Claims.ByteCounts : Prop :=
  ∀ (s : State) (l : Local) (n : Nat) (b : Bar),
    let x := Bar.ofBytes (readLocal s l 32)
    (x.flags / 2 % 2 = 0 → countBytes s l n = (s, true))
    ∧ (x.flags / 2 % 2 = 1 → countBytes s l n = (storeBar s l (x.count n), decide (x.pend < n)))
    ∧ b.count 0 = (b, false)
    ∧ b.count 1 = Bar.test { b with pend := b.pend - 1, flags := if b.pend = 0 then b.flags / 2 * 2 + 1 else b.flags }
    ∧ b.count (n + 1) = (((b.count 1).1.count n).1, (b.count 1).2 || ((b.count 1).1.count n).2)

/-- R170, R171, R243, R244, R256, R270: a job whose pieces are done and whose accesses have ended leaves the table and
its handle is DONE, FAULTED after a fault, or CANCELLED; a flag rises by 1 only for one that is DONE; bytes count
against the barrier object of its descriptor; 3,200 cycles into a save what is left is recorded. Counts wait for a bank
whose clock is stopped (R427). -/
def Sys2Proof.Claims.JobEvents : Prop :=
  ∀ (s : State) (core e : Nat) (j : Job) (w : Workgroup) (x : JobNum) (ti : TrapInfo) (o n : Nat) (l : Local) (at_ : Loc),
    let runs := match j.sync with
      | .none => True
      | .flag o => waferRuns s o 4 = true
      | .barrier at_ => at_.space ≠ .wafer ∨ waferRuns s at_.addr 32 = true
    let idle := j.saved = false ∧ jobPending s core e = false ∧ j.line = none ∧ j.windows = [] ∧ runs
    let ended : State → JobStatus → Option TrapInfo → Prop := fun u st tr =>
      mget (u.core core).jobs e = none ∧ ∃ y z, u.wg? j.wg = some y ∧ mget y.jobNums j.num = some z
        ∧ z = { x with status := st, trap := tr.map fun q => { q with defer := true }, ended := w.endCtr + 1 }
    let whole := j.done = j.pieces ∧ j.line = none ∧ j.cancel = false
    mget (s.core core).jobs e = some j → s.wg? j.wg = some w → mget w.jobNums j.num = some x → x.status = .pending →
    j.work.moves = true → j.entry = none →
    (j.sync = .none → j.fault = none → j.marked = false → whole →
      Happens s (.jobCompletion core e) idle fun u => ended u .done none ∧ u.wmem = s.wmem)
    ∧ (j.sync = .flag o → j.fault = none → j.marked = false → whole →
      Happens s (.jobCompletion core e) idle fun u => ended u .done none ∧ readBytes u.wmem o 4
        = natBytes 4 ((bytesNat (readBytes s.wmem o 4) + 1) % 2 ^ 32))
    ∧ (j.sync = .none ∨ j.sync = .flag o → j.fault = some ti →
      Happens s (.jobCompletion core e) idle fun u => ended u .faulted (some ti) ∧ u.wmem = s.wmem)
    ∧ (j.sync = .none ∨ j.sync = .flag o → j.fault = none → j.marked = false → j.cancel = true → j.done < j.pieces →
      Happens s (.jobCompletion core e) idle fun u => ended u .cancelled none ∧ u.wmem = s.wmem)
    ∧ (j.fault = none → j.cancel = false → j.done < j.pieces → exec (.jobCompletion core e) s = .next s)
    ∧ (j.sync = .barrier at_ → runs → jobPending s core e = false → j.line = none → j.windows = [] → 0 < n → n ≤ j.toCount + j.owed →
        resolveLocal s ⟨j.lin, j.wg, w, true⟩ at_.space at_.addr 32 false = .ok l →
        ∃ u y, exec (.barrierByteCount core e n) s = .next u ∧ (countBytes s l n).1.wmem = u.wmem
          ∧ (countBytes s l n).1.wgs = u.wgs ∧ (countBytes s l n).1.threads = u.threads
          ∧ mget (u.core core).jobs e = some y ∧ y.toCount = j.toCount + j.owed - n ∧ y.owed = 0)
    ∧ Happens s (.jobDrainTimeout j.wg) (∃ b, (w.coords.launch, w.coords.group, some b) ∈ s.launch.saving
          ∧ b + 3200 ≤ s.cycles w.core) fun u =>
        (j.wg ∈ groupWgs s w.coords.launch w.coords.group → mget (u.core core).jobs e = some { j with saved := true })
        ∧ u.threads = s.threads ∧ u.wmem = s.wmem

/-- The fabric and the copy engine at work: the parts RemoteEvents, CopyCycle, ByteCounts and JobEvents. -/
def Obligations.TransferEvents : Prop :=
  Claims.RemoteEvents ∧ Claims.CopyCycle ∧ Claims.ByteCounts ∧ Claims.JobEvents

/-- R113, R119: an entry to be forwarded is written as a record of 32 bytes at the queue's head, with an identifier that
is not outstanding; the answer to it completes its handles, and one to an unknown identifier sets BADRESP. That the record
holds the whole virtual address and PRQ_HEAD goes on modulo the size are DESIGN CHOICES (log 70). -/
def Sys2Proof.Claims.PageQueue : Prop :=
  ∀ (s : State) (core e : Nat) (r : PageReq) (id : BitVec 16) (h : Nat × Nat) (w : Workgroup) (x : JobNum),
    let p := s.page
    let head := (p.head + 1) % p.size
    let record := natBytes 8 r.va ++ natBytes 1 r.asid ++ natBytes 1 0 ++ natBytes 2 p.nextId ++ natBytes 4 core
      ++ natBytes 8 r.leaf ++ natBytes 8 0
    let done : Out → JobStatus → Prop := fun y st => ∃ u z, y = .next u ∧ mget u.page.open_ id.toNat = none
      ∧ mget (u.core core).pageReqs e = none ∧ u.wg? h.1 = some z
      ∧ mget z.jobNums h.2 = some { x with status := st, trap := none, ended := w.endCtr + 1 }
    (mget (s.core core).pageReqs e = some r → mget p.open_ p.nextId = none →
      Happens s (.prqRecordWrite core e) (r.reqId = none ∧ r.install = none ∧ (r.forward = true ∨ hostPages s = true) ∧ p.en = true
          ∧ head ≠ p.tail % p.size ∧ p.open_.length < 65536) fun u =>
        u.wmem = writeBytes s.wmem ((p.prqBase + 32 * p.head) % 2 ^ 32) record ∧ record.length = 32
          ∧ mget u.page.open_ p.nextId = some (core, e) ∧ u.page.head = head
          ∧ mget (u.core core).pageReqs e = some { r with reqId := some p.nextId })
    ∧ (mget p.open_ id.toNat = none → exec (.prqRespDone id) s = .next { s with page := { p with badResp := true } }
        ∧ exec (.prqRespDenied id) s = .next { s with page := { p with badResp := true } })
    ∧ (mget p.open_ id.toNat = some (core, e) → mget (s.core core).pageReqs e = some r → r.handles = [h] →
        s.wg? h.1 = some w → mget w.jobNums h.2 = some x → x.status = .pending →
        done (exec (.prqRespDone id) s) .done ∧ done (exec (.prqRespDenied id) s) .denied)

/-- R114: the engine walks afresh, waiting for the table entries it asks for, and completes a request DONE for a page that
is there and DENIED for a malformed entry; one with no backing leaf, or with no free frame, it forwards to the queue; else it
pops a frame, and copies the backing page into it; once that is done it replaces the leaf by an atomic compare, logs the page,
and completes the request DONE, or pushes the frame back where the leaf has changed. An error in reading the backing page
pushes the frame back and one in writing the frame drops it; both forward the request. An error in the compare pushes the
frame back and denies the request (DESIGN CHOICE, log 86). The record's address and PRQ_HEAD modulo the size: log 70. -/
def Sys2Proof.Claims.PageEngine : Prop :=
  ∀ (s s1 s2 s3 s4 : State) (core e leaf leafAt b rights n : Nat) (r : PageReq) (i : Install) (t : Trans) (f : Found)
    (y : List (Nat × Nat × Nat)) (h : Nat × Nat) (w : Workgroup) (x : JobNum) (d d1 old : List Byte) (err : Cause × Nat),
    let who : Asker := .request core e
    let runs : (State → Prop) → Prop := fun q => ∃ u, exec (.pageRequestEngine core e) s = .next u ∧ q u
    let done : JobStatus → State → Prop := fun st u => mget (u.core core).pageReqs e = none ∧ ∃ z, u.wg? h.1 = some z
      ∧ mget z.jobNums h.2 = some { x with status := st, trap := none, ended := w.endCtr + 1 }
    let forwarded : Nat → State → Prop := fun leaf u => u.wgs = s.wgs
      ∧ mget (u.core core).pageReqs e = some { r with forward := true, leaf := leaf, install := none }
    let frame := stackFrame s n
    let newLeaf : Install → Nat := fun i => i.frame + i.rights * 2 + 1
    mget (s.core core).pageReqs e = some r → r.handles = [h] → s.wg? h.1 = some w → mget w.jobNums h.2 = some x →
    x.status = .pending →
    (r.install = none → r.forward = true ∨ r.reqId ≠ none ∨ hostPages s = true →
      exec (.pageRequestEngine core e) s = .next s)
    ∧ (r.install = none → r.forward = false → r.reqId = none → hostPages s = false →
        walkFrom s who r.asid r.va r.ptbase [] 4 = (f, y, s1) →
        (f = .busy → exec (.pageRequestEngine core e) s = .next s1)
        ∧ (f = .page t → runs (done .done))
        ∧ (f = .malformed → runs (done .denied))
        ∧ (f = .absent leaf leafAt → backing? leaf = none → runs fun u => forwarded leaf u ∧ u.page = s.page)
        ∧ (f = .absent leaf leafAt → backing? leaf = some (b, rights) → s.page.frameCount = 0 →
            runs fun u => forwarded leaf u ∧ u.page = s.page)
        ∧ (f = .absent leaf leafAt → backing? leaf = some (b, rights) → s.page.frameCount = n + 1 →
            (frameOk s frame = false → runs fun u => forwarded leaf u ∧ u.page.frameBad = true ∧ u.page.frameCount = n)
            ∧ (frameOk s frame = true → runs fun u => u.page = { s.page with frameCount := n }
                ∧ mget (u.core core).pageReqs e = some { r with install := some ⟨leaf, leafAt, b, rights, frame⟩ })))
    ∧ (r.install = some i →
        (pageContent s who i.backing = (none, s2) → exec (.pageRequestEngine core e) s = .next s2)
        ∧ (pageContent s who i.backing = (some (.error err), s2) → s.page.frameCount < 65535 →
            runs fun u => forwarded i.leaf u ∧ u.page = { s.page with frameCount := s.page.frameCount + 1 })
        ∧ (pageContent s who i.backing = (some (.ok d), s2) → pageStore s2 who i.frame d = (some (.error err), s3) →
            runs fun u => forwarded i.leaf u ∧ u.page = { s.page with frameBad := true })
        ∧ (pageContent s who i.backing = (some (.ok d), s2) → pageStore s2 who i.frame d = (some (.ok d1), s3) →
            leafSwap s3 who i.leafAt i.leaf (newLeaf i) = (some (.error err), s4) → s.page.frameCount < 65535 →
            runs fun u => done .denied u ∧ u.page = { s.page with frameCount := s.page.frameCount + 1 })
        ∧ (pageContent s who i.backing = (some (.ok d), s2) → pageStore s2 who i.frame d = (some (.ok d1), s3) →
            leafSwap s3 who i.leafAt i.leaf (newLeaf i) = (some (.ok old), s4) →
            (bytesNat old = i.leaf → runs fun u => done .done u ∧ u.page.frameCount = s.page.frameCount
                ∧ u.page.log.getLast? = some ⟨i.leafAt, i.backing, i.frame, r.asid, r.va / 2 ^ 14 * 2 ^ 14⟩)
            ∧ (bytesNat old ≠ i.leaf → s.page.frameCount < 65535 → runs fun u =>
                mget (u.core core).pageReqs e = some { r with install := none }
                ∧ u.page = { s.page with frameCount := s.page.frameCount + 1 } ∧ u.wgs = s.wgs)))

/-- R115, R116, R120, R443: a TLBI record removes the selected TLB entries of every core, and the host's SWEEP follows it; a
SWEEP record clears the selected lane registers and marks its sweep applied; a sweep that waits for nothing completes; XINV_GO
sends the host's TLBI, as soon as the queue has room, or sets REJ, and XINV_DONE ends it; the engine that returns pages starts
the step once every page is out of the pending banks and its sweeps are complete, and leaves a vault whose pages it does not
hold to the control node (the model's choice, log 44). The host's TLBI goes through cluster 0's queue and its SWEEP after it
(the model's choice, log 50). -/
def Sys2Proof.Claims.InvalidationEvents : Prop :=
  (∀ (s : State) (fr : Frame) (c : Nat) (k : Core), nextFrame s 0 = some fr → visible s fr = true →
    mget s.cores c = some k →
    (fr.cmd.kind = .tlbi → ∃ u, exec .tlbiRecord s = .next u ∧ u.frames = s.frames.erase fr
      ∧ (u.core c).tlb = (k.tlb.filter fun t => decide (¬ (if fr.cmd.arg / 2 ^ 8 % 4 = 0
            then t.asid = fr.cmd.arg % 256 ∧ t.vpn / 2 ^ t.run = fr.cmd.line % 2 ^ 52 / 2 ^ 14 / 2 ^ t.run
            else fr.cmd.arg / 2 ^ 8 % 4 = 2 ∨ fr.cmd.arg % 256 = t.asid)))
      ∧ ∀ n v, fr.cmd.service = some n → mget s.services n = some v → v.sweeps = true → s.outbox = [] →
          queueRoom s (clusterOf fr.cmd.src) 0 = true → ∃ a,
            u.queue (queueKey (clusterOf fr.cmd.src) 0) = s.queue (queueKey (clusterOf fr.cmd.src) 0) ++ [a]
            ∧ a.kind = .sweep ∧ a.arg = v.asid + 2 ^ 8 * v.mode ∧ a.service = some n)
    ∧ (fr.cmd.kind = .sweep → ∃ u, exec .sweepRecord s = .next u ∧ u.frames = s.frames.erase fr
      ∧ ((u.core c).lanes = k.lanes.filter fun x =>
          decide (¬ (fr.cmd.arg / 2 ^ 8 % 4 = 2 ∨ fr.cmd.arg % 256 = x.2.asid)))
      ∧ ∀ n v, fr.cmd.service = some n → mget s.services n = some v → ∃ y, mget u.services n = some y ∧ y.visible = true
          ∧ y.handle = v.handle ∧ y.kind = v.kind)
    ∧ (fr.cmd.kind ≠ .tlbi → exec .tlbiRecord s = .next s) ∧ (fr.cmd.kind ≠ .sweep → exec .sweepRecord s = .next s))
  ∧ (∀ (s : State) (n : Nat) (v : Service) (h : Nat × Nat) (w : Workgroup) (x : JobNum), mget s.services n = some v →
    (v.kind = .sweep → v.handle = some h → s.wg? h.1 = some w → mget w.jobNums h.2 = some x → x.status = .pending →
      Happens s (.sweepCompletion n) (sweepReady s v = true) fun u => mget u.services n = none ∧ ∃ z, u.wg? h.1 = some z
        ∧ mget z.jobNums h.2 = some { x with status := .done, trap := none, ended := w.endCtr + 1 })
    ∧ (s.page.xinvSweep = some n → Happens s .xinvDone (sweepReady s v = true) fun u => mget u.services n = none
        ∧ u.page = { s.page with xinvBusy := false, xinvDone := true, xinvSweep := none }))
  ∧ (∀ (s : State) (v : Word), v.getLsbD 31 = true → (s.page.xinvBusy = true → ∃ u, exec (.xinvGo v) s = .next u
        ∧ u.page.xinvRej = true ∧ u.queues = s.queues ∧ u.services = s.services)
      ∧ (s.page.xinvBusy = false → ∃ u n a x, exec (.xinvGo v) s = .next u ∧ u.page.xinvBusy = true
          ∧ u.page.xinvSweep = some n ∧ mget u.services n = some x ∧ x.asid = v.toNat % 256
          ∧ x.mode = min (v.toNat / 2 ^ 8 % 4) 2 ∧ x.sweeps = v.getLsbD 10
          ∧ a.kind = .tlbi ∧ a.line = s.page.xinvVa ∧ a.arg = x.asid + 2 ^ 8 * x.mode ∧ a.service = some n
          ∧ if queueRoom s 0 0 = true ∧ s.outbox = [] then u.queue 0 = s.queue 0 ++ [a]
            else u.queue 0 = s.queue 0 ++ [a] ∨ u.outbox = s.outbox ++ [(0, a)]))
  ∧ ∀ (s : State) (v : Nat) (m : MapCopy),
    let i := s.vault v
    let lo := v * 2 ^ 35 + (liveBanks (i.map &&& ~~~i.pend)).length * 2 ^ 26
    let hi := v * 2 ^ 35 + i.cap * 2 ^ 26
    let mine := s.page.retiring.filter fun x => x.1 == v
    let logged := s.page.log.filter fun x => frameIn s lo hi x.frame
    let gone := (mget s.page.emptied v).getD 0 + ((stackFrames s).filter (frameIn s lo hi)).eraseDups.length
    (s.link.mode.testBit 5 = true ∨ i.pend = 0 ∨ i.busy = true ∨ v ∈ s.page.left →
        exec (.hwPageRetirement v) s = .next s)
    ∧ (s.link.mode.testBit 5 = false → i.pend ≠ 0 → i.busy = false → v ∉ s.page.left → i.fenced = false →
        installsIn s lo hi = false → logged = [] → (hi - lo) / 2 ^ 14 ≤ gone + mine.length →
        (∀ x ∈ mine, ∃ y, mget s.services x.2 = some y ∧ sweepReady s y = true) →
        votedTable (countedCopies s v) = some m → ∃ u, exec (.hwPageRetirement v) s = .next u
          ∧ (u.vault v).busy = true ∧ (u.vault v).retire = i.pend ∧ ∀ x ∈ u.page.retiring, x.1 ≠ v)
    ∧ (s.link.mode.testBit 5 = false → i.pend ≠ 0 → i.busy = false → v ∉ s.page.left → installsIn s lo hi = false →
        gone + logged.length + mine.length < (hi - lo) / 2 ^ 14 →
        ∃ u, exec (.hwPageRetirement v) s = .next u ∧ v ∈ u.page.left ∧ u.vaults = s.vaults)

/-- Page requests and invalidations at work: the parts PageQueue, PageEngine and InvalidationEvents. -/
def Obligations.PageEvents : Prop :=
  Claims.PageQueue ∧ Claims.PageEngine ∧ Claims.InvalidationEvents

/-- R127 to R131, R135, R144: a visible record acts at its line's idle tag: a GETS with no other holder makes its
requester the exclusive owner, a GETM its owner, with the data supplied; a current UPG makes its L1 line M; a PUTM and
a PUTS with the line's GEN give it up; BYPR and BYPW perform their access at the home; an INV of a clean line frees the
tag and the copies; a window record writes every cluster's mirror, whatever BWIN_CTL.EN is then (DESIGN CHOICE, log 70). A
record finds no request of its line held by a remap step before it (log 80). The home of a field whose clock stands keeps
the record for later (R427). -/
def Sys2Proof.Claims.RecordEvents : Prop :=
  ∀ (s : State) (k : Nat) (fr : Frame) (t : Tag) (l : L1Line) (d : Line) (id : Nat) (a : Access) (b : List Byte),
    let r := fr.cmd
    let seen : Instr → (State → Prop) → Prop := fun i q => ∃ u, exec i s = .next u ∧ u.frames = s.frames.erase fr ∧ q u
    let idle := s.tag? r.line = some t ∧ t.blocked = false ∧ t.held = [] ∧ (s.vault (vaultOf r.line)).fenced = false
      ∧ (∀ y ∈ (s.vault (vaultOf r.line)).heldNow, y.line ≠ r.line) ∧ s.clusterRuns (vaultOf r.line) = true
    let sole := holdersOf s r.line = [r.src] ∧ s.l1? r.src r.line = some l
    let supplied : State → Nat → Bool → Prop := fun u g excl => ∃ n, mget u.mesh n = some (.supply r.line d r.src g excl none (homeNode r.line))
    nextFrame s k = some fr → visible s fr = true →
    (r.kind = .gets → idle → sole → t.owner = none → t.holders = 0 → tagData s t = (.ok d, s) →
      seen (.gets k) fun u => supplied u t.gen true ∧ u.l1? r.src r.line = some { l with holder := true }
        ∧ u.tag? r.line = some { t with holders := 1, owner := some r.src })
    ∧ (r.kind = .getm → idle → sole → t.owner = none → tagData s t = (.ok d, s) →
      seen (.getm k) fun u => supplied u ((t.gen + 1) % 65536) true
        ∧ u.l1? r.src r.line = some { l with holder := true }
        ∧ u.tag? r.line = some { t with gen := (t.gen + 1) % 65536, holders := 1, owner := some r.src })
    ∧ (r.kind = .upg → idle → sole → l.st ≠ .i → l.held = [] → (∀ n ∈ l.due, mget s.accs n = none) → l1Accs s r.src r.line = [] →
        (∀ x ∈ (s.core r.src).l1, x.2.flush = false) → r.arg = t.gen →
      seen (.upg k) fun u =>
        u.l1? r.src r.line = some { l with st := .m, gen := (l.gen + 1) % 65536, wants := none, due := [] }
        ∧ u.tag? r.line = some { t with gen := (t.gen + 1) % 65536, holders := 1, owner := some r.src })
    ∧ (r.kind = .putm → idle → sole → l.leaving = true → l.gen = r.arg → r.arg = t.gen →
      seen (.putm k) fun u => u.l1? r.src r.line = none ∧ (∃ n, mget u.mesh n = some (.writeback r.line l.data r.src))
        ∧ u.tag? r.line = some { t with holders := t.holders - 1, awaits := some .writeback })
    ∧ (r.kind = .puts → idle → sole → l.leaving = true → l.gen = r.arg → r.arg = t.gen →
      seen (.puts k) fun u => u.l1? r.src r.line = none
        ∧ u.tag? r.line = some { t with
            holders := t.holders - 1, owner := if t.owner = some r.src then none else t.owner })
    ∧ (r.kind = .bypr → idle → holdersOf s r.line = [] → t.owner = none → r.service = none → r.access = some id →
        mget s.accs id = some a → tagData s t = (.ok d, s) → (∃ f g, a.op = .load f g) →
      seen (.bypr k) fun u => mget u.accs id = none ∧ u.tag? r.line = some t ∧ u.vmem = s.vmem
        ∧ u.threads = (accResult s id a (lineSlice d (a.pa % 128) a.size)).threads)
    ∧ (r.kind = .bypw → idle → holdersOf s r.line = [] → t.owner = none → r.access = some id → r.arg = 0 →
        mget s.accs id = some a → tagData s t = (.ok d, s) → a.op = .store b → t.dom = 0 → b.length = a.size →
        a.pa % 128 + a.size ≤ 128 → 0 < a.size → mget s.entries s.nextNum = none → entryFree (vaultOf r.line) s = true →
      seen (.bypw k) fun u => mget u.accs id = none ∧ ∃ t' d' v, u.tag? r.line = some t' ∧ t'.dirty = true
        ∧ t'.gen = (t.gen + 1) % 65536 ∧ t'.holders = 0 ∧ tagData u t' = (.ok d', v)
        ∧ lineBytes d' = (lineBytes d).take (a.pa % 128) ++ b ++ (lineBytes d).drop (a.pa % 128 + a.size))
    ∧ (r.kind = .inv → idle → sole → r.service = none → l.promised = false → l.held = [] → l.due = [] → l.st = .s →
        l.wants = none → t.owner = none → t.dirty = false →
      seen (.inv k) fun u => u.tag? r.line = none ∧ u.l1? r.src r.line = none ∧ u.vmem = s.vmem)
    ∧ (r.kind = .bypr ∨ r.kind = .bypw → s.clusterRuns (vaultOf r.line) = false → holdersOf s r.line = [] →
      ∀ i, (r.kind = .bypr ∧ i = .bypr k) ∨ (r.kind = .bypw ∧ i = .bypw k) → seen i fun u =>
        (u.slice (vaultOf r.line)).buffered = (s.slice (vaultOf r.line)).buffered ++ [r] ∧ u.tags = s.tags
          ∧ u.entries = s.entries ∧ u.accs = s.accs ∧ u.vmem = s.vmem)
    ∧ (r.kind = .window → r.access = some id → ∀ w x, r.bytes = [(w, x)] →
      seen (.windowData k) fun u => mget u.accs id = none
        ∧ ∀ c < Config.clusterCount, memRead u.wmem (mirrorAt c w) = x)
    ∧ (r.kind ≠ .gets → exec (.gets k) s = .next s)
    ∧ (r.kind ≠ .window → exec (.windowData k) s = .next s)

/-- R122, R124 to R129, R140, R144, R147, R148, R237: a slot comes when its 4 ns have passed and every record
visible in the last one has been applied, and takes up to eight records of a queue in their order (one queue for each cluster
and carousel: DEDUCED, log 46); a supply gives the waiting core its line, a notice and a write-back of the line's owner go to the home,
a fill and a vault write move the line between the tag and the vault; a reserved kind is noted; DEDUP_CLR clears the
counters and HD_KEY3 commits the selected domain's key. -/
def Sys2Proof.Claims.SlotAndMessages : Prop :=
  (∀ (s : State) (q : Nat) (l : List Rec), s.queues = [(q, l)] → l ≠ [] → l.length < 64 →
    (∀ r ∈ l, r.kind ≠ .window) → s.services = [] → (s.field (fieldOfCluster (q / 8))).running = true →
    (s.field (fieldOfCluster (q / 8))).st ≠ .stall → (s.field (fieldOfCluster (q / 8))).notice = false →
    workingWaves s (q / 8) (q % 8) = 4 → s.outbox = [] → (∀ x ∈ s.slices, x.2.parked = []) →
    (∀ x ∈ s.tags, x.2.awaits ≠ some .room) → (∀ c ∈ s.cores, ∀ x ∈ c.2.l1, x.2.due = []) → (∀ f ∈ s.frames, f.carousel = q % 8 → f.slot ≤ s.time.slot) →
    Happens s .carouselSlot ((s.time.slot + 1) * Config.slotTime ≤ s.now + s.time.shift
        ∧ ∀ f ∈ s.frames, visible s f = false) fun u =>
      u.time.slot = s.time.slot + 1 ∧ u.queue q = l.drop 8 ∧ u.frames = s.frames ++ (l.take 8).zipIdx.map fun x =>
        ⟨q % 8, s.time.slot + 1, q / 8, x.2, x.1⟩)
  ∧ (∀ (s : State) (id line c g src : Nat) (d : Line) (excl : Bool) (l : L1Line) (t : Tag) (keep : Bool),
    let m := Msg.supply line d c g excl none src
    let n := Msg.notice line keep src
    let b := Msg.writeback line d src
    (mget s.mesh id = some m → s.l1? c line = some l → l.held = [] → (∀ n ∈ l.due, mget s.accs n = none) → l1Accs s c line = [] →
      (∀ x ∈ (s.core c).l1, x.2.flush = false) → l.flush = false →
      Happens s (.supplyArrival id) (oldestMsg s id m = true) fun u => mget u.mesh id = none
        ∧ u.l1? c line = some { l with
            st := if l.wants = some .gets then (if excl then .e else .s) else .m
            gen := g, data := d, wants := none, holder := false, held := [], due := [] })
    ∧ (mget s.mesh id = some n → s.tag? line = some t → t.held = [] →
      Happens s (.ownerNotice id) (oldestMsg s id n = true ∧ t.awaits = some .notice ∧ t.owner = some src) fun u => mget u.mesh id = none
        ∧ u.tag? line = some { t with owner := if keep then t.owner else none, awaits := none })
    ∧ (mget s.mesh id = some b → s.tag? line = some t → t.held = [] → t.dom = 0 → s.services = [] →
      entryFree (vaultOf line) s = true →
      Happens s (.writebackArrival id) (oldestMsg s id b = true ∧ t.awaits = some .writeback ∧ (t.owner = some src ∨ t.owner = none)) fun u =>
        mget u.mesh id = none ∧ ∃ y v, u.tag? line = some y ∧ y.dirty = true ∧ y.owner = none ∧ y.awaits = none
          ∧ tagData u y = (.ok d, v))
    ∧ (s.tag? line = some t → t.awaits = some .fill → t.held = [] → t.dom = 0 → (s.vault (vaultOf line)).busy = false →
        vaultError s line = none → entryFree (vaultOf line) s = true →
        ∃ u y v, exec (.l2Fill line) s = .next u ∧ u.tag? line = some y ∧ y.awaits = none
          ∧ tagData u y = (.ok (vaultLine s line), v))
    ∧ (s.tag? line = some t → t.leaving = none → t.freeing = false → t.clean = [] → tagData s t = (.ok d, s) → vaultError s line = none →
      Happens s (.vaultWritePerformed line) (t.writing = true ∧ (s.vault (vaultOf line)).busy = false) fun u =>
        vaultLine u line = d ∧ u.tag? line = some { t with dirty := false, writing := false, clean := [] }))
  ∧ ∀ (s : State) (c : Nat) (kind : BitVec 4) (v : Word),
    Happens s (.badrec c kind) (10 ≤ kind.toNat) (fun u => u.slice c = { s.slice c with badrec := true })
    ∧ Happens s (.dedupClr c v) (v.getLsbD 0 = true) (fun u => u.slice c = { s.slice c with coll := 0, sat := 0 })
    ∧ Happens s (.hdKey3 v) (s.hdSel ≠ 0) (fun u => u.hdKey s.hdSel = v ++ s.hdLatch
        ∧ (∀ x, x ≠ s.hdSel → u.hdKey x = s.hdKey x) ∧ u.tags = s.tags
        ∧ ∀ n e, mget u.entries n = some e → e.dom = s.hdSel → e.indexed = false)

/-- R138, R140, R141, R147: a line's full content in a hash domain other than 0 shares the entry that the slice's index gives
for its hallmark, where the data are equal and fewer than 255 tags refer to it; other data count in DEDUP_COLL and take an
entry that is not indexed, and a full one counts in DEDUP_SAT and gives the index to a new one; a write of a part of a line
at the home takes a copy of a shared or pinned entry, and else is made in the entry, which leaves the index. -/
def Sys2Proof.Claims.SharedEntries : Prop :=
  ∀ (s : State) (line n off : Nat) (t : Tag) (e : Entry) (d : Line) (b : List Byte),
    let slice := vaultOf line
    let i := s.slice slice
    let h := sipHashLine (s.hdKey t.dom) d
    let new := s.nextNum
    let u := fillTag s line d
    let p := partTag s line off b
    let indexes : Nat × Entry → Prop := fun y => y.2.slice = slice ∧ y.2.dom = t.dom ∧ y.2.indexed = true ∧ y.2.mark = h
    let keeps : State → Prop := fun u => u.vmem = s.vmem ∧ (∀ a, a ≠ line → u.tag? a = s.tag? a)
      ∧ ∀ a x, a ≠ n → s.entry? a = some x → u.entry? a = some x
    let only := s.entry? n = some e ∧ indexes (n, e) ∧ ∀ y ∈ s.entries, indexes y → y = (n, e)
    s.tag? line = some t → s.entry? new = none →
    (t.entry = none → t.dom ≠ 0 →
      ((∀ y ∈ s.entries, ¬ indexes y) → keeps u ∧ u.tag? line = some { t with entry := some new }
        ∧ u.entry? new = some ⟨slice, d, h, t.dom, true, 1, 0, false⟩ ∧ u.slices = s.slices)
      ∧ (only → e.data = d → e.refs < 255 → keeps u ∧ u.tag? line = some { t with entry := some n }
        ∧ u.entry? n = some { e with refs := e.refs + 1 } ∧ u.slices = s.slices ∧ u.entry? new = none)
      ∧ (only → e.data ≠ d → keeps u ∧ u.tag? line = some { t with entry := some new } ∧ u.entry? n = some e
        ∧ u.entry? new = some ⟨slice, d, h, t.dom, false, 1, 0, false⟩
        ∧ u.slice slice = { i with coll := min (i.coll + 1) (2 ^ 32 - 1) })
      ∧ (only → e.data = d → e.refs = 255 → keeps u ∧ u.tag? line = some { t with entry := some new }
        ∧ u.entry? n = some { e with indexed := false }
        ∧ u.entry? new = some ⟨slice, d, h, t.dom, true, 1, 0, false⟩
        ∧ u.slice slice = { i with sat := min (i.sat + 1) (2 ^ 32 - 1) }))
    ∧ (t.entry ≠ none → u = fillTag ((releaseEntry s t.entry).setTag line { t with entry := none }) line d)
    ∧ (s.entry? n = some e → (e.refs ≤ 1 → e.pins = 0 → (releaseEntry s (some n)).entry? n = none)
        ∧ (1 < e.refs ∨ 0 < e.pins → (releaseEntry s (some n)).entry? n = some { e with refs := e.refs - 1 })
        ∧ keeps (releaseEntry s (some n)))
    ∧ (t.entry = some n → s.entry? n = some e →
      (1 < e.refs ∨ 0 < e.pins → keeps p ∧ p.tag? line = some { t with entry := some new, dirty := true }
        ∧ p.entry? n = some { e with refs := e.refs - 1 }
        ∧ p.entry? new = some ⟨e.slice, patchLine e.data off b, 0, e.dom, false, 1, 0, false⟩)
      ∧ (e.refs ≤ 1 → e.pins = 0 → keeps p ∧ p.tag? line = some { t with dirty := true }
        ∧ p.entry? n = some { e with data := patchLine e.data off b, indexed := false }))

/-- Records, messages, slots and shared entries: the parts RecordEvents, SlotAndMessages and SharedEntries. -/
def Obligations.CoherenceEvents : Prop :=
  Claims.RecordEvents ∧ Claims.SlotAndMessages ∧ Claims.SharedEntries

/-- R379, R381, R382: the sizes that a record declares, and its checks in order: the fields, the window, residency on an
empty core, the count and CGSIZE, the placement table, COSCHED, the descriptor. -/
def Sys2Proof.Claims.RecordChecks : Prop :=
  ∀ (s : State) (b table desc : List Byte) (dev : Bool), b.length = 256 →
    let at_ : Nat → Nat → Nat := fun o n => bytesNat ((b.drop o).take n)
    let count := at_ 8 4 * at_ 12 4 * at_ 16 4 * at_ 27 1
    let threads := at_ 20 2 * at_ 22 2 * at_ 24 2
    let up : Nat → Nat := fun n => (n + 255) / 256 * 256
    let footprint := up (at_ 32 4) + up (threads * at_ 28 2)
    let fields := at_ 0 8 % 4 = 0 ∧ at_ 0 8 < 2 ^ 52 ∧ 1 ≤ at_ 8 4 ∧ 1 ≤ at_ 12 4 ∧ 1 ≤ at_ 16 4
      ∧ 1 ≤ threads ∧ threads ≤ 1024 ∧ at_ 26 1 < 4 ∧ 1 ≤ at_ 27 1 ∧ at_ 27 1 ≤ 8 ∧ at_ 28 2 ≤ 2048 ∧ at_ 32 4 ≤ 1048576
      ∧ 1 ≤ at_ 40 1 ∧ at_ 40 1 ≤ 32 ∧ at_ 41 1 < 16 ∧ at_ 42 1 < 8 ∧ at_ 45 1 < 4 ∧ at_ 48 8 % 64 = 0 ∧ at_ 56 8 % 16 = 0
      ∧ at_ 64 8 ≠ 0 ∧ at_ 64 8 % 64 = 0 ∧ at_ 30 2 = 0 ∧ at_ 46 2 = 0 ∧ at_ 72 56 = 0 ∧ at_ 192 48 = 0
      ∧ (dev = false → at_ 240 16 = 0) ∧ count < 2 ^ 31
    let clusters := ∃ c ∈ s.launch.cores, at_ 40 1 ≤ (s.launch.cores.filter fun d => d / 32 == c / 32).length
    let first := checkRecord s b table desc dev
    let fits := at_ 36 4 ≤ at_ 32 4 ∧ at_ 36 4 ≤ 524288
    let resident := threads ≤ 2048 ∧ footprint ≤ 1048576
    let grouped := count % at_ 40 1 = 0 ∧ clusters
    let placed := (at_ 56 8 = 0 → s.link.mode.testBit 4 = false) ∧ (at_ 56 8 ≠ 0 → tableOk s (recordSizes b) table = true)
    let fit := at_ 45 1 % 2 = 1 → gridFits s (recordSizes b) = true
    let chunks := at_ 48 8 ≠ 0 → collectiveOk desc = true
    (recordSizes b).count = count ∧ (recordSizes b).threads = threads ∧ (recordSizes b).footprint = footprint
    ∧ (recordSizes b).regs = 16 * (at_ 26 1 % 4 + 1) ∧ (recordSizes b).slice = at_ 28 2 ∧ (recordSizes b).scratch = at_ 32 4
    ∧ (recordSizes b).window = at_ 36 4 ∧ (recordSizes b).cgsize = at_ 40 1 ∧ (recordSizes b).heat = at_ 42 1 % 8
    ∧ (¬ fields → first = some .malformed)
    ∧ (fields → ¬ fits → first = some .footprint)
    ∧ (fields → fits → ¬ resident → first = some .residency)
    ∧ (fields → fits → resident → ¬ grouped → first = some .cluster)
    ∧ (fields → fits → resident → grouped → ¬ placed → first = some .placement)
    ∧ (fields → fits → resident → grouped → placed → ¬ fit → first = some .cosched)
    ∧ (fields → fits → resident → grouped → placed → fit → ¬ chunks → first = some .collective)
    ∧ (fields → fits → resident → grouped → placed → fit → chunks → first = none)

/-- R376, R387: the queue served next is the first in turn that is enabled and holds a record. -/
def Sys2Proof.Claims.QueueOrder : Prop :=
  ∀ (s : State) (q : Nat),
    let has : Nat → Prop := fun q => (s.lqueue q).en = true
      ∧ (s.lqueue q).head % (s.lqueue q).records ≠ (s.lqueue q).tail % (s.lqueue q).records
    let turn : Nat → Nat := fun i => (s.launch.turn + 1 + i) % 64
    (nextQueue s = some q ↔ ∃ i, i < 64 ∧ turn i = q ∧ has q ∧ ∀ j, j < i → ¬ has (turn j))
    ∧ (nextQueue s = none ↔ ∀ q, q < 64 → ¬ has q)

/-- R28, R87, R89, R385, R386, R388, R389: a workgroup takes the first core of its allowed set, by clusters, that has
room and whose vault accepts it; each failed vault check before it counts. The set is the enabled cores, or its
placement entry's, once their stagger time has come (logs 39, 54). -/
def Sys2Proof.Claims.CoreChoice : Prop :=
  ∀ (s : State) (z : Sizes) (set : List Nat) (core more heat : Nat) (l : Launch) (g : Nat) (e : PlaceEntry),
    let order := ((set.map clusterOf).eraseDups).flatMap fun cl => set.filter fun c => clusterOf c == cl
    let takes : Nat → Bool := fun c => vaultAccepts s (clusterOf c) 0 z.heat && coreFits s c z
    let pick := pickCores s z 1 set
    let v := s.vault core
    let there := (s.wgs.filter fun x => x.2.resident && x.2.core == core)
    let classes := ((s.wgs.filter fun x => x.2.resident && x.2.core / 32 == core).map fun x => x.2.sizes.heat).sum
    let temp : Int := v.temp + (s.heatCoef * (classes + more + heat) : Nat)
    let share : Nat := if temp < 85 * 16 then 97 else if temp < 95 * 16 then 94 else if temp < 105 * 16 then 88 else 76
    let linear := g * max 1 l.sizes.cgsize
    pick.1 = (order.find? takes).map (fun c => [c])
    ∧ pick.2 = ((order.takeWhile fun c => !takes c).filter fun c => !vaultAccepts s (clusterOf c) 0 z.heat).length
    ∧ (hostRefresh s = false → (vaultAccepts s core more heat = true
        ↔ v.closed = false ∧ s.vaultFloor ≤ share ∧ temp < 115 * 16))
    ∧ (coreFits s core z = true ↔ there.length < 16
        ∧ (there.map fun x => (usedSlots s core x.1 x.2).length).sum + z.threads ≤ 2048
        ∧ (there.map fun x => x.2.sizes.footprint).sum + keptWindows s core + z.footprint ≤ 1048576
        ∧ ∀ r ∈ (s.core core).rows.toList, r.stopped = false)
    ∧ (core ∈ openCores s l g ↔ core ∈ allowedCores s l linear
        ∧ (l.accepted + 199) / 200 * 200 + l.stagger * regionOfCore core * 200 ≤ s.timeNs)
    ∧ (l.table = [] → allowedCores s l linear = s.launch.cores)
    ∧ (e ∈ l.table → e.first ≤ linear → linear < e.first + e.count →
        (∀ x ∈ l.table, x.first ≤ linear → linear < x.first + x.count → x = e) →
        allowedCores s l linear = (s.launch.cores.drop e.core).take e.span)

/-- R376, R379 to R381, R387, R398: the record at the head of the queue served next is accepted as a launch with its
fields and a priority of at most PRIOMAX, or refused, and the head goes on; with 256 launches QFULL is set. Records
without a collective, a table or, where refused, a completion record are meant. The unit's accesses: log 55; identifiers
in turn: DESIGN CHOICE (log 22). -/
def Sys2Proof.Claims.LaunchTake : Prop :=
  ∀ (s : State) (q : Nat),
    let x := s.lqueue q
    let rd := readBytes s.wmem ((x.base + 256 * (x.head % x.records)) % 2 ^ 32) 256
    let passed : State → Prop := fun u => (u.lqueue q).head = (x.head + 1) % x.records ∧ u.launch.turn = q
    let ready := nextQueue s = some q ∧ s.launch.launches.length < 256 ∧ fieldAt rd 48 8 = 0 ∧ fieldAt rd 56 8 = 0
    (nextQueue s ≠ some q → exec (.launchRecordTake q) s = .next s)
    ∧ (nextQueue s = some q → 256 ≤ s.launch.launches.length →
        exec (.launchRecordTake q) s = .next { s with launch := { s.launch with qfull := true } })
    ∧ (ready → checkRecord s rd [] [] x.dev = none → ∃ u l, exec (.launchRecordTake q) s = .next u ∧ passed u
        ∧ mget u.launch.launches s.launch.nextId = some l ∧ u.launch.nextId = s.launch.nextId + 1
        ∧ l.entry.toNat = fieldAt rd 0 8 ∧ l.sizes = recordSizes rd ∧ l.contain = fieldAt rd 43 1
        ∧ l.stagger = fieldAt rd 44 1 ∧ l.completion = fieldAt rd 64 8 ∧ l.collective = none ∧ l.table = []
        ∧ (∀ n < 16, (l.args.getD n 0).toNat = fieldAt rd (128 + 4 * n) 4) ∧ l.accepted = s.timeNs
        ∧ l.phase = .active ∧ l.placed = [] ∧ l.exited = 0 ∧ l.firstAt = none
        ∧ (x.dev = false → l.priority = min (fieldAt rd 41 1) x.prioMax ∧ l.binding.asid = x.asid
            ∧ l.binding.ptbase = x.ptb ∧ l.binding.hashdom = x.dom ∧ l.binding.super = x.super)
        ∧ (x.dev = true → l.binding.asid = fieldAt rd 241 1 ∧ l.binding.hashdom = fieldAt rd 242 2 % 1024
            ∧ l.binding.queue = fieldAt rd 240 1 % 64))
    ∧ (ready → checkRecord s rd [] [] x.dev ≠ none → fieldAt rd 64 8 = 0 → ∃ u, exec (.launchRecordTake q) s = .next u ∧ passed u
        ∧ u.launch.crfault = true ∧ u.launch.launches = s.launch.launches ∧ u.launch.nextId = s.launch.nextId)

/-- R343, R380, R383, R388 to R390: a group of one workgroup takes the first core that accepts it, with its arguments in
s0 to s15; where no core does it waits; it starts at its core's time, after those of lower index in its placement entry,
with every thread at ENTRY. DESIGN CHOICES: the order of the tries and the count of refusals (logs 39, 54), the dispatch
number, which rises with each placement (log 58), and context tags in turn (log 22). -/
def Sys2Proof.Claims.LaunchPlace : Prop :=
  ∀ (s : State) (n g core refused k : Nat) (r : List Nat) (l : Launch) (w : Workgroup),
    let tried := mget s.launch.launches n = some l ∧ l.cosched = false ∧ l.sizes.cgsize ≤ 1 ∧ readyGroups s n l = g :: r
      ∧ servedFirst s n l = true
    let pick := pickCores s l.sizes 1 (openCores s l g)
    let counted : State → Launch → Prop := fun u y =>
      u.launch.refuse = min (s.launch.refuse + refused) (2 ^ 32 - 1) ∧ y.refusals = min (l.refusals + refused) (2 ^ 32 - 1)
    (tried → l.args.length ≤ 16 → pick = (some [core], refused) → ∃ u x y, exec (.workgroupPlacement n) s = .next u
        ∧ u.wg? s.launch.nextTag = some x ∧ x.begun = false ∧ x.dispatch = s.launch.dispatches
        ∧ u.launch.dispatches = s.launch.dispatches + 1
        ∧ x.core = core ∧ x.phase = .placed ∧ x.coords = coordsAt l.sizes n g ∧ x.asid = l.binding.asid
        ∧ x.ptbase = l.binding.ptbase ∧ x.hashdom = l.binding.hashdom ∧ x.mhold = 64 ∧ x.unichk = false
        ∧ (∀ j (h : j < 64), x.sregs[j]'h = if j < 16 then l.args.getD j 0 else 0)
        ∧ x.slots = freeSlots s core l.sizes.threads ∧ x.refcost = 0 ∧ x.migr = 0 ∧ x.scratch = []
        ∧ u.launch.nextTag = s.launch.nextTag + 1 ∧ mget u.launch.launches n = some y ∧ y.placed = l.placed ++ [g]
        ∧ counted u y ∧ u.threads = s.threads)
    ∧ (tried → pick = (none, refused) → s.launch.ctxSize = 0 → ∃ u y, exec (.workgroupPlacement n) s = .next u ∧ u.wgs = s.wgs
        ∧ mget u.launch.launches n = some y ∧ y.placed = l.placed ∧ mget y.waits g = some s.timeNs ∧ counted u y)
    ∧ (mget s.launch.launches n = some l → readyGroups s n l = [] → exec (.workgroupPlacement n) s = .next s)
    ∧ (s.wg? g = some w → mget s.launch.launches w.coords.launch = some l → l.firstAt ≠ none → l.owes = none → w.slots.Nodup →
        (∀ x ∈ w.slots, x < 2048) →
        Happens s (.workgroupStart g) (w.phase = .placed ∧ l.phase = .active ∧ w.startAt ≤ s.timeNs
          ∧ lowerBegun s w l = true) fun u => u.wg? g = some { w with phase := .running, begun := true } ∧ ∀ slot, w.slots[k]? = some slot →
            ∃ t, u.thread? (tkey w.core slot) = some t ∧ t.pc = l.entry ∧ t.wg = g ∧ t.lin = k ∧ t.ta = false
              ∧ t.rng = rngStart w.coords.linear k ∧ (∀ y, t.rdG y = 0) ∧ (∀ y, t.rdM y = 0) ∧ (∀ y, t.rdH y = 0)
              ∧ (∀ y, t.rdP y = decide (y = 7)) ∧ (∀ y, t.rdF y = 0) ∧ t.sstep = 0 ∧ t.run = .running)

/-- R339, R414, R416: a group whose work is complete or recorded leaves its core with its image; it resumes on a core of
its set at its saved points with its registers, and %migr rises by 1 (the image: logs 37, 67). -/
def Sys2Proof.Claims.SaveAndResume : Prop :=
  ∀ (s : State) (g core : Nat) (w : Workgroup) (l : Launch) (i : Image) (t : Thread),
    let n := w.coords.launch
    let byCluster : List Nat → List Nat := fun set =>
      ((set.map clusterOf).eraseDups).flatMap fun cl => set.filter fun c => clusterOf c == cl
    s.wg? g = some w → groupWgs s n w.coords.group = [g] → w.killed = false →
    Happens s (.contextSaveComplete g) (w.phase = .saving ∧ saveReady s g w = true) (fun u => ∃ x,
        u.wg? g = some { w with phase := .saved, image := some x }
        ∧ x.threads = ((s.threads.filter fun y => y.2.wg == g).map fun y => y.2.imaged)
        ∧ (∀ y ∈ u.threads, y.2.wg ≠ g) ∧ (∀ k y, s.thread? k = some y → y.wg ≠ g → u.thread? k = some y)
        ∧ (∀ y ∈ (u.core w.core).jobs, y.2.wg ≠ g) ∧ (u.core w.core).engine.owner ≠ some g
        ∧ ∀ b, (n, w.coords.group, b) ∉ u.launch.saving)
    ∧ (∀ y : Thread, y.imaged.pc = y.pc ∧ KeepsRegs y y.imaged [] [] [] [] ∧ y.imaged.ta = y.ta ∧ y.imaged.wg = y.wg
        ∧ y.imaged.resume = y.resume ∧ y.imaged.meet = y.meet ∧ y.imaged.sstep = y.sstep ∧ y.imaged.clause = y.clause)
    ∧ (w.phase = .saved → w.image = some i → i.threads = [t] → t.lin = 0 → w.sizes.threads = 1 → w.coords.rank < 32 →
        mget s.launch.launches n = some l → l.cosched = false → l.phase = .active → l.firstAt ≠ none → l.owes = none →
        w.begun = true ∨ lowerBegun s w l = true → placementOwed s = false →
        (byCluster (allowedCores s l w.coords.linear)).find? (fun c =>
          vaultAccepts s (clusterOf c) 0 w.sizes.heat && resumeOk s w c) = some core →
        ∃ u x y, exec (.groupResume g) s = .next u ∧ u.wg? g = some x ∧ x.core = core ∧ x.phase = .running ∧ x.begun = true
          ∧ x.image = none ∧ x.migr = w.migr + 1 ∧ x.scratch = w.scratch ∧ x.sregs = w.sregs ∧ x.coords = w.coords
          ∧ u.thread? (tkey core ((freeSlots s core 1).getD 0 0)) = some y ∧ y.pc = t.pc ∧ y.ta = t.ta
          ∧ KeepsRegs t y [] [] [] [])
    ∧ (w.phase ≠ .saved → exec (.groupResume g) s = .next s)

/-- R211, R272, R396, R397: a workgroup with nothing under way frees its core, its launch counts it and owes its record the
change, and its window stays while a member of its group has not exited; the first dispatch is noted once; a launch whose
workgroups have all exited ends once its record is written, STATUS last (log 55), with message 10 for NOTIFY or a kill. -/
def Sys2Proof.Claims.LaunchEnds : Prop :=
  ∀ (s u : State) (g n : Nat) (w : Workgroup) (l : Launch),
    let k := w.coords.launch
    let v := releaseWg s g w
    let quiet := s.wg? g = some w ∧ wgDone s g w = true ∧ unseenFault w = none ∧ toFire s w = none
      ∧ mget s.launch.launches k = some l
    let record := finalRecord s (launchWriter n) l.binding l.completion (completionBytes l (match l.killed with
      | some (c, _, _) => 4 + 256 * c
      | none => 2) (l.endedAt.getD s.timeNs))
    (s.wg? g = some w → wgDone s g w = false → exec (.workgroupExit g) s = .next s)
    ∧ (quiet → exec (.workgroupExit g) s = .next (pumpRecord v k))
    ∧ (mget s.launch.launches k = some l → ∃ y, mget (firstDispatch s k).launch.launches k = some y
        ∧ y.firstAt = some (l.firstAt.getD s.timeNs) ∧ (l.firstAt = none → y.owes = some 0))
    ∧ (quiet → (∃ y, mget v.launch.launches k = some y ∧ y.exited = l.exited + 1 ∧ y.refcost = l.refcost + w.refcost
          ∧ y.endedAt = some s.timeNs ∧ y.owes.isSome = true)
        ∧ ((∃ x ∈ s.wgs, x.1 ≠ g ∧ x.2.phase ≠ .gone ∧ x.2.coords.launch = k ∧ x.2.coords.group = w.coords.group) →
            v.wg? g = some { w with phase := .gone })
        ∧ ((∀ x ∈ s.wgs, x.2.coords.launch = k → x.2.coords.group = w.coords.group → x.1 = g ∨ x.2.phase = .gone) →
            v.wg? g = none))
    ∧ (mget s.launch.launches n = some l →
        ((∃ x ∈ s.wgs, x.2.coords.launch = n) ∨ (l.phase ≠ .killing ∧ l.exited ≠ l.sizes.count) →
          exec (.launchEnd n) s = .next s)
        ∧ ((∀ x ∈ s.wgs, x.2.coords.launch ≠ n) → l.phase = .killing ∨ l.exited = l.sizes.count →
          (record = .busy u → exec (.launchEnd n) s = .next u)
          ∧ (record = .ok () u → u.link.msgs.length < 1024 → ∃ v, exec (.launchEnd n) s = .next v
            ∧ mget v.launch.launches n = none ∧ v.vmem = u.vmem ∧ v.tags = u.tags
            ∧ v.link.msgs.length = if l.notify = true ∨ l.killed.isSome = true then u.link.msgs.length + 1
                else u.link.msgs.length)))

/-- The launch unit at work: the parts RecordChecks, QueueOrder, CoreChoice, LaunchTake, LaunchPlace, SaveAndResume and
LaunchEnds. -/
def Obligations.LaunchEvents : Prop :=
  Claims.RecordChecks ∧ Claims.QueueOrder ∧ Claims.CoreChoice ∧ Claims.LaunchTake ∧ Claims.LaunchPlace ∧ Claims.SaveAndResume ∧ Claims.LaunchEnds

/-- R420 to R424, R434: a field that hears no beacon in 8 slots freezes; one of rank k claims 4k µs after that, an
unranked one bids after 16 µs and the lowest bidder claims after 18 µs; the first claim applied decides, its field serves
16 slots later with a new epoch, and its first beacon steps every slot counter by 64 (claims and takeover: DEDUCED, log 49);
a skew beyond DRIFT_GUARD stalls a field in FROZEN or FOLLOW, and a notice stalls one at its next slot boundary. Only a field that is alive and whose clock runs acts. -/
def Sys2Proof.Claims.ElectionEvents : Prop :=
  ∀ (s : State) (f slot : Nat) (x : Field) (offset : Int) (skews : List Int) (v : Word),
    let acts := fieldActs s f = true
    let lost := x.st = .frozen ∨ x.st = .stall
    let us := 1000 * Config.nano
    let claimed : State → Prop := fun u => u.field f = { x with st := .claim, fromStall := decide (x.st = .stall) }
      ∧ u.time.claims = s.time.claims ++ [(s.time.slot, f)]
    s.field f = x →
    Happens s (.beacon f offset) ((∃ m, s.time.master = some m ∧ (s.field m).st = .master ∧ (s.field m).running = true)
        ∧ s.time.fresh = false ∧ acts ∧ ¬ lost ∧ x.st ≠ .claim ∧ x.mark < s.time.slot) (fun u => ∃ k,
        u.field f = { x with ofs := offset, skew := k, mark := s.time.slot } ∧ (offset - k).natAbs ≤ 50
        ∧ (offset.natAbs ≤ 50 → k = 0))
    ∧ Happens s (.beaconLoss f) (acts ∧ x.st = .follow ∧ x.mark + 9 ≤ s.time.slot) (fun u => (u.field f).st = .frozen
        ∧ (u.field f).since = s.now)
    ∧ Happens s (.bid f) (acts ∧ lost ∧ rankOf s f = none ∧ s.time.won = none ∧ f ∉ s.time.bids
        ∧ x.since + 16 * us ≤ s.now) (fun u => u.time.bids = s.time.bids ++ [f] ∧ u.field f = x)
    ∧ (∀ k, rankOf s f = some k → Happens s (.claim f) (acts ∧ lost ∧ s.link.mode.testBit 1 = false ∧ 1 ≤ k
        ∧ x.since + 4 * k * us ≤ s.now ∧ (x.st = .frozen ∨ s.time.won = none)) claimed)
    ∧ (rankOf s f = none → Happens s (.claim f) (acts ∧ lost ∧ s.link.mode.testBit 1 = false ∧ x.since + 18 * us ≤ s.now
        ∧ s.time.won = none ∧ s.time.claims = [] ∧ f ∈ s.time.bids ∧ ∀ b ∈ s.time.bids, f ≤ b) claimed)
    ∧ (v.toNat % 64 = f → Happens s (.rmForce v) (v.getLsbD 31 = true ∧ acts ∧ lost) claimed)
    ∧ (s.time.claims = [(slot, f)] → s.time.won = none →
        Happens s .claimRecord (slot + 12 ≤ s.time.slot ∧ claimReadable s slot = true) fun u =>
          u.time.won = some (f, s.time.slot) ∧ u.time.claims = []
          ∧ ∀ n y, mget s.time.fields n = some y → (u.field n).st = (if y.st = .frozen then .follow
              else if y.st = .claim ∧ n ≠ f then (if y.fromStall then .stall else .follow) else y.st))
    ∧ Happens s (.masterTakeover f) (acts ∧ x.st = .claim ∧ ∃ b, s.time.won = some (f, b) ∧ b + 16 ≤ s.time.slot) (fun u =>
        u.time.master = some f ∧ u.time.epoch = (s.time.epoch + 1) % 65536 ∧ u.time.fresh = true
        ∧ (u.field f).st = .master ∧ ∀ n y, n ≠ f → mget s.time.fields n = some y →
          (u.field n).st = if y.st = .master then .follow else y.st)
    ∧ Happens s (.newMasterBeacon f) (s.time.fresh = true ∧ s.time.master = some f ∧ acts) (fun u =>
        u.time.slot = s.time.slot + 64 ∧ u.time.shift = s.time.shift + 64 * Config.slotTime ∧ u.time.fresh = false
        ∧ u.time.won = none ∧ ∀ n y, mget s.time.fields n = some y →
            (u.field n).st = if y.st = .master then .master else .follow)
    ∧ Happens s (.driftCheck f skews) (acts ∧ (x.st = .frozen ∨ x.st = .follow) ∧ x.checked + 256 ≤ s.time.slot) (fun u =>
        (u.field f).checked = x.checked + 256 ∧ (u.field f).ofs = x.skew
        ∧ (u.field f).st = if ∃ d ∈ skews, s.time.drift < d.natAbs then .stall else x.st)
    ∧ Happens s (.stallNotice f) (acts ∧ (x.st = .frozen ∨ x.st = .follow) ∧ ∃ y ∈ s.time.fields, y.1 ≠ f ∧ y.2.st = .stall)
        (fun u => u.field f = { x with notice := true })

/-- R425 to R429, R434: over a port that is UP while a Ringmaster serves, a forward offset at the first lock with no
launch active is stepped, every other slewed; a field that loses the source it uses stops until it has switched to the
first live one, or to none, takes the tokens owed to it (DEDUCED, log 11), and has its homes apply in order the records that
they have buffered; a frame that fails its check is reported within
8 slots of it, and a replay writes what is not applied from its slot on again, in its order (DEDUCED, log 75). How PTP_OFS
and the servo act is log 52. -/
def Sys2Proof.Claims.ClockEvents : Prop :=
  ∀ (s : State) (f src k slot : Nat) (offset : Int) (bands : List Nat) (x : Field),
    let slews := s.time.ptpLocked = true ∨ s.launch.launches ≠ [] ∨ 0 ≤ offset
    let move : Frame → Frame := fun y =>
      if y.carousel = k ∧ slot ≤ y.slot then { y with slot := y.slot + (s.time.slot + 1 - slot) } else y
    s.field f = x →
    Happens s (.ptpSync offset) (s.time.ptpCtl / 2 ^ 31 % 2 = 1 ∧ serving s = true ∧ ∃ p ∈ s.link.ports, p.2.up = true)
        (fun u => u.time.ptpOfs = offset
        ∧ u.time.ptpLocked = true ∧ (slews → u.time.slot = s.time.slot ∧ u.time.shift = s.time.shift)
        ∧ (¬ slews → u.time.slot = s.time.slot + offset.natAbs / 4
            ∧ u.time.shift = s.time.shift + offset.natAbs * Config.nano
            ∧ ∀ n y, mget s.time.fields n = some y → (u.field n).mark = y.mark + offset.natAbs / 4))
    ∧ Happens s (.clockSourceLoss f src) (alive s f = true) (fun u =>
        (u.field f).running = (x.running && decide (x.source ≠ some src))
        ∧ src ∉ (u.field f).live ∧ (u.field f).source = x.source)
    ∧ Happens s (.clockSwitchComplete f bands) (alive s f = true ∧ x.running = false) (fun u => ∃ v y, v.field f = y
        ∧ u = notify (payBuffered v f) 6 f y.clkStat ∧ v.slices = s.slices ∧ v.tags = s.tags ∧ y.running = true ∧ y.source = firstSource f x.live ∧ y.noSrc = y.source.isNone ∧ y.swEvt = true
        ∧ y.switches = min (x.switches + 1) (2 ^ 16 - 1) ∧ y.bands = bandsOf f bands
        ∧ y.xlatGen = (if y.bands = x.bands then x.xlatGen else (x.xlatGen + 1) % 256)
        ∧ ∀ c z, fieldOfCluster c = f → mget s.columns c = some z →
            mget v.columns c = some { z with tok := min (z.tok + z.owed) z.cap, owed := 0 })
    ∧ ((∀ y ∈ s.slices, fieldOfCluster y.1 = f → y.2.buffered = []) → payBuffered s f = s)
    ∧ (∀ c z, s.slices = [(c, z)] → fieldOfCluster c = f → z.buffered ≠ [] →
        payBuffered s f = z.buffered.foldl homeApply { s with slices := [(c, { z with buffered := [] })] })
    ∧ Happens s (.clockSourceReturn f src) (alive s f = true ∧ (src = 0 ∨ hasEdge f (src - 1) = true)) (fun u =>
        src ∈ (u.field f).live ∧ (u.field f).running = (x.running && x.source.isSome))
    ∧ Happens s (.frameCrcFailure k slot) (slot ≤ s.time.slot ∧ s.time.slot ≤ slot + 8) (fun u => u.frames = s.frames
        ∧ mget u.time.replayAt k = some (match mget s.time.replayAt k with
          | some y => min y slot
          | none => slot))
    ∧ (mget s.time.replayAt k = some slot → Happens s (.carouselReplay k) (serving s = true ∧ ringsReady s k = true)
        fun u => mget u.time.replayAt k = none ∧ u.frames = s.frames.map move ∧ u.queues = s.queues
          ∧ mget u.time.replays k = some (min ((mget s.time.replays k).getD 0 + 1) (2 ^ 32 - 1)))

/-- R431 to R435, R437, R439: a ring moves through its states by the events of the table (commands in other states: DEDUCED,
log 47), and a receive ring of a carousel that loses its lock leaves its frames unread; a write to an enabled
crossbar lane sets XREJ; an uncorrectable codeword is replayed; a lane with a ring that is not locked, or with 4
uncorrectable codewords within 1 ms, leaves its port, a spare comes in, and a port with fewer lanes than MIN goes down, which
PORT_EVT tells. -/
def Sys2Proof.Claims.RingAndPortEvents : Prop :=
  ∀ (s : State) (r h p lane c : Nat) (found : Option Nat) (v a b d e : Word),
    let x := s.ring r
    let sel := s.link.ringSel
    let st : State → Nat → RingState := fun u n => (u.ring n).st
    Happens s (.ringSweepEnd r found) (x.st = .sweep) (fun u => st u r
        = if ∃ y, found = some y ∧ y ≠ 0 ∧ y < 65535 then .acq else .masked)
    ∧ Happens s (.ringLock r h) (x.st = .acq) (fun u => st u r = .lock ∧ (u.ring r).heater = h % 65536
        ∧ ((u.ring r).low = true ↔ h % 65536 ≤ 3276) ∧ ((u.ring r).high = true ↔ 62259 ≤ h % 65536))
    ∧ Happens s (.ringLockLoss r) (x.st = .lock) (fun u => st u r = (if s.link.mode.testBit 2 then .lost else .sweep)
        ∧ u.link.lossEvt = true ∧ u.link.ringLoss = min (s.link.ringLoss + 1) (2 ^ 16 - 1)
        ∧ (r / 2 ^ 26 % 4 = 1 → (mget u.time.replayAt (r / 2 ^ 23 % 8)).isSome = true))
    ∧ Happens s .ringRetune (st s sel = .off ∨ st s sel = .lost) (fun u => st u sel = .sweep ∧ u.link.ringSel = sel)
    ∧ Happens s .ringMask (st s sel = .lost) (fun u => st u sel = .masked ∧ sel ∈ u.link.masked)
    ∧ Happens s .ringUnmask (st s sel = .masked) (fun u => st u sel = .sweep ∧ u.link.masked = s.link.masked)
    ∧ (∃ u, exec (.xbar lane v) s = .next u ∧ (laneEnabled s lane = true → u.link = { s.link with xrej := true })
        ∧ (laneEnabled s lane = false → laneChannel u lane = v.toNat % 2048 ∧ u.link.xrej = s.link.xrej))
    ∧ Happens s (.codewordReplay p lane) (lane ∈ (s.port p).lanes) (fun u => u.port p = { s.port p with
        fecu := min ((s.port p).fecu + 1) (2 ^ 32 - 1), rply := min ((s.port p).rply + 1) (2 ^ 32 - 1)
        bad := ((s.port p).bad.filter fun y => decide (s.now ≤ y.2 + 8000000)) ++ [(lane, s.now)] })
    ∧ Happens s (.laneFailover p lane) (lane ∈ (s.port p).lanes ∧ ((∃ n ∈ laneRings p lane, st s n ≠ .lock)
        ∨ 4 ≤ ((s.port p).bad.filter fun y => decide (s.now ≤ y.2 + 8000000) && y.1 == lane).length)) (fun u => lane ∈ (u.port p).failed
        ∧ lane ∉ (u.port p).lanes ∧ (u.port p).ctl = (s.port p).ctl
        ∧ (p < 64 → (u.port p).evt.testBit 0 = true
          ∧ (u.port p).evt.testBit 1 = ((s.port p).evt.testBit 1 || ((s.port p).up && !(u.port p).up))
          ∧ (u.port p).evt.testBit 2 = ((s.port p).evt.testBit 2 || decide ((u.port p).lanes.length < (s.port p).lanes.length)))
        ∧ ((u.port p).up = true ↔ (s.port p).ctl.getLsbD 31 = true ∧ (s.port p).least ≤ (u.port p).lanes.length))
    ∧ (∃ u, exec (.laserAgeReport c a b d e) s = .next u
        ∧ mget u.link.laser c = some (a &&& 0xFFFF, b &&& 0xFFFF, d &&& 0xFFFF, e) ∧ u.threads = s.threads)

/-- Fields, clocks, rings and ports: the parts ElectionEvents, ClockEvents and RingAndPortEvents. -/
def Obligations.FieldAndLinkEvents : Prop :=
  Claims.ElectionEvents ∧ Claims.ClockEvents ∧ Claims.RingAndPortEvents

/-- R7, R92, R135, R411, R418, R427, R440, R447: a host's write to wafer scratchpad is performed at the bank while its link is
up and the bank's clock runs, after the earlier requests of the link, one at a time (log 79), and acknowledged; its reads of wafer scratchpad and of registers are answered with what
is there and change nothing else, and so are reads of the flash and of a halted thread's registers (layouts: log 82); a link
that is not up yet answers reads of BOOT_STAT and of the flash; a link that goes down carries nothing; a register write acts as the register's event, and one
below the device region does nothing. -/
def Sys2Proof.Claims.HostEvents : Prop :=
  ∀ (s : State) (link off n c core slot : Nat) (b : List Byte) (v : Word) (t : Thread),
    let up := link ∈ s.link.linkUp
    let dev : Nat → Instr := fun o => .registerWrite (0xFF0000000000 + o) v
    let free := hostBusy s link = false
    let reg : Nat → Nat := fun o => s.page.moduleId * 2 ^ 48 + 0xFF0000000000 + o
    let answer : Reply → Out := fun r => .next { s with link := { s.link with answers := s.link.answers ++ [r] } }
    let booting := link < 2 ∧ 1 ≤ s.boot.step ∧ (s.boot.step ≠ 6 ∨ s.boot.err ≠ 0)
    (free → off + b.length ≤ 2 ^ 32 → s.bwin = false → waferRuns s off b.length = true →
      Happens s (.hostWrite link .wafer off b) up fun u =>
        readBytes u.wmem off b.length = b ∧ u.vmem = s.vmem ∧ u.threads = s.threads
        ∧ u.link = { s.link with answers := s.link.answers ++ [⟨.host link, 256, off, b.length, true, none, []⟩] }
        ∧ ∀ a, a < off ∨ off + b.length ≤ a → memRead u.wmem a = memRead s.wmem a)
    ∧ (¬ free ∨ (off + b.length ≤ 2 ^ 32 ∧ s.bwin = false ∧ waferRuns s off b.length = false) → up →
        exec (.hostWrite link .wafer off b) s
        = .next { s with hostReqs := s.hostReqs ++ [⟨link, .wafer, true, off, b⟩] })
    ∧ (¬ up → exec (.hostRead link .wafer off n) s = .next s)
    ∧ (free → up → off + n ≤ 2 ^ 32 → waferRuns s off n = true → exec (.hostRead link .wafer off n) s
        = answer ⟨.host link, 256, off, n, false, none, readBytes s.wmem off n⟩)
    ∧ (free → up → c < 2 ^ 30 → exec (.hostRead link .device (reg (4 * c)) 4) s
        = answer ⟨.host link, 256, reg (4 * c), 4, false, none, natBytes 4 (devRead s (4 * c)).toNat⟩)
    ∧ (free → booting → exec (.hostRead link .device (reg 0x870000) 4) s
        = answer ⟨.host link, 256, reg 0x870000, 4, false, none, natBytes 4 (devRead s 0x870000).toNat⟩)
    ∧ (free → up ∨ booting → off + n ≤ 2 ^ 26 → exec (.hostRead link .flash off n) s
        = answer ⟨.host link, 256, off, n, false, none, flashBytes s off n⟩)
    ∧ (free → up → s.thread? (tkey core slot) = some t → t.run = .halted → off + n ≤ (regBytes t).length →
        exec (.hostRead link (.regs core slot) off n) s
          = answer ⟨.host link, 256, off, n, false, none, ((regBytes t).drop off).take n⟩)
    ∧ (free → ∃ u, exec (.hostRead link .vault off n) s = .next u ∧ u.wmem = s.wmem ∧ u.threads = s.threads)
    ∧ (∃ u, exec (.hostLinkDown link) s = .next u ∧ link ∉ u.link.linkUp
        ∧ (∀ a, a ≠ link → (a ∈ u.link.linkUp ↔ a ∈ s.link.linkUp)) ∧ exec (.hostWrite link .wafer off b) u = .next u)
    ∧ (off < 0xFF0000000000 → exec (.registerWrite off v) s = .next s)
    ∧ exec (dev 0x100000) s = .next { s with heatCoef := v.toNat % 256 }
    ∧ exec (dev 0x100004) s = exec (.vaultFloor v) s
    ∧ (c < 256 → exec (dev (0x1000 * c + 0x8C)) s = exec (.vaultRemapGo c v) s
        ∧ exec (dev (0x300000 + 0x1000 * c + 0x14)) s = exec (.dedupClr c v) s)
    ∧ exec (dev 0x200028) s = exec (.xinvGo v) s
    ∧ exec (dev 0x40001C) s = exec (.hdKey3 v) s
    ∧ (c < 8192 → exec (dev (0x600000 + 0x20 * c + 0x10)) s = exec (.thrClr c v) s)
    ∧ (c < 16 → exec (dev (0x510000 + 0x100 * c)) s = exec (.curlimStep c v) s)
    ∧ exec (dev 0x810008) s = exec (.rmForce v) s
    ∧ exec (dev 0x720010) s = .next { s with launch := { s.launch with wdog := v.toNat } }

/-- R418, R445, R447 to R450: boot runs its steps once, up to one that fails, the check of the first-stage code among them, and
leaves the module there; power loss leaves only the flash, its count of boots and the cores to be harvested (memory and
registers as the model's choices of logs 4 and 5 have them); GO starts the loader, and one while it works changes nothing
(DESIGN CHOICE, log 43); a segment that passes its checks is measured and its pages are written, a code segment's pages are
marked, and the loader ends with DONE after the last segment, or with a reason: that a container outside this module's vault
region has reason 7 is the model's choice (DESIGN CHOICE, log 91), and so is that the root key is an operand of the boot
report and that a signature covers the first 84 bytes of the descriptor (DESIGN CHOICE, log 19); UNMARK takes the marks of its range; a
quote is written at its address; a lifetime record is due after LIFE_PERIOD hours or at a shutdown, and takes its place in the flash. -/
def Sys2Proof.Claims.BootEvents : Prop :=
  ∀ (s : State) (r : BootReport) (v : Word) (w b : Bool),
    let size := 2 ^ 14
    let lo := s.boot.loadAddr % 2 ^ 48 / size
    let code := ∃ g, segment? r.codeDesc (2 ^ 64) = some g ∧ g.kind = 0 ∧ g.signer = 0 ∧ g.size = r.code.length
      ∧ r.code.length ≤ 2 ^ 18 ∧ sha3 r.code = g.hash ∧ sha3 r.rootKey = r.rootHash
      ∧ (∃ b ∈ r.codeSig, b ≠ 0) ∧ Config.mlDsaVerify r.rootKey (g.raw.take 84) r.codeSig = true
    let reported := 1 ≤ r.failStep ∧ r.failStep ≤ 5
    let fails : Nat → Prop := fun n => (reported → n = r.failStep) ∧ (¬ reported → ¬ code → n = 5)
      ∧ (¬ reported → code → n = if r.failStep = 6 then 6 else 0)
    Happens s (.powerGood r) (s.boot.step = 0) (fun u => fails u.boot.err
        ∧ u.boot.step = (if u.boot.err = 0 then 6 else u.boot.err) ∧ u.threads = s.threads ∧ u.vmem = s.vmem
        ∧ (u.boot.err = 0 → u.boot.rootKey = r.rootKey ∧ u.page.moduleId = r.moduleId % 1024 ∧ u.link.linkUp = [0, 1]
          ∧ u.launch.cores = (List.range Config.coreCount).filter (bootCoreOk r s.life.worn)))
    ∧ (∃ u, exec .powerLoss s = .next u ∧ u.life.flash = s.life.flash ∧ u.life.bootCount = s.life.bootCount
        ∧ u.life.worn = s.life.worn ∧ u.vmem = [] ∧ u.wmem = [] ∧ u.threads = []
        ∧ u.wgs = [] ∧ u.cores = [] ∧ u.boot = State.reset.boot ∧ u.link = State.reset.link ∧ u.time = State.reset.time)
    ∧ Happens s (.loaderGo v) (s.boot.loadBusy = none) (fun u => u.boot.loadBusy.isSome = true
        ∧ u.boot.loadStat = 2 ^ 31 ∧ u.boot.frames = s.boot.frames ∧ u.boot.meas = s.boot.meas)
    ∧ (s.boot.loadBusy = none → exec .loaderComplete s = .next s)
    ∧ (∀ j, s.boot.loadBusy = some j → j.pages = none → j.descs = none →
        (j.addr / 2 ^ 48 ≠ s.page.moduleId ∨ 2 ^ 43 ≤ j.addr % 2 ^ 48) →
        ∃ u, exec .loaderComplete s = .next u ∧ u.boot.loadBusy = none ∧ u.boot.loadStat = 0x207FF
          ∧ u.boot.meas = s.boot.meas ∧ u.boot.frames = s.boot.frames ∧ u.boot.loadAddr = s.boot.loadAddr)
    ∧ (∀ j, s.boot.loadBusy = some j → j.pages = none → j.descs = some [] → ∃ u, exec .loaderComplete s = .next u
        ∧ u.boot = { s.boot with loadBusy := none, loadStat := 0x10000 } ∧ u.vmem = s.vmem)
    ∧ (∀ j, s.boot.loadBusy = some j → j.pages = some [] → ∃ u y, exec .loaderComplete s = .next u
        ∧ u.boot.loadBusy = some y ∧ y.seg = j.seg + 1 ∧ y.pages = none ∧ y.descs = j.descs.map (·.drop 128)
        ∧ ∀ f, f ∈ u.boot.frames ↔ f ∈ s.boot.frames ∨ f ∈ j.marks)
    ∧ (∀ (j : LoadJob) (g : Segment) (d x sig : List Byte) (l : List Nat) (s1 s2 s3 : State), s.boot.loadBusy = some j →
        j.pages = none → j.descs = some d → d ≠ [] → segment? (d.take 128) j.total = some g → g.kind ≠ 2 →
        containerBytes s j g.off g.size = (some (.ok x), s1) → sha3 x = g.hash →
        containerBytes s1 j g.sigOff 3309 = (some (.ok sig), s2) → signedBy s2.boot.rootKey j.keys g sig = true →
        loadFrames s2 j g.va ((g.size + 16383) / 16384) = (some (.ok l), s3) → ∃ u y, exec .loaderComplete s = .next u
          ∧ u.boot.loadBusy = some y ∧ y.pages = some (pagesOf x l) ∧ y.marks = (if g.kind = 0 then l else [])
          ∧ u.boot.meas = sha3 (natBytes 48 s3.boot.meas.toNat ++ natBytes 48 g.hash.toNat) ∧ u.boot.frames = s3.boot.frames)
    ∧ Happens s (.loadUnmark v) (s.boot.loadAddr / 2 ^ 48 = s.page.moduleId) (fun u => ∀ f, f ∈ u.boot.frames ↔
        f ∈ s.boot.frames ∧ ¬ (lo ≤ f ∧ f < lo + v.toNat % 2 ^ 24))
    ∧ (∃ u, exec .quoteGo s = .next u ∧ u.boot = { s.boot with quoteBusy := true } ∧ u.wmem = s.wmem)
    ∧ Happens s .quoteComplete (s.boot.quoteBusy = true) (fun u => u.boot.quoteBusy = false
        ∧ readBytes u.wmem s.boot.quoteAddr 152 = natBytes 48 s.boot.meas.toNat ++ natBytes 48 s.boot.nonce.toNat
          ++ natBytes 48 s.launch.goodHash.toNat ++ natBytes 4 s.page.moduleId ++ natBytes 4 s.life.bootCount)
    ∧ Happens s (.lifetimeRecord b) (s.life.busy = false ∧ (b = true ∨ s.life.last + max 1 s.life.period * hourNs ≤ s.timeNs))
        (fun u => u.life = { s.life with busy := true, last := s.timeNs })
    ∧ Happens s (.lifetimeRecordComplete w) (s.life.busy = true) (fun u => u.life.busy = false
        ∧ (w = false → u.life.werr = true ∧ u.life.flash = s.life.flash)
        ∧ (w = true → u.life.seq = (s.life.seq + 1) % 65536 ∧ u.life.flash.length = min 64 (s.life.flash.length + 1)
          ∧ ∃ m, u.life.flash.getLast? = some m ∧ m.seq = (s.life.seq + 1) % 65536 ∧ m.boots = s.life.bootCount
            ∧ m.hash = s.launch.goodHash ∧ m.hours = s.life.hours + s.now / (hourNs * Config.nano)))

/-- Host requests, boot, loader, quotes and lifetime records: the parts HostEvents and BootEvents. -/
def Obligations.HostAndBootEvents : Prop :=
  Claims.HostEvents ∧ Claims.BootEvents
end

