-- ==== Sys2Proof/Laws/State.lean ====
section
/-! SUPPORT. What each named update of the state leaves alone: one lemma for each field and update, true by
unfolding; and the fields of a thread after a register write. -/

namespace Sys2Proof.Machine

/-! setCore. -/

@[simp] theorem State.setCore_now (s : State) (c : Nat) (x : Core) : (s.setCore c x).now = s.now := rfl
@[simp] theorem State.setCore_agenda (s : State) (c : Nat) (x : Core) : (s.setCore c x).agenda = s.agenda := rfl
@[simp] theorem State.setCore_cur (s : State) (c : Nat) (x : Core) : (s.setCore c x).cur = s.cur := rfl
@[simp] theorem State.setCore_gather (s : State) (c : Nat) (x : Core) : (s.setCore c x).gather = s.gather := rfl
@[simp] theorem State.setCore_late (s : State) (c : Nat) (x : Core) : (s.setCore c x).late = s.late := rfl
@[simp] theorem State.setCore_free (s : State) (c : Nat) (x : Core) : (s.setCore c x).free = s.free := rfl
@[simp] theorem State.setCore_nextNum (s : State) (c : Nat) (x : Core) : (s.setCore c x).nextNum = s.nextNum := rfl
@[simp] theorem State.setCore_threads (s : State) (c : Nat) (x : Core) : (s.setCore c x).threads = s.threads := rfl
@[simp] theorem State.setCore_wgs (s : State) (c : Nat) (x : Core) : (s.setCore c x).wgs = s.wgs := rfl
@[simp] theorem State.setCore_vmem (s : State) (c : Nat) (x : Core) : (s.setCore c x).vmem = s.vmem := rfl
@[simp] theorem State.setCore_wmem (s : State) (c : Nat) (x : Core) : (s.setCore c x).wmem = s.wmem := rfl
@[simp] theorem State.setCore_accs (s : State) (c : Nat) (x : Core) : (s.setCore c x).accs = s.accs := rfl
@[simp] theorem State.setCore_replies (s : State) (c : Nat) (x : Core) : (s.setCore c x).replies = s.replies := rfl
@[simp] theorem State.setCore_outbox (s : State) (c : Nat) (x : Core) : (s.setCore c x).outbox = s.outbox := rfl
@[simp] theorem State.setCore_hostReqs (s : State) (c : Nat) (x : Core) : (s.setCore c x).hostReqs = s.hostReqs := rfl
@[simp] theorem State.setCore_tags (s : State) (c : Nat) (x : Core) : (s.setCore c x).tags = s.tags := rfl
@[simp] theorem State.setCore_gens (s : State) (c : Nat) (x : Core) : (s.setCore c x).gens = s.gens := rfl
@[simp] theorem State.setCore_entries (s : State) (c : Nat) (x : Core) : (s.setCore c x).entries = s.entries := rfl
@[simp] theorem State.setCore_slices (s : State) (c : Nat) (x : Core) : (s.setCore c x).slices = s.slices := rfl
@[simp] theorem State.setCore_queues (s : State) (c : Nat) (x : Core) : (s.setCore c x).queues = s.queues := rfl
@[simp] theorem State.setCore_frames (s : State) (c : Nat) (x : Core) : (s.setCore c x).frames = s.frames := rfl
@[simp] theorem State.setCore_mesh (s : State) (c : Nat) (x : Core) : (s.setCore c x).mesh = s.mesh := rfl
@[simp] theorem State.setCore_services (s : State) (c : Nat) (x : Core) : (s.setCore c x).services = s.services := rfl
@[simp] theorem State.setCore_bwin (s : State) (c : Nat) (x : Core) : (s.setCore c x).bwin = s.bwin := rfl
@[simp] theorem State.setCore_hdSvw (s : State) (c : Nat) (x : Core) : (s.setCore c x).hdSvw = s.hdSvw := rfl
@[simp] theorem State.setCore_hdSel (s : State) (c : Nat) (x : Core) : (s.setCore c x).hdSel = s.hdSel := rfl
@[simp] theorem State.setCore_hdLatch (s : State) (c : Nat) (x : Core) : (s.setCore c x).hdLatch = s.hdLatch := rfl
@[simp] theorem State.setCore_hdKeys (s : State) (c : Nat) (x : Core) : (s.setCore c x).hdKeys = s.hdKeys := rfl
@[simp] theorem State.setCore_hdBoot (s : State) (c : Nat) (x : Core) : (s.setCore c x).hdBoot = s.hdBoot := rfl
@[simp] theorem State.setCore_vaults (s : State) (c : Nat) (x : Core) : (s.setCore c x).vaults = s.vaults := rfl
@[simp] theorem State.setCore_heatCoef (s : State) (c : Nat) (x : Core) : (s.setCore c x).heatCoef = s.heatCoef := rfl
@[simp] theorem State.setCore_vaultFloor (s : State) (c : Nat) (x : Core) : (s.setCore c x).vaultFloor = s.vaultFloor := rfl
@[simp] theorem State.setCore_heatCost (s : State) (c : Nat) (x : Core) : (s.setCore c x).heatCost = s.heatCost := rfl
@[simp] theorem State.setCore_columns (s : State) (c : Nat) (x : Core) : (s.setCore c x).columns = s.columns := rfl
@[simp] theorem State.setCore_refills (s : State) (c : Nat) (x : Core) : (s.setCore c x).refills = s.refills := rfl
@[simp] theorem State.setCore_steps (s : State) (c : Nat) (x : Core) : (s.setCore c x).steps = s.steps := rfl
@[simp] theorem State.setCore_regions (s : State) (c : Nat) (x : Core) : (s.setCore c x).regions = s.regions := rfl
@[simp] theorem State.setCore_chunks (s : State) (c : Nat) (x : Core) : (s.setCore c x).chunks = s.chunks := rfl
@[simp] theorem State.setCore_rxSeq (s : State) (c : Nat) (x : Core) : (s.setCore c x).rxSeq = s.rxSeq := rfl
@[simp] theorem State.setCore_rxEarly (s : State) (c : Nat) (x : Core) : (s.setCore c x).rxEarly = s.rxEarly := rfl
@[simp] theorem State.setCore_page (s : State) (c : Nat) (x : Core) : (s.setCore c x).page = s.page := rfl
@[simp] theorem State.setCore_launch (s : State) (c : Nat) (x : Core) : (s.setCore c x).launch = s.launch := rfl
@[simp] theorem State.setCore_life (s : State) (c : Nat) (x : Core) : (s.setCore c x).life = s.life := rfl
@[simp] theorem State.setCore_boot (s : State) (c : Nat) (x : Core) : (s.setCore c x).boot = s.boot := rfl
@[simp] theorem State.setCore_time (s : State) (c : Nat) (x : Core) : (s.setCore c x).time = s.time := rfl
@[simp] theorem State.setCore_link (s : State) (c : Nat) (x : Core) : (s.setCore c x).link = s.link := rfl

/-! modCore. -/

@[simp] theorem State.modCore_now (s : State) (c : Nat) (f : Core → Core) : (s.modCore c f).now = s.now := rfl
@[simp] theorem State.modCore_agenda (s : State) (c : Nat) (f : Core → Core) : (s.modCore c f).agenda = s.agenda := rfl
@[simp] theorem State.modCore_cur (s : State) (c : Nat) (f : Core → Core) : (s.modCore c f).cur = s.cur := rfl
@[simp] theorem State.modCore_gather (s : State) (c : Nat) (f : Core → Core) : (s.modCore c f).gather = s.gather := rfl
@[simp] theorem State.modCore_late (s : State) (c : Nat) (f : Core → Core) : (s.modCore c f).late = s.late := rfl
@[simp] theorem State.modCore_free (s : State) (c : Nat) (f : Core → Core) : (s.modCore c f).free = s.free := rfl
@[simp] theorem State.modCore_nextNum (s : State) (c : Nat) (f : Core → Core) : (s.modCore c f).nextNum = s.nextNum := rfl
@[simp] theorem State.modCore_threads (s : State) (c : Nat) (f : Core → Core) : (s.modCore c f).threads = s.threads := rfl
@[simp] theorem State.modCore_wgs (s : State) (c : Nat) (f : Core → Core) : (s.modCore c f).wgs = s.wgs := rfl
@[simp] theorem State.modCore_vmem (s : State) (c : Nat) (f : Core → Core) : (s.modCore c f).vmem = s.vmem := rfl
@[simp] theorem State.modCore_wmem (s : State) (c : Nat) (f : Core → Core) : (s.modCore c f).wmem = s.wmem := rfl
@[simp] theorem State.modCore_accs (s : State) (c : Nat) (f : Core → Core) : (s.modCore c f).accs = s.accs := rfl
@[simp] theorem State.modCore_replies (s : State) (c : Nat) (f : Core → Core) : (s.modCore c f).replies = s.replies := rfl
@[simp] theorem State.modCore_outbox (s : State) (c : Nat) (f : Core → Core) : (s.modCore c f).outbox = s.outbox := rfl
@[simp] theorem State.modCore_hostReqs (s : State) (c : Nat) (f : Core → Core) : (s.modCore c f).hostReqs = s.hostReqs := rfl
@[simp] theorem State.modCore_tags (s : State) (c : Nat) (f : Core → Core) : (s.modCore c f).tags = s.tags := rfl
@[simp] theorem State.modCore_gens (s : State) (c : Nat) (f : Core → Core) : (s.modCore c f).gens = s.gens := rfl
@[simp] theorem State.modCore_entries (s : State) (c : Nat) (f : Core → Core) : (s.modCore c f).entries = s.entries := rfl
@[simp] theorem State.modCore_slices (s : State) (c : Nat) (f : Core → Core) : (s.modCore c f).slices = s.slices := rfl
@[simp] theorem State.modCore_queues (s : State) (c : Nat) (f : Core → Core) : (s.modCore c f).queues = s.queues := rfl
@[simp] theorem State.modCore_frames (s : State) (c : Nat) (f : Core → Core) : (s.modCore c f).frames = s.frames := rfl
@[simp] theorem State.modCore_mesh (s : State) (c : Nat) (f : Core → Core) : (s.modCore c f).mesh = s.mesh := rfl
@[simp] theorem State.modCore_services (s : State) (c : Nat) (f : Core → Core) : (s.modCore c f).services = s.services := rfl
@[simp] theorem State.modCore_bwin (s : State) (c : Nat) (f : Core → Core) : (s.modCore c f).bwin = s.bwin := rfl
@[simp] theorem State.modCore_hdSvw (s : State) (c : Nat) (f : Core → Core) : (s.modCore c f).hdSvw = s.hdSvw := rfl
@[simp] theorem State.modCore_hdSel (s : State) (c : Nat) (f : Core → Core) : (s.modCore c f).hdSel = s.hdSel := rfl
@[simp] theorem State.modCore_hdLatch (s : State) (c : Nat) (f : Core → Core) : (s.modCore c f).hdLatch = s.hdLatch := rfl
@[simp] theorem State.modCore_hdKeys (s : State) (c : Nat) (f : Core → Core) : (s.modCore c f).hdKeys = s.hdKeys := rfl
@[simp] theorem State.modCore_hdBoot (s : State) (c : Nat) (f : Core → Core) : (s.modCore c f).hdBoot = s.hdBoot := rfl
@[simp] theorem State.modCore_vaults (s : State) (c : Nat) (f : Core → Core) : (s.modCore c f).vaults = s.vaults := rfl
@[simp] theorem State.modCore_heatCoef (s : State) (c : Nat) (f : Core → Core) : (s.modCore c f).heatCoef = s.heatCoef := rfl
@[simp] theorem State.modCore_vaultFloor (s : State) (c : Nat) (f : Core → Core) : (s.modCore c f).vaultFloor = s.vaultFloor := rfl
@[simp] theorem State.modCore_heatCost (s : State) (c : Nat) (f : Core → Core) : (s.modCore c f).heatCost = s.heatCost := rfl
@[simp] theorem State.modCore_columns (s : State) (c : Nat) (f : Core → Core) : (s.modCore c f).columns = s.columns := rfl
@[simp] theorem State.modCore_refills (s : State) (c : Nat) (f : Core → Core) : (s.modCore c f).refills = s.refills := rfl
@[simp] theorem State.modCore_steps (s : State) (c : Nat) (f : Core → Core) : (s.modCore c f).steps = s.steps := rfl
@[simp] theorem State.modCore_regions (s : State) (c : Nat) (f : Core → Core) : (s.modCore c f).regions = s.regions := rfl
@[simp] theorem State.modCore_chunks (s : State) (c : Nat) (f : Core → Core) : (s.modCore c f).chunks = s.chunks := rfl
@[simp] theorem State.modCore_rxSeq (s : State) (c : Nat) (f : Core → Core) : (s.modCore c f).rxSeq = s.rxSeq := rfl
@[simp] theorem State.modCore_rxEarly (s : State) (c : Nat) (f : Core → Core) : (s.modCore c f).rxEarly = s.rxEarly := rfl
@[simp] theorem State.modCore_page (s : State) (c : Nat) (f : Core → Core) : (s.modCore c f).page = s.page := rfl
@[simp] theorem State.modCore_launch (s : State) (c : Nat) (f : Core → Core) : (s.modCore c f).launch = s.launch := rfl
@[simp] theorem State.modCore_life (s : State) (c : Nat) (f : Core → Core) : (s.modCore c f).life = s.life := rfl
@[simp] theorem State.modCore_boot (s : State) (c : Nat) (f : Core → Core) : (s.modCore c f).boot = s.boot := rfl
@[simp] theorem State.modCore_time (s : State) (c : Nat) (f : Core → Core) : (s.modCore c f).time = s.time := rfl
@[simp] theorem State.modCore_link (s : State) (c : Nat) (f : Core → Core) : (s.modCore c f).link = s.link := rfl

/-! setThread. -/

@[simp] theorem State.setThread_now (s : State) (k : Nat) (t : Thread) : (s.setThread k t).now = s.now := rfl
@[simp] theorem State.setThread_agenda (s : State) (k : Nat) (t : Thread) : (s.setThread k t).agenda = s.agenda := rfl
@[simp] theorem State.setThread_cur (s : State) (k : Nat) (t : Thread) : (s.setThread k t).cur = s.cur := rfl
@[simp] theorem State.setThread_gather (s : State) (k : Nat) (t : Thread) : (s.setThread k t).gather = s.gather := rfl
@[simp] theorem State.setThread_late (s : State) (k : Nat) (t : Thread) : (s.setThread k t).late = s.late := rfl
@[simp] theorem State.setThread_free (s : State) (k : Nat) (t : Thread) : (s.setThread k t).free = s.free := rfl
@[simp] theorem State.setThread_nextNum (s : State) (k : Nat) (t : Thread) : (s.setThread k t).nextNum = s.nextNum := rfl
@[simp] theorem State.setThread_wgs (s : State) (k : Nat) (t : Thread) : (s.setThread k t).wgs = s.wgs := rfl
@[simp] theorem State.setThread_cores (s : State) (k : Nat) (t : Thread) : (s.setThread k t).cores = s.cores := rfl
@[simp] theorem State.setThread_vmem (s : State) (k : Nat) (t : Thread) : (s.setThread k t).vmem = s.vmem := rfl
@[simp] theorem State.setThread_wmem (s : State) (k : Nat) (t : Thread) : (s.setThread k t).wmem = s.wmem := rfl
@[simp] theorem State.setThread_accs (s : State) (k : Nat) (t : Thread) : (s.setThread k t).accs = s.accs := rfl
@[simp] theorem State.setThread_replies (s : State) (k : Nat) (t : Thread) : (s.setThread k t).replies = s.replies := rfl
@[simp] theorem State.setThread_outbox (s : State) (k : Nat) (t : Thread) : (s.setThread k t).outbox = s.outbox := rfl
@[simp] theorem State.setThread_hostReqs (s : State) (k : Nat) (t : Thread) : (s.setThread k t).hostReqs = s.hostReqs := rfl
@[simp] theorem State.setThread_tags (s : State) (k : Nat) (t : Thread) : (s.setThread k t).tags = s.tags := rfl
@[simp] theorem State.setThread_gens (s : State) (k : Nat) (t : Thread) : (s.setThread k t).gens = s.gens := rfl
@[simp] theorem State.setThread_entries (s : State) (k : Nat) (t : Thread) : (s.setThread k t).entries = s.entries := rfl
@[simp] theorem State.setThread_slices (s : State) (k : Nat) (t : Thread) : (s.setThread k t).slices = s.slices := rfl
@[simp] theorem State.setThread_queues (s : State) (k : Nat) (t : Thread) : (s.setThread k t).queues = s.queues := rfl
@[simp] theorem State.setThread_frames (s : State) (k : Nat) (t : Thread) : (s.setThread k t).frames = s.frames := rfl
@[simp] theorem State.setThread_mesh (s : State) (k : Nat) (t : Thread) : (s.setThread k t).mesh = s.mesh := rfl
@[simp] theorem State.setThread_services (s : State) (k : Nat) (t : Thread) : (s.setThread k t).services = s.services := rfl
@[simp] theorem State.setThread_bwin (s : State) (k : Nat) (t : Thread) : (s.setThread k t).bwin = s.bwin := rfl
@[simp] theorem State.setThread_hdSvw (s : State) (k : Nat) (t : Thread) : (s.setThread k t).hdSvw = s.hdSvw := rfl
@[simp] theorem State.setThread_hdSel (s : State) (k : Nat) (t : Thread) : (s.setThread k t).hdSel = s.hdSel := rfl
@[simp] theorem State.setThread_hdLatch (s : State) (k : Nat) (t : Thread) : (s.setThread k t).hdLatch = s.hdLatch := rfl
@[simp] theorem State.setThread_hdKeys (s : State) (k : Nat) (t : Thread) : (s.setThread k t).hdKeys = s.hdKeys := rfl
@[simp] theorem State.setThread_hdBoot (s : State) (k : Nat) (t : Thread) : (s.setThread k t).hdBoot = s.hdBoot := rfl
@[simp] theorem State.setThread_vaults (s : State) (k : Nat) (t : Thread) : (s.setThread k t).vaults = s.vaults := rfl
@[simp] theorem State.setThread_heatCoef (s : State) (k : Nat) (t : Thread) : (s.setThread k t).heatCoef = s.heatCoef := rfl
@[simp] theorem State.setThread_vaultFloor (s : State) (k : Nat) (t : Thread) : (s.setThread k t).vaultFloor = s.vaultFloor := rfl
@[simp] theorem State.setThread_heatCost (s : State) (k : Nat) (t : Thread) : (s.setThread k t).heatCost = s.heatCost := rfl
@[simp] theorem State.setThread_columns (s : State) (k : Nat) (t : Thread) : (s.setThread k t).columns = s.columns := rfl
@[simp] theorem State.setThread_refills (s : State) (k : Nat) (t : Thread) : (s.setThread k t).refills = s.refills := rfl
@[simp] theorem State.setThread_steps (s : State) (k : Nat) (t : Thread) : (s.setThread k t).steps = s.steps := rfl
@[simp] theorem State.setThread_regions (s : State) (k : Nat) (t : Thread) : (s.setThread k t).regions = s.regions := rfl
@[simp] theorem State.setThread_chunks (s : State) (k : Nat) (t : Thread) : (s.setThread k t).chunks = s.chunks := rfl
@[simp] theorem State.setThread_rxSeq (s : State) (k : Nat) (t : Thread) : (s.setThread k t).rxSeq = s.rxSeq := rfl
@[simp] theorem State.setThread_rxEarly (s : State) (k : Nat) (t : Thread) : (s.setThread k t).rxEarly = s.rxEarly := rfl
@[simp] theorem State.setThread_page (s : State) (k : Nat) (t : Thread) : (s.setThread k t).page = s.page := rfl
@[simp] theorem State.setThread_launch (s : State) (k : Nat) (t : Thread) : (s.setThread k t).launch = s.launch := rfl
@[simp] theorem State.setThread_life (s : State) (k : Nat) (t : Thread) : (s.setThread k t).life = s.life := rfl
@[simp] theorem State.setThread_boot (s : State) (k : Nat) (t : Thread) : (s.setThread k t).boot = s.boot := rfl
@[simp] theorem State.setThread_time (s : State) (k : Nat) (t : Thread) : (s.setThread k t).time = s.time := rfl
@[simp] theorem State.setThread_link (s : State) (k : Nat) (t : Thread) : (s.setThread k t).link = s.link := rfl

/-! setWg. -/

@[simp] theorem State.setWg_now (s : State) (g : Nat) (w : Workgroup) : (s.setWg g w).now = s.now := rfl
@[simp] theorem State.setWg_agenda (s : State) (g : Nat) (w : Workgroup) : (s.setWg g w).agenda = s.agenda := rfl
@[simp] theorem State.setWg_cur (s : State) (g : Nat) (w : Workgroup) : (s.setWg g w).cur = s.cur := rfl
@[simp] theorem State.setWg_gather (s : State) (g : Nat) (w : Workgroup) : (s.setWg g w).gather = s.gather := rfl
@[simp] theorem State.setWg_late (s : State) (g : Nat) (w : Workgroup) : (s.setWg g w).late = s.late := rfl
@[simp] theorem State.setWg_free (s : State) (g : Nat) (w : Workgroup) : (s.setWg g w).free = s.free := rfl
@[simp] theorem State.setWg_nextNum (s : State) (g : Nat) (w : Workgroup) : (s.setWg g w).nextNum = s.nextNum := rfl
@[simp] theorem State.setWg_threads (s : State) (g : Nat) (w : Workgroup) : (s.setWg g w).threads = s.threads := rfl
@[simp] theorem State.setWg_cores (s : State) (g : Nat) (w : Workgroup) : (s.setWg g w).cores = s.cores := rfl
@[simp] theorem State.setWg_vmem (s : State) (g : Nat) (w : Workgroup) : (s.setWg g w).vmem = s.vmem := rfl
@[simp] theorem State.setWg_wmem (s : State) (g : Nat) (w : Workgroup) : (s.setWg g w).wmem = s.wmem := rfl
@[simp] theorem State.setWg_accs (s : State) (g : Nat) (w : Workgroup) : (s.setWg g w).accs = s.accs := rfl
@[simp] theorem State.setWg_replies (s : State) (g : Nat) (w : Workgroup) : (s.setWg g w).replies = s.replies := rfl
@[simp] theorem State.setWg_outbox (s : State) (g : Nat) (w : Workgroup) : (s.setWg g w).outbox = s.outbox := rfl
@[simp] theorem State.setWg_hostReqs (s : State) (g : Nat) (w : Workgroup) : (s.setWg g w).hostReqs = s.hostReqs := rfl
@[simp] theorem State.setWg_tags (s : State) (g : Nat) (w : Workgroup) : (s.setWg g w).tags = s.tags := rfl
@[simp] theorem State.setWg_gens (s : State) (g : Nat) (w : Workgroup) : (s.setWg g w).gens = s.gens := rfl
@[simp] theorem State.setWg_entries (s : State) (g : Nat) (w : Workgroup) : (s.setWg g w).entries = s.entries := rfl
@[simp] theorem State.setWg_slices (s : State) (g : Nat) (w : Workgroup) : (s.setWg g w).slices = s.slices := rfl
@[simp] theorem State.setWg_queues (s : State) (g : Nat) (w : Workgroup) : (s.setWg g w).queues = s.queues := rfl
@[simp] theorem State.setWg_frames (s : State) (g : Nat) (w : Workgroup) : (s.setWg g w).frames = s.frames := rfl
@[simp] theorem State.setWg_mesh (s : State) (g : Nat) (w : Workgroup) : (s.setWg g w).mesh = s.mesh := rfl
@[simp] theorem State.setWg_services (s : State) (g : Nat) (w : Workgroup) : (s.setWg g w).services = s.services := rfl
@[simp] theorem State.setWg_bwin (s : State) (g : Nat) (w : Workgroup) : (s.setWg g w).bwin = s.bwin := rfl
@[simp] theorem State.setWg_hdSvw (s : State) (g : Nat) (w : Workgroup) : (s.setWg g w).hdSvw = s.hdSvw := rfl
@[simp] theorem State.setWg_hdSel (s : State) (g : Nat) (w : Workgroup) : (s.setWg g w).hdSel = s.hdSel := rfl
@[simp] theorem State.setWg_hdLatch (s : State) (g : Nat) (w : Workgroup) : (s.setWg g w).hdLatch = s.hdLatch := rfl
@[simp] theorem State.setWg_hdKeys (s : State) (g : Nat) (w : Workgroup) : (s.setWg g w).hdKeys = s.hdKeys := rfl
@[simp] theorem State.setWg_hdBoot (s : State) (g : Nat) (w : Workgroup) : (s.setWg g w).hdBoot = s.hdBoot := rfl
@[simp] theorem State.setWg_vaults (s : State) (g : Nat) (w : Workgroup) : (s.setWg g w).vaults = s.vaults := rfl
@[simp] theorem State.setWg_heatCoef (s : State) (g : Nat) (w : Workgroup) : (s.setWg g w).heatCoef = s.heatCoef := rfl
@[simp] theorem State.setWg_vaultFloor (s : State) (g : Nat) (w : Workgroup) : (s.setWg g w).vaultFloor = s.vaultFloor := rfl
@[simp] theorem State.setWg_heatCost (s : State) (g : Nat) (w : Workgroup) : (s.setWg g w).heatCost = s.heatCost := rfl
@[simp] theorem State.setWg_columns (s : State) (g : Nat) (w : Workgroup) : (s.setWg g w).columns = s.columns := rfl
@[simp] theorem State.setWg_refills (s : State) (g : Nat) (w : Workgroup) : (s.setWg g w).refills = s.refills := rfl
@[simp] theorem State.setWg_steps (s : State) (g : Nat) (w : Workgroup) : (s.setWg g w).steps = s.steps := rfl
@[simp] theorem State.setWg_regions (s : State) (g : Nat) (w : Workgroup) : (s.setWg g w).regions = s.regions := rfl
@[simp] theorem State.setWg_chunks (s : State) (g : Nat) (w : Workgroup) : (s.setWg g w).chunks = s.chunks := rfl
@[simp] theorem State.setWg_rxSeq (s : State) (g : Nat) (w : Workgroup) : (s.setWg g w).rxSeq = s.rxSeq := rfl
@[simp] theorem State.setWg_rxEarly (s : State) (g : Nat) (w : Workgroup) : (s.setWg g w).rxEarly = s.rxEarly := rfl
@[simp] theorem State.setWg_page (s : State) (g : Nat) (w : Workgroup) : (s.setWg g w).page = s.page := rfl
@[simp] theorem State.setWg_launch (s : State) (g : Nat) (w : Workgroup) : (s.setWg g w).launch = s.launch := rfl
@[simp] theorem State.setWg_life (s : State) (g : Nat) (w : Workgroup) : (s.setWg g w).life = s.life := rfl
@[simp] theorem State.setWg_boot (s : State) (g : Nat) (w : Workgroup) : (s.setWg g w).boot = s.boot := rfl
@[simp] theorem State.setWg_time (s : State) (g : Nat) (w : Workgroup) : (s.setWg g w).time = s.time := rfl
@[simp] theorem State.setWg_link (s : State) (g : Nat) (w : Workgroup) : (s.setWg g w).link = s.link := rfl

/-! modVault. -/

@[simp] theorem State.modVault_now (s : State) (v : Nat) (f : Vault → Vault) : (s.modVault v f).now = s.now := rfl
@[simp] theorem State.modVault_agenda (s : State) (v : Nat) (f : Vault → Vault) : (s.modVault v f).agenda = s.agenda := rfl
@[simp] theorem State.modVault_cur (s : State) (v : Nat) (f : Vault → Vault) : (s.modVault v f).cur = s.cur := rfl
@[simp] theorem State.modVault_gather (s : State) (v : Nat) (f : Vault → Vault) : (s.modVault v f).gather = s.gather := rfl
@[simp] theorem State.modVault_late (s : State) (v : Nat) (f : Vault → Vault) : (s.modVault v f).late = s.late := rfl
@[simp] theorem State.modVault_free (s : State) (v : Nat) (f : Vault → Vault) : (s.modVault v f).free = s.free := rfl
@[simp] theorem State.modVault_nextNum (s : State) (v : Nat) (f : Vault → Vault) : (s.modVault v f).nextNum = s.nextNum := rfl
@[simp] theorem State.modVault_threads (s : State) (v : Nat) (f : Vault → Vault) : (s.modVault v f).threads = s.threads := rfl
@[simp] theorem State.modVault_wgs (s : State) (v : Nat) (f : Vault → Vault) : (s.modVault v f).wgs = s.wgs := rfl
@[simp] theorem State.modVault_cores (s : State) (v : Nat) (f : Vault → Vault) : (s.modVault v f).cores = s.cores := rfl
@[simp] theorem State.modVault_vmem (s : State) (v : Nat) (f : Vault → Vault) : (s.modVault v f).vmem = s.vmem := rfl
@[simp] theorem State.modVault_wmem (s : State) (v : Nat) (f : Vault → Vault) : (s.modVault v f).wmem = s.wmem := rfl
@[simp] theorem State.modVault_accs (s : State) (v : Nat) (f : Vault → Vault) : (s.modVault v f).accs = s.accs := rfl
@[simp] theorem State.modVault_replies (s : State) (v : Nat) (f : Vault → Vault) : (s.modVault v f).replies = s.replies := rfl
@[simp] theorem State.modVault_outbox (s : State) (v : Nat) (f : Vault → Vault) : (s.modVault v f).outbox = s.outbox := rfl
@[simp] theorem State.modVault_hostReqs (s : State) (v : Nat) (f : Vault → Vault) : (s.modVault v f).hostReqs = s.hostReqs := rfl
@[simp] theorem State.modVault_tags (s : State) (v : Nat) (f : Vault → Vault) : (s.modVault v f).tags = s.tags := rfl
@[simp] theorem State.modVault_gens (s : State) (v : Nat) (f : Vault → Vault) : (s.modVault v f).gens = s.gens := rfl
@[simp] theorem State.modVault_entries (s : State) (v : Nat) (f : Vault → Vault) : (s.modVault v f).entries = s.entries := rfl
@[simp] theorem State.modVault_slices (s : State) (v : Nat) (f : Vault → Vault) : (s.modVault v f).slices = s.slices := rfl
@[simp] theorem State.modVault_queues (s : State) (v : Nat) (f : Vault → Vault) : (s.modVault v f).queues = s.queues := rfl
@[simp] theorem State.modVault_frames (s : State) (v : Nat) (f : Vault → Vault) : (s.modVault v f).frames = s.frames := rfl
@[simp] theorem State.modVault_mesh (s : State) (v : Nat) (f : Vault → Vault) : (s.modVault v f).mesh = s.mesh := rfl
@[simp] theorem State.modVault_services (s : State) (v : Nat) (f : Vault → Vault) : (s.modVault v f).services = s.services := rfl
@[simp] theorem State.modVault_bwin (s : State) (v : Nat) (f : Vault → Vault) : (s.modVault v f).bwin = s.bwin := rfl
@[simp] theorem State.modVault_hdSvw (s : State) (v : Nat) (f : Vault → Vault) : (s.modVault v f).hdSvw = s.hdSvw := rfl
@[simp] theorem State.modVault_hdSel (s : State) (v : Nat) (f : Vault → Vault) : (s.modVault v f).hdSel = s.hdSel := rfl
@[simp] theorem State.modVault_hdLatch (s : State) (v : Nat) (f : Vault → Vault) : (s.modVault v f).hdLatch = s.hdLatch := rfl
@[simp] theorem State.modVault_hdKeys (s : State) (v : Nat) (f : Vault → Vault) : (s.modVault v f).hdKeys = s.hdKeys := rfl
@[simp] theorem State.modVault_hdBoot (s : State) (v : Nat) (f : Vault → Vault) : (s.modVault v f).hdBoot = s.hdBoot := rfl
@[simp] theorem State.modVault_heatCoef (s : State) (v : Nat) (f : Vault → Vault) : (s.modVault v f).heatCoef = s.heatCoef := rfl
@[simp] theorem State.modVault_vaultFloor (s : State) (v : Nat) (f : Vault → Vault) : (s.modVault v f).vaultFloor = s.vaultFloor := rfl
@[simp] theorem State.modVault_heatCost (s : State) (v : Nat) (f : Vault → Vault) : (s.modVault v f).heatCost = s.heatCost := rfl
@[simp] theorem State.modVault_columns (s : State) (v : Nat) (f : Vault → Vault) : (s.modVault v f).columns = s.columns := rfl
@[simp] theorem State.modVault_refills (s : State) (v : Nat) (f : Vault → Vault) : (s.modVault v f).refills = s.refills := rfl
@[simp] theorem State.modVault_steps (s : State) (v : Nat) (f : Vault → Vault) : (s.modVault v f).steps = s.steps := rfl
@[simp] theorem State.modVault_regions (s : State) (v : Nat) (f : Vault → Vault) : (s.modVault v f).regions = s.regions := rfl
@[simp] theorem State.modVault_chunks (s : State) (v : Nat) (f : Vault → Vault) : (s.modVault v f).chunks = s.chunks := rfl
@[simp] theorem State.modVault_rxSeq (s : State) (v : Nat) (f : Vault → Vault) : (s.modVault v f).rxSeq = s.rxSeq := rfl
@[simp] theorem State.modVault_rxEarly (s : State) (v : Nat) (f : Vault → Vault) : (s.modVault v f).rxEarly = s.rxEarly := rfl
@[simp] theorem State.modVault_page (s : State) (v : Nat) (f : Vault → Vault) : (s.modVault v f).page = s.page := rfl
@[simp] theorem State.modVault_launch (s : State) (v : Nat) (f : Vault → Vault) : (s.modVault v f).launch = s.launch := rfl
@[simp] theorem State.modVault_life (s : State) (v : Nat) (f : Vault → Vault) : (s.modVault v f).life = s.life := rfl
@[simp] theorem State.modVault_boot (s : State) (v : Nat) (f : Vault → Vault) : (s.modVault v f).boot = s.boot := rfl
@[simp] theorem State.modVault_time (s : State) (v : Nat) (f : Vault → Vault) : (s.modVault v f).time = s.time := rfl
@[simp] theorem State.modVault_link (s : State) (v : Nat) (f : Vault → Vault) : (s.modVault v f).link = s.link := rfl

/-! modSlice. -/

@[simp] theorem State.modSlice_now (s : State) (v : Nat) (f : Slice → Slice) : (s.modSlice v f).now = s.now := rfl
@[simp] theorem State.modSlice_agenda (s : State) (v : Nat) (f : Slice → Slice) : (s.modSlice v f).agenda = s.agenda := rfl
@[simp] theorem State.modSlice_cur (s : State) (v : Nat) (f : Slice → Slice) : (s.modSlice v f).cur = s.cur := rfl
@[simp] theorem State.modSlice_gather (s : State) (v : Nat) (f : Slice → Slice) : (s.modSlice v f).gather = s.gather := rfl
@[simp] theorem State.modSlice_late (s : State) (v : Nat) (f : Slice → Slice) : (s.modSlice v f).late = s.late := rfl
@[simp] theorem State.modSlice_free (s : State) (v : Nat) (f : Slice → Slice) : (s.modSlice v f).free = s.free := rfl
@[simp] theorem State.modSlice_nextNum (s : State) (v : Nat) (f : Slice → Slice) : (s.modSlice v f).nextNum = s.nextNum := rfl
@[simp] theorem State.modSlice_threads (s : State) (v : Nat) (f : Slice → Slice) : (s.modSlice v f).threads = s.threads := rfl
@[simp] theorem State.modSlice_wgs (s : State) (v : Nat) (f : Slice → Slice) : (s.modSlice v f).wgs = s.wgs := rfl
@[simp] theorem State.modSlice_cores (s : State) (v : Nat) (f : Slice → Slice) : (s.modSlice v f).cores = s.cores := rfl
@[simp] theorem State.modSlice_vmem (s : State) (v : Nat) (f : Slice → Slice) : (s.modSlice v f).vmem = s.vmem := rfl
@[simp] theorem State.modSlice_wmem (s : State) (v : Nat) (f : Slice → Slice) : (s.modSlice v f).wmem = s.wmem := rfl
@[simp] theorem State.modSlice_accs (s : State) (v : Nat) (f : Slice → Slice) : (s.modSlice v f).accs = s.accs := rfl
@[simp] theorem State.modSlice_replies (s : State) (v : Nat) (f : Slice → Slice) : (s.modSlice v f).replies = s.replies := rfl
@[simp] theorem State.modSlice_outbox (s : State) (v : Nat) (f : Slice → Slice) : (s.modSlice v f).outbox = s.outbox := rfl
@[simp] theorem State.modSlice_hostReqs (s : State) (v : Nat) (f : Slice → Slice) : (s.modSlice v f).hostReqs = s.hostReqs := rfl
@[simp] theorem State.modSlice_tags (s : State) (v : Nat) (f : Slice → Slice) : (s.modSlice v f).tags = s.tags := rfl
@[simp] theorem State.modSlice_gens (s : State) (v : Nat) (f : Slice → Slice) : (s.modSlice v f).gens = s.gens := rfl
@[simp] theorem State.modSlice_entries (s : State) (v : Nat) (f : Slice → Slice) : (s.modSlice v f).entries = s.entries := rfl
@[simp] theorem State.modSlice_queues (s : State) (v : Nat) (f : Slice → Slice) : (s.modSlice v f).queues = s.queues := rfl
@[simp] theorem State.modSlice_frames (s : State) (v : Nat) (f : Slice → Slice) : (s.modSlice v f).frames = s.frames := rfl
@[simp] theorem State.modSlice_mesh (s : State) (v : Nat) (f : Slice → Slice) : (s.modSlice v f).mesh = s.mesh := rfl
@[simp] theorem State.modSlice_services (s : State) (v : Nat) (f : Slice → Slice) : (s.modSlice v f).services = s.services := rfl
@[simp] theorem State.modSlice_bwin (s : State) (v : Nat) (f : Slice → Slice) : (s.modSlice v f).bwin = s.bwin := rfl
@[simp] theorem State.modSlice_hdSvw (s : State) (v : Nat) (f : Slice → Slice) : (s.modSlice v f).hdSvw = s.hdSvw := rfl
@[simp] theorem State.modSlice_hdSel (s : State) (v : Nat) (f : Slice → Slice) : (s.modSlice v f).hdSel = s.hdSel := rfl
@[simp] theorem State.modSlice_hdLatch (s : State) (v : Nat) (f : Slice → Slice) : (s.modSlice v f).hdLatch = s.hdLatch := rfl
@[simp] theorem State.modSlice_hdKeys (s : State) (v : Nat) (f : Slice → Slice) : (s.modSlice v f).hdKeys = s.hdKeys := rfl
@[simp] theorem State.modSlice_hdBoot (s : State) (v : Nat) (f : Slice → Slice) : (s.modSlice v f).hdBoot = s.hdBoot := rfl
@[simp] theorem State.modSlice_vaults (s : State) (v : Nat) (f : Slice → Slice) : (s.modSlice v f).vaults = s.vaults := rfl
@[simp] theorem State.modSlice_heatCoef (s : State) (v : Nat) (f : Slice → Slice) : (s.modSlice v f).heatCoef = s.heatCoef := rfl
@[simp] theorem State.modSlice_vaultFloor (s : State) (v : Nat) (f : Slice → Slice) : (s.modSlice v f).vaultFloor = s.vaultFloor := rfl
@[simp] theorem State.modSlice_heatCost (s : State) (v : Nat) (f : Slice → Slice) : (s.modSlice v f).heatCost = s.heatCost := rfl
@[simp] theorem State.modSlice_columns (s : State) (v : Nat) (f : Slice → Slice) : (s.modSlice v f).columns = s.columns := rfl
@[simp] theorem State.modSlice_refills (s : State) (v : Nat) (f : Slice → Slice) : (s.modSlice v f).refills = s.refills := rfl
@[simp] theorem State.modSlice_steps (s : State) (v : Nat) (f : Slice → Slice) : (s.modSlice v f).steps = s.steps := rfl
@[simp] theorem State.modSlice_regions (s : State) (v : Nat) (f : Slice → Slice) : (s.modSlice v f).regions = s.regions := rfl
@[simp] theorem State.modSlice_chunks (s : State) (v : Nat) (f : Slice → Slice) : (s.modSlice v f).chunks = s.chunks := rfl
@[simp] theorem State.modSlice_rxSeq (s : State) (v : Nat) (f : Slice → Slice) : (s.modSlice v f).rxSeq = s.rxSeq := rfl
@[simp] theorem State.modSlice_rxEarly (s : State) (v : Nat) (f : Slice → Slice) : (s.modSlice v f).rxEarly = s.rxEarly := rfl
@[simp] theorem State.modSlice_page (s : State) (v : Nat) (f : Slice → Slice) : (s.modSlice v f).page = s.page := rfl
@[simp] theorem State.modSlice_launch (s : State) (v : Nat) (f : Slice → Slice) : (s.modSlice v f).launch = s.launch := rfl
@[simp] theorem State.modSlice_life (s : State) (v : Nat) (f : Slice → Slice) : (s.modSlice v f).life = s.life := rfl
@[simp] theorem State.modSlice_boot (s : State) (v : Nat) (f : Slice → Slice) : (s.modSlice v f).boot = s.boot := rfl
@[simp] theorem State.modSlice_time (s : State) (v : Nat) (f : Slice → Slice) : (s.modSlice v f).time = s.time := rfl
@[simp] theorem State.modSlice_link (s : State) (v : Nat) (f : Slice → Slice) : (s.modSlice v f).link = s.link := rfl

/-! modColumn. -/

@[simp] theorem State.modColumn_now (s : State) (v : Nat) (f : Column → Column) : (s.modColumn v f).now = s.now := rfl
@[simp] theorem State.modColumn_agenda (s : State) (v : Nat) (f : Column → Column) : (s.modColumn v f).agenda = s.agenda := rfl
@[simp] theorem State.modColumn_cur (s : State) (v : Nat) (f : Column → Column) : (s.modColumn v f).cur = s.cur := rfl
@[simp] theorem State.modColumn_gather (s : State) (v : Nat) (f : Column → Column) : (s.modColumn v f).gather = s.gather := rfl
@[simp] theorem State.modColumn_late (s : State) (v : Nat) (f : Column → Column) : (s.modColumn v f).late = s.late := rfl
@[simp] theorem State.modColumn_free (s : State) (v : Nat) (f : Column → Column) : (s.modColumn v f).free = s.free := rfl
@[simp] theorem State.modColumn_nextNum (s : State) (v : Nat) (f : Column → Column) : (s.modColumn v f).nextNum = s.nextNum := rfl
@[simp] theorem State.modColumn_threads (s : State) (v : Nat) (f : Column → Column) : (s.modColumn v f).threads = s.threads := rfl
@[simp] theorem State.modColumn_wgs (s : State) (v : Nat) (f : Column → Column) : (s.modColumn v f).wgs = s.wgs := rfl
@[simp] theorem State.modColumn_cores (s : State) (v : Nat) (f : Column → Column) : (s.modColumn v f).cores = s.cores := rfl
@[simp] theorem State.modColumn_vmem (s : State) (v : Nat) (f : Column → Column) : (s.modColumn v f).vmem = s.vmem := rfl
@[simp] theorem State.modColumn_wmem (s : State) (v : Nat) (f : Column → Column) : (s.modColumn v f).wmem = s.wmem := rfl
@[simp] theorem State.modColumn_accs (s : State) (v : Nat) (f : Column → Column) : (s.modColumn v f).accs = s.accs := rfl
@[simp] theorem State.modColumn_replies (s : State) (v : Nat) (f : Column → Column) : (s.modColumn v f).replies = s.replies := rfl
@[simp] theorem State.modColumn_outbox (s : State) (v : Nat) (f : Column → Column) : (s.modColumn v f).outbox = s.outbox := rfl
@[simp] theorem State.modColumn_hostReqs (s : State) (v : Nat) (f : Column → Column) : (s.modColumn v f).hostReqs = s.hostReqs := rfl
@[simp] theorem State.modColumn_tags (s : State) (v : Nat) (f : Column → Column) : (s.modColumn v f).tags = s.tags := rfl
@[simp] theorem State.modColumn_gens (s : State) (v : Nat) (f : Column → Column) : (s.modColumn v f).gens = s.gens := rfl
@[simp] theorem State.modColumn_entries (s : State) (v : Nat) (f : Column → Column) : (s.modColumn v f).entries = s.entries := rfl
@[simp] theorem State.modColumn_slices (s : State) (v : Nat) (f : Column → Column) : (s.modColumn v f).slices = s.slices := rfl
@[simp] theorem State.modColumn_queues (s : State) (v : Nat) (f : Column → Column) : (s.modColumn v f).queues = s.queues := rfl
@[simp] theorem State.modColumn_frames (s : State) (v : Nat) (f : Column → Column) : (s.modColumn v f).frames = s.frames := rfl
@[simp] theorem State.modColumn_mesh (s : State) (v : Nat) (f : Column → Column) : (s.modColumn v f).mesh = s.mesh := rfl
@[simp] theorem State.modColumn_services (s : State) (v : Nat) (f : Column → Column) : (s.modColumn v f).services = s.services := rfl
@[simp] theorem State.modColumn_bwin (s : State) (v : Nat) (f : Column → Column) : (s.modColumn v f).bwin = s.bwin := rfl
@[simp] theorem State.modColumn_hdSvw (s : State) (v : Nat) (f : Column → Column) : (s.modColumn v f).hdSvw = s.hdSvw := rfl
@[simp] theorem State.modColumn_hdSel (s : State) (v : Nat) (f : Column → Column) : (s.modColumn v f).hdSel = s.hdSel := rfl
@[simp] theorem State.modColumn_hdLatch (s : State) (v : Nat) (f : Column → Column) : (s.modColumn v f).hdLatch = s.hdLatch := rfl
@[simp] theorem State.modColumn_hdKeys (s : State) (v : Nat) (f : Column → Column) : (s.modColumn v f).hdKeys = s.hdKeys := rfl
@[simp] theorem State.modColumn_hdBoot (s : State) (v : Nat) (f : Column → Column) : (s.modColumn v f).hdBoot = s.hdBoot := rfl
@[simp] theorem State.modColumn_vaults (s : State) (v : Nat) (f : Column → Column) : (s.modColumn v f).vaults = s.vaults := rfl
@[simp] theorem State.modColumn_heatCoef (s : State) (v : Nat) (f : Column → Column) : (s.modColumn v f).heatCoef = s.heatCoef := rfl
@[simp] theorem State.modColumn_vaultFloor (s : State) (v : Nat) (f : Column → Column) : (s.modColumn v f).vaultFloor = s.vaultFloor := rfl
@[simp] theorem State.modColumn_heatCost (s : State) (v : Nat) (f : Column → Column) : (s.modColumn v f).heatCost = s.heatCost := rfl
@[simp] theorem State.modColumn_refills (s : State) (v : Nat) (f : Column → Column) : (s.modColumn v f).refills = s.refills := rfl
@[simp] theorem State.modColumn_steps (s : State) (v : Nat) (f : Column → Column) : (s.modColumn v f).steps = s.steps := rfl
@[simp] theorem State.modColumn_regions (s : State) (v : Nat) (f : Column → Column) : (s.modColumn v f).regions = s.regions := rfl
@[simp] theorem State.modColumn_chunks (s : State) (v : Nat) (f : Column → Column) : (s.modColumn v f).chunks = s.chunks := rfl
@[simp] theorem State.modColumn_rxSeq (s : State) (v : Nat) (f : Column → Column) : (s.modColumn v f).rxSeq = s.rxSeq := rfl
@[simp] theorem State.modColumn_rxEarly (s : State) (v : Nat) (f : Column → Column) : (s.modColumn v f).rxEarly = s.rxEarly := rfl
@[simp] theorem State.modColumn_page (s : State) (v : Nat) (f : Column → Column) : (s.modColumn v f).page = s.page := rfl
@[simp] theorem State.modColumn_launch (s : State) (v : Nat) (f : Column → Column) : (s.modColumn v f).launch = s.launch := rfl
@[simp] theorem State.modColumn_life (s : State) (v : Nat) (f : Column → Column) : (s.modColumn v f).life = s.life := rfl
@[simp] theorem State.modColumn_boot (s : State) (v : Nat) (f : Column → Column) : (s.modColumn v f).boot = s.boot := rfl
@[simp] theorem State.modColumn_time (s : State) (v : Nat) (f : Column → Column) : (s.modColumn v f).time = s.time := rfl
@[simp] theorem State.modColumn_link (s : State) (v : Nat) (f : Column → Column) : (s.modColumn v f).link = s.link := rfl

/-! modRegion. -/

@[simp] theorem State.modRegion_now (s : State) (v : Nat) (f : PowerRegion → PowerRegion) : (s.modRegion v f).now = s.now := rfl
@[simp] theorem State.modRegion_agenda (s : State) (v : Nat) (f : PowerRegion → PowerRegion) : (s.modRegion v f).agenda = s.agenda := rfl
@[simp] theorem State.modRegion_cur (s : State) (v : Nat) (f : PowerRegion → PowerRegion) : (s.modRegion v f).cur = s.cur := rfl
@[simp] theorem State.modRegion_gather (s : State) (v : Nat) (f : PowerRegion → PowerRegion) : (s.modRegion v f).gather = s.gather := rfl
@[simp] theorem State.modRegion_late (s : State) (v : Nat) (f : PowerRegion → PowerRegion) : (s.modRegion v f).late = s.late := rfl
@[simp] theorem State.modRegion_free (s : State) (v : Nat) (f : PowerRegion → PowerRegion) : (s.modRegion v f).free = s.free := rfl
@[simp] theorem State.modRegion_nextNum (s : State) (v : Nat) (f : PowerRegion → PowerRegion) : (s.modRegion v f).nextNum = s.nextNum := rfl
@[simp] theorem State.modRegion_threads (s : State) (v : Nat) (f : PowerRegion → PowerRegion) : (s.modRegion v f).threads = s.threads := rfl
@[simp] theorem State.modRegion_wgs (s : State) (v : Nat) (f : PowerRegion → PowerRegion) : (s.modRegion v f).wgs = s.wgs := rfl
@[simp] theorem State.modRegion_cores (s : State) (v : Nat) (f : PowerRegion → PowerRegion) : (s.modRegion v f).cores = s.cores := rfl
@[simp] theorem State.modRegion_vmem (s : State) (v : Nat) (f : PowerRegion → PowerRegion) : (s.modRegion v f).vmem = s.vmem := rfl
@[simp] theorem State.modRegion_wmem (s : State) (v : Nat) (f : PowerRegion → PowerRegion) : (s.modRegion v f).wmem = s.wmem := rfl
@[simp] theorem State.modRegion_accs (s : State) (v : Nat) (f : PowerRegion → PowerRegion) : (s.modRegion v f).accs = s.accs := rfl
@[simp] theorem State.modRegion_replies (s : State) (v : Nat) (f : PowerRegion → PowerRegion) : (s.modRegion v f).replies = s.replies := rfl
@[simp] theorem State.modRegion_outbox (s : State) (v : Nat) (f : PowerRegion → PowerRegion) : (s.modRegion v f).outbox = s.outbox := rfl
@[simp] theorem State.modRegion_hostReqs (s : State) (v : Nat) (f : PowerRegion → PowerRegion) : (s.modRegion v f).hostReqs = s.hostReqs := rfl
@[simp] theorem State.modRegion_tags (s : State) (v : Nat) (f : PowerRegion → PowerRegion) : (s.modRegion v f).tags = s.tags := rfl
@[simp] theorem State.modRegion_gens (s : State) (v : Nat) (f : PowerRegion → PowerRegion) : (s.modRegion v f).gens = s.gens := rfl
@[simp] theorem State.modRegion_entries (s : State) (v : Nat) (f : PowerRegion → PowerRegion) : (s.modRegion v f).entries = s.entries := rfl
@[simp] theorem State.modRegion_slices (s : State) (v : Nat) (f : PowerRegion → PowerRegion) : (s.modRegion v f).slices = s.slices := rfl
@[simp] theorem State.modRegion_queues (s : State) (v : Nat) (f : PowerRegion → PowerRegion) : (s.modRegion v f).queues = s.queues := rfl
@[simp] theorem State.modRegion_frames (s : State) (v : Nat) (f : PowerRegion → PowerRegion) : (s.modRegion v f).frames = s.frames := rfl
@[simp] theorem State.modRegion_mesh (s : State) (v : Nat) (f : PowerRegion → PowerRegion) : (s.modRegion v f).mesh = s.mesh := rfl
@[simp] theorem State.modRegion_services (s : State) (v : Nat) (f : PowerRegion → PowerRegion) : (s.modRegion v f).services = s.services := rfl
@[simp] theorem State.modRegion_bwin (s : State) (v : Nat) (f : PowerRegion → PowerRegion) : (s.modRegion v f).bwin = s.bwin := rfl
@[simp] theorem State.modRegion_hdSvw (s : State) (v : Nat) (f : PowerRegion → PowerRegion) : (s.modRegion v f).hdSvw = s.hdSvw := rfl
@[simp] theorem State.modRegion_hdSel (s : State) (v : Nat) (f : PowerRegion → PowerRegion) : (s.modRegion v f).hdSel = s.hdSel := rfl
@[simp] theorem State.modRegion_hdLatch (s : State) (v : Nat) (f : PowerRegion → PowerRegion) : (s.modRegion v f).hdLatch = s.hdLatch := rfl
@[simp] theorem State.modRegion_hdKeys (s : State) (v : Nat) (f : PowerRegion → PowerRegion) : (s.modRegion v f).hdKeys = s.hdKeys := rfl
@[simp] theorem State.modRegion_hdBoot (s : State) (v : Nat) (f : PowerRegion → PowerRegion) : (s.modRegion v f).hdBoot = s.hdBoot := rfl
@[simp] theorem State.modRegion_vaults (s : State) (v : Nat) (f : PowerRegion → PowerRegion) : (s.modRegion v f).vaults = s.vaults := rfl
@[simp] theorem State.modRegion_heatCoef (s : State) (v : Nat) (f : PowerRegion → PowerRegion) : (s.modRegion v f).heatCoef = s.heatCoef := rfl
@[simp] theorem State.modRegion_vaultFloor (s : State) (v : Nat) (f : PowerRegion → PowerRegion) : (s.modRegion v f).vaultFloor = s.vaultFloor := rfl
@[simp] theorem State.modRegion_heatCost (s : State) (v : Nat) (f : PowerRegion → PowerRegion) : (s.modRegion v f).heatCost = s.heatCost := rfl
@[simp] theorem State.modRegion_columns (s : State) (v : Nat) (f : PowerRegion → PowerRegion) : (s.modRegion v f).columns = s.columns := rfl
@[simp] theorem State.modRegion_refills (s : State) (v : Nat) (f : PowerRegion → PowerRegion) : (s.modRegion v f).refills = s.refills := rfl
@[simp] theorem State.modRegion_steps (s : State) (v : Nat) (f : PowerRegion → PowerRegion) : (s.modRegion v f).steps = s.steps := rfl
@[simp] theorem State.modRegion_chunks (s : State) (v : Nat) (f : PowerRegion → PowerRegion) : (s.modRegion v f).chunks = s.chunks := rfl
@[simp] theorem State.modRegion_rxSeq (s : State) (v : Nat) (f : PowerRegion → PowerRegion) : (s.modRegion v f).rxSeq = s.rxSeq := rfl
@[simp] theorem State.modRegion_rxEarly (s : State) (v : Nat) (f : PowerRegion → PowerRegion) : (s.modRegion v f).rxEarly = s.rxEarly := rfl
@[simp] theorem State.modRegion_page (s : State) (v : Nat) (f : PowerRegion → PowerRegion) : (s.modRegion v f).page = s.page := rfl
@[simp] theorem State.modRegion_launch (s : State) (v : Nat) (f : PowerRegion → PowerRegion) : (s.modRegion v f).launch = s.launch := rfl
@[simp] theorem State.modRegion_life (s : State) (v : Nat) (f : PowerRegion → PowerRegion) : (s.modRegion v f).life = s.life := rfl
@[simp] theorem State.modRegion_boot (s : State) (v : Nat) (f : PowerRegion → PowerRegion) : (s.modRegion v f).boot = s.boot := rfl
@[simp] theorem State.modRegion_time (s : State) (v : Nat) (f : PowerRegion → PowerRegion) : (s.modRegion v f).time = s.time := rfl
@[simp] theorem State.modRegion_link (s : State) (v : Nat) (f : PowerRegion → PowerRegion) : (s.modRegion v f).link = s.link := rfl

/-! modField. -/

@[simp] theorem State.modField_now (s : State) (v : Nat) (f : Field → Field) : (s.modField v f).now = s.now := rfl
@[simp] theorem State.modField_agenda (s : State) (v : Nat) (f : Field → Field) : (s.modField v f).agenda = s.agenda := rfl
@[simp] theorem State.modField_cur (s : State) (v : Nat) (f : Field → Field) : (s.modField v f).cur = s.cur := rfl
@[simp] theorem State.modField_gather (s : State) (v : Nat) (f : Field → Field) : (s.modField v f).gather = s.gather := rfl
@[simp] theorem State.modField_late (s : State) (v : Nat) (f : Field → Field) : (s.modField v f).late = s.late := rfl
@[simp] theorem State.modField_free (s : State) (v : Nat) (f : Field → Field) : (s.modField v f).free = s.free := rfl
@[simp] theorem State.modField_nextNum (s : State) (v : Nat) (f : Field → Field) : (s.modField v f).nextNum = s.nextNum := rfl
@[simp] theorem State.modField_threads (s : State) (v : Nat) (f : Field → Field) : (s.modField v f).threads = s.threads := rfl
@[simp] theorem State.modField_wgs (s : State) (v : Nat) (f : Field → Field) : (s.modField v f).wgs = s.wgs := rfl
@[simp] theorem State.modField_cores (s : State) (v : Nat) (f : Field → Field) : (s.modField v f).cores = s.cores := rfl
@[simp] theorem State.modField_vmem (s : State) (v : Nat) (f : Field → Field) : (s.modField v f).vmem = s.vmem := rfl
@[simp] theorem State.modField_wmem (s : State) (v : Nat) (f : Field → Field) : (s.modField v f).wmem = s.wmem := rfl
@[simp] theorem State.modField_accs (s : State) (v : Nat) (f : Field → Field) : (s.modField v f).accs = s.accs := rfl
@[simp] theorem State.modField_replies (s : State) (v : Nat) (f : Field → Field) : (s.modField v f).replies = s.replies := rfl
@[simp] theorem State.modField_outbox (s : State) (v : Nat) (f : Field → Field) : (s.modField v f).outbox = s.outbox := rfl
@[simp] theorem State.modField_hostReqs (s : State) (v : Nat) (f : Field → Field) : (s.modField v f).hostReqs = s.hostReqs := rfl
@[simp] theorem State.modField_tags (s : State) (v : Nat) (f : Field → Field) : (s.modField v f).tags = s.tags := rfl
@[simp] theorem State.modField_gens (s : State) (v : Nat) (f : Field → Field) : (s.modField v f).gens = s.gens := rfl
@[simp] theorem State.modField_entries (s : State) (v : Nat) (f : Field → Field) : (s.modField v f).entries = s.entries := rfl
@[simp] theorem State.modField_slices (s : State) (v : Nat) (f : Field → Field) : (s.modField v f).slices = s.slices := rfl
@[simp] theorem State.modField_queues (s : State) (v : Nat) (f : Field → Field) : (s.modField v f).queues = s.queues := rfl
@[simp] theorem State.modField_frames (s : State) (v : Nat) (f : Field → Field) : (s.modField v f).frames = s.frames := rfl
@[simp] theorem State.modField_mesh (s : State) (v : Nat) (f : Field → Field) : (s.modField v f).mesh = s.mesh := rfl
@[simp] theorem State.modField_services (s : State) (v : Nat) (f : Field → Field) : (s.modField v f).services = s.services := rfl
@[simp] theorem State.modField_bwin (s : State) (v : Nat) (f : Field → Field) : (s.modField v f).bwin = s.bwin := rfl
@[simp] theorem State.modField_hdSvw (s : State) (v : Nat) (f : Field → Field) : (s.modField v f).hdSvw = s.hdSvw := rfl
@[simp] theorem State.modField_hdSel (s : State) (v : Nat) (f : Field → Field) : (s.modField v f).hdSel = s.hdSel := rfl
@[simp] theorem State.modField_hdLatch (s : State) (v : Nat) (f : Field → Field) : (s.modField v f).hdLatch = s.hdLatch := rfl
@[simp] theorem State.modField_hdKeys (s : State) (v : Nat) (f : Field → Field) : (s.modField v f).hdKeys = s.hdKeys := rfl
@[simp] theorem State.modField_hdBoot (s : State) (v : Nat) (f : Field → Field) : (s.modField v f).hdBoot = s.hdBoot := rfl
@[simp] theorem State.modField_vaults (s : State) (v : Nat) (f : Field → Field) : (s.modField v f).vaults = s.vaults := rfl
@[simp] theorem State.modField_heatCoef (s : State) (v : Nat) (f : Field → Field) : (s.modField v f).heatCoef = s.heatCoef := rfl
@[simp] theorem State.modField_vaultFloor (s : State) (v : Nat) (f : Field → Field) : (s.modField v f).vaultFloor = s.vaultFloor := rfl
@[simp] theorem State.modField_heatCost (s : State) (v : Nat) (f : Field → Field) : (s.modField v f).heatCost = s.heatCost := rfl
@[simp] theorem State.modField_columns (s : State) (v : Nat) (f : Field → Field) : (s.modField v f).columns = s.columns := rfl
@[simp] theorem State.modField_refills (s : State) (v : Nat) (f : Field → Field) : (s.modField v f).refills = s.refills := rfl
@[simp] theorem State.modField_steps (s : State) (v : Nat) (f : Field → Field) : (s.modField v f).steps = s.steps := rfl
@[simp] theorem State.modField_regions (s : State) (v : Nat) (f : Field → Field) : (s.modField v f).regions = s.regions := rfl
@[simp] theorem State.modField_chunks (s : State) (v : Nat) (f : Field → Field) : (s.modField v f).chunks = s.chunks := rfl
@[simp] theorem State.modField_rxSeq (s : State) (v : Nat) (f : Field → Field) : (s.modField v f).rxSeq = s.rxSeq := rfl
@[simp] theorem State.modField_rxEarly (s : State) (v : Nat) (f : Field → Field) : (s.modField v f).rxEarly = s.rxEarly := rfl
@[simp] theorem State.modField_page (s : State) (v : Nat) (f : Field → Field) : (s.modField v f).page = s.page := rfl
@[simp] theorem State.modField_launch (s : State) (v : Nat) (f : Field → Field) : (s.modField v f).launch = s.launch := rfl
@[simp] theorem State.modField_life (s : State) (v : Nat) (f : Field → Field) : (s.modField v f).life = s.life := rfl
@[simp] theorem State.modField_boot (s : State) (v : Nat) (f : Field → Field) : (s.modField v f).boot = s.boot := rfl
@[simp] theorem State.modField_link (s : State) (v : Nat) (f : Field → Field) : (s.modField v f).link = s.link := rfl

/-! modPage. -/

@[simp] theorem State.modPage_now (s : State) (f : PageUnit → PageUnit) : (s.modPage f).now = s.now := rfl
@[simp] theorem State.modPage_agenda (s : State) (f : PageUnit → PageUnit) : (s.modPage f).agenda = s.agenda := rfl
@[simp] theorem State.modPage_cur (s : State) (f : PageUnit → PageUnit) : (s.modPage f).cur = s.cur := rfl
@[simp] theorem State.modPage_gather (s : State) (f : PageUnit → PageUnit) : (s.modPage f).gather = s.gather := rfl
@[simp] theorem State.modPage_late (s : State) (f : PageUnit → PageUnit) : (s.modPage f).late = s.late := rfl
@[simp] theorem State.modPage_free (s : State) (f : PageUnit → PageUnit) : (s.modPage f).free = s.free := rfl
@[simp] theorem State.modPage_nextNum (s : State) (f : PageUnit → PageUnit) : (s.modPage f).nextNum = s.nextNum := rfl
@[simp] theorem State.modPage_threads (s : State) (f : PageUnit → PageUnit) : (s.modPage f).threads = s.threads := rfl
@[simp] theorem State.modPage_wgs (s : State) (f : PageUnit → PageUnit) : (s.modPage f).wgs = s.wgs := rfl
@[simp] theorem State.modPage_cores (s : State) (f : PageUnit → PageUnit) : (s.modPage f).cores = s.cores := rfl
@[simp] theorem State.modPage_vmem (s : State) (f : PageUnit → PageUnit) : (s.modPage f).vmem = s.vmem := rfl
@[simp] theorem State.modPage_wmem (s : State) (f : PageUnit → PageUnit) : (s.modPage f).wmem = s.wmem := rfl
@[simp] theorem State.modPage_accs (s : State) (f : PageUnit → PageUnit) : (s.modPage f).accs = s.accs := rfl
@[simp] theorem State.modPage_replies (s : State) (f : PageUnit → PageUnit) : (s.modPage f).replies = s.replies := rfl
@[simp] theorem State.modPage_outbox (s : State) (f : PageUnit → PageUnit) : (s.modPage f).outbox = s.outbox := rfl
@[simp] theorem State.modPage_hostReqs (s : State) (f : PageUnit → PageUnit) : (s.modPage f).hostReqs = s.hostReqs := rfl
@[simp] theorem State.modPage_tags (s : State) (f : PageUnit → PageUnit) : (s.modPage f).tags = s.tags := rfl
@[simp] theorem State.modPage_gens (s : State) (f : PageUnit → PageUnit) : (s.modPage f).gens = s.gens := rfl
@[simp] theorem State.modPage_entries (s : State) (f : PageUnit → PageUnit) : (s.modPage f).entries = s.entries := rfl
@[simp] theorem State.modPage_slices (s : State) (f : PageUnit → PageUnit) : (s.modPage f).slices = s.slices := rfl
@[simp] theorem State.modPage_queues (s : State) (f : PageUnit → PageUnit) : (s.modPage f).queues = s.queues := rfl
@[simp] theorem State.modPage_frames (s : State) (f : PageUnit → PageUnit) : (s.modPage f).frames = s.frames := rfl
@[simp] theorem State.modPage_mesh (s : State) (f : PageUnit → PageUnit) : (s.modPage f).mesh = s.mesh := rfl
@[simp] theorem State.modPage_services (s : State) (f : PageUnit → PageUnit) : (s.modPage f).services = s.services := rfl
@[simp] theorem State.modPage_bwin (s : State) (f : PageUnit → PageUnit) : (s.modPage f).bwin = s.bwin := rfl
@[simp] theorem State.modPage_hdSvw (s : State) (f : PageUnit → PageUnit) : (s.modPage f).hdSvw = s.hdSvw := rfl
@[simp] theorem State.modPage_hdSel (s : State) (f : PageUnit → PageUnit) : (s.modPage f).hdSel = s.hdSel := rfl
@[simp] theorem State.modPage_hdLatch (s : State) (f : PageUnit → PageUnit) : (s.modPage f).hdLatch = s.hdLatch := rfl
@[simp] theorem State.modPage_hdKeys (s : State) (f : PageUnit → PageUnit) : (s.modPage f).hdKeys = s.hdKeys := rfl
@[simp] theorem State.modPage_hdBoot (s : State) (f : PageUnit → PageUnit) : (s.modPage f).hdBoot = s.hdBoot := rfl
@[simp] theorem State.modPage_vaults (s : State) (f : PageUnit → PageUnit) : (s.modPage f).vaults = s.vaults := rfl
@[simp] theorem State.modPage_heatCoef (s : State) (f : PageUnit → PageUnit) : (s.modPage f).heatCoef = s.heatCoef := rfl
@[simp] theorem State.modPage_vaultFloor (s : State) (f : PageUnit → PageUnit) : (s.modPage f).vaultFloor = s.vaultFloor := rfl
@[simp] theorem State.modPage_heatCost (s : State) (f : PageUnit → PageUnit) : (s.modPage f).heatCost = s.heatCost := rfl
@[simp] theorem State.modPage_columns (s : State) (f : PageUnit → PageUnit) : (s.modPage f).columns = s.columns := rfl
@[simp] theorem State.modPage_refills (s : State) (f : PageUnit → PageUnit) : (s.modPage f).refills = s.refills := rfl
@[simp] theorem State.modPage_steps (s : State) (f : PageUnit → PageUnit) : (s.modPage f).steps = s.steps := rfl
@[simp] theorem State.modPage_regions (s : State) (f : PageUnit → PageUnit) : (s.modPage f).regions = s.regions := rfl
@[simp] theorem State.modPage_chunks (s : State) (f : PageUnit → PageUnit) : (s.modPage f).chunks = s.chunks := rfl
@[simp] theorem State.modPage_rxSeq (s : State) (f : PageUnit → PageUnit) : (s.modPage f).rxSeq = s.rxSeq := rfl
@[simp] theorem State.modPage_rxEarly (s : State) (f : PageUnit → PageUnit) : (s.modPage f).rxEarly = s.rxEarly := rfl
@[simp] theorem State.modPage_launch (s : State) (f : PageUnit → PageUnit) : (s.modPage f).launch = s.launch := rfl
@[simp] theorem State.modPage_life (s : State) (f : PageUnit → PageUnit) : (s.modPage f).life = s.life := rfl
@[simp] theorem State.modPage_boot (s : State) (f : PageUnit → PageUnit) : (s.modPage f).boot = s.boot := rfl
@[simp] theorem State.modPage_time (s : State) (f : PageUnit → PageUnit) : (s.modPage f).time = s.time := rfl
@[simp] theorem State.modPage_link (s : State) (f : PageUnit → PageUnit) : (s.modPage f).link = s.link := rfl

/-! modLaunch. -/

@[simp] theorem State.modLaunch_now (s : State) (f : LaunchUnit → LaunchUnit) : (s.modLaunch f).now = s.now := rfl
@[simp] theorem State.modLaunch_agenda (s : State) (f : LaunchUnit → LaunchUnit) : (s.modLaunch f).agenda = s.agenda := rfl
@[simp] theorem State.modLaunch_cur (s : State) (f : LaunchUnit → LaunchUnit) : (s.modLaunch f).cur = s.cur := rfl
@[simp] theorem State.modLaunch_gather (s : State) (f : LaunchUnit → LaunchUnit) : (s.modLaunch f).gather = s.gather := rfl
@[simp] theorem State.modLaunch_late (s : State) (f : LaunchUnit → LaunchUnit) : (s.modLaunch f).late = s.late := rfl
@[simp] theorem State.modLaunch_free (s : State) (f : LaunchUnit → LaunchUnit) : (s.modLaunch f).free = s.free := rfl
@[simp] theorem State.modLaunch_nextNum (s : State) (f : LaunchUnit → LaunchUnit) : (s.modLaunch f).nextNum = s.nextNum := rfl
@[simp] theorem State.modLaunch_threads (s : State) (f : LaunchUnit → LaunchUnit) : (s.modLaunch f).threads = s.threads := rfl
@[simp] theorem State.modLaunch_wgs (s : State) (f : LaunchUnit → LaunchUnit) : (s.modLaunch f).wgs = s.wgs := rfl
@[simp] theorem State.modLaunch_cores (s : State) (f : LaunchUnit → LaunchUnit) : (s.modLaunch f).cores = s.cores := rfl
@[simp] theorem State.modLaunch_vmem (s : State) (f : LaunchUnit → LaunchUnit) : (s.modLaunch f).vmem = s.vmem := rfl
@[simp] theorem State.modLaunch_wmem (s : State) (f : LaunchUnit → LaunchUnit) : (s.modLaunch f).wmem = s.wmem := rfl
@[simp] theorem State.modLaunch_accs (s : State) (f : LaunchUnit → LaunchUnit) : (s.modLaunch f).accs = s.accs := rfl
@[simp] theorem State.modLaunch_replies (s : State) (f : LaunchUnit → LaunchUnit) : (s.modLaunch f).replies = s.replies := rfl
@[simp] theorem State.modLaunch_outbox (s : State) (f : LaunchUnit → LaunchUnit) : (s.modLaunch f).outbox = s.outbox := rfl
@[simp] theorem State.modLaunch_hostReqs (s : State) (f : LaunchUnit → LaunchUnit) : (s.modLaunch f).hostReqs = s.hostReqs := rfl
@[simp] theorem State.modLaunch_tags (s : State) (f : LaunchUnit → LaunchUnit) : (s.modLaunch f).tags = s.tags := rfl
@[simp] theorem State.modLaunch_gens (s : State) (f : LaunchUnit → LaunchUnit) : (s.modLaunch f).gens = s.gens := rfl
@[simp] theorem State.modLaunch_entries (s : State) (f : LaunchUnit → LaunchUnit) : (s.modLaunch f).entries = s.entries := rfl
@[simp] theorem State.modLaunch_slices (s : State) (f : LaunchUnit → LaunchUnit) : (s.modLaunch f).slices = s.slices := rfl
@[simp] theorem State.modLaunch_queues (s : State) (f : LaunchUnit → LaunchUnit) : (s.modLaunch f).queues = s.queues := rfl
@[simp] theorem State.modLaunch_frames (s : State) (f : LaunchUnit → LaunchUnit) : (s.modLaunch f).frames = s.frames := rfl
@[simp] theorem State.modLaunch_mesh (s : State) (f : LaunchUnit → LaunchUnit) : (s.modLaunch f).mesh = s.mesh := rfl
@[simp] theorem State.modLaunch_services (s : State) (f : LaunchUnit → LaunchUnit) : (s.modLaunch f).services = s.services := rfl
@[simp] theorem State.modLaunch_bwin (s : State) (f : LaunchUnit → LaunchUnit) : (s.modLaunch f).bwin = s.bwin := rfl
@[simp] theorem State.modLaunch_hdSvw (s : State) (f : LaunchUnit → LaunchUnit) : (s.modLaunch f).hdSvw = s.hdSvw := rfl
@[simp] theorem State.modLaunch_hdSel (s : State) (f : LaunchUnit → LaunchUnit) : (s.modLaunch f).hdSel = s.hdSel := rfl
@[simp] theorem State.modLaunch_hdLatch (s : State) (f : LaunchUnit → LaunchUnit) : (s.modLaunch f).hdLatch = s.hdLatch := rfl
@[simp] theorem State.modLaunch_hdKeys (s : State) (f : LaunchUnit → LaunchUnit) : (s.modLaunch f).hdKeys = s.hdKeys := rfl
@[simp] theorem State.modLaunch_hdBoot (s : State) (f : LaunchUnit → LaunchUnit) : (s.modLaunch f).hdBoot = s.hdBoot := rfl
@[simp] theorem State.modLaunch_vaults (s : State) (f : LaunchUnit → LaunchUnit) : (s.modLaunch f).vaults = s.vaults := rfl
@[simp] theorem State.modLaunch_heatCoef (s : State) (f : LaunchUnit → LaunchUnit) : (s.modLaunch f).heatCoef = s.heatCoef := rfl
@[simp] theorem State.modLaunch_vaultFloor (s : State) (f : LaunchUnit → LaunchUnit) : (s.modLaunch f).vaultFloor = s.vaultFloor := rfl
@[simp] theorem State.modLaunch_heatCost (s : State) (f : LaunchUnit → LaunchUnit) : (s.modLaunch f).heatCost = s.heatCost := rfl
@[simp] theorem State.modLaunch_columns (s : State) (f : LaunchUnit → LaunchUnit) : (s.modLaunch f).columns = s.columns := rfl
@[simp] theorem State.modLaunch_refills (s : State) (f : LaunchUnit → LaunchUnit) : (s.modLaunch f).refills = s.refills := rfl
@[simp] theorem State.modLaunch_steps (s : State) (f : LaunchUnit → LaunchUnit) : (s.modLaunch f).steps = s.steps := rfl
@[simp] theorem State.modLaunch_regions (s : State) (f : LaunchUnit → LaunchUnit) : (s.modLaunch f).regions = s.regions := rfl
@[simp] theorem State.modLaunch_chunks (s : State) (f : LaunchUnit → LaunchUnit) : (s.modLaunch f).chunks = s.chunks := rfl
@[simp] theorem State.modLaunch_rxSeq (s : State) (f : LaunchUnit → LaunchUnit) : (s.modLaunch f).rxSeq = s.rxSeq := rfl
@[simp] theorem State.modLaunch_rxEarly (s : State) (f : LaunchUnit → LaunchUnit) : (s.modLaunch f).rxEarly = s.rxEarly := rfl
@[simp] theorem State.modLaunch_page (s : State) (f : LaunchUnit → LaunchUnit) : (s.modLaunch f).page = s.page := rfl
@[simp] theorem State.modLaunch_life (s : State) (f : LaunchUnit → LaunchUnit) : (s.modLaunch f).life = s.life := rfl
@[simp] theorem State.modLaunch_boot (s : State) (f : LaunchUnit → LaunchUnit) : (s.modLaunch f).boot = s.boot := rfl
@[simp] theorem State.modLaunch_time (s : State) (f : LaunchUnit → LaunchUnit) : (s.modLaunch f).time = s.time := rfl
@[simp] theorem State.modLaunch_link (s : State) (f : LaunchUnit → LaunchUnit) : (s.modLaunch f).link = s.link := rfl

/-! modLink. -/

@[simp] theorem State.modLink_now (s : State) (f : LinkUnit → LinkUnit) : (s.modLink f).now = s.now := rfl
@[simp] theorem State.modLink_agenda (s : State) (f : LinkUnit → LinkUnit) : (s.modLink f).agenda = s.agenda := rfl
@[simp] theorem State.modLink_cur (s : State) (f : LinkUnit → LinkUnit) : (s.modLink f).cur = s.cur := rfl
@[simp] theorem State.modLink_gather (s : State) (f : LinkUnit → LinkUnit) : (s.modLink f).gather = s.gather := rfl
@[simp] theorem State.modLink_late (s : State) (f : LinkUnit → LinkUnit) : (s.modLink f).late = s.late := rfl
@[simp] theorem State.modLink_free (s : State) (f : LinkUnit → LinkUnit) : (s.modLink f).free = s.free := rfl
@[simp] theorem State.modLink_nextNum (s : State) (f : LinkUnit → LinkUnit) : (s.modLink f).nextNum = s.nextNum := rfl
@[simp] theorem State.modLink_threads (s : State) (f : LinkUnit → LinkUnit) : (s.modLink f).threads = s.threads := rfl
@[simp] theorem State.modLink_wgs (s : State) (f : LinkUnit → LinkUnit) : (s.modLink f).wgs = s.wgs := rfl
@[simp] theorem State.modLink_cores (s : State) (f : LinkUnit → LinkUnit) : (s.modLink f).cores = s.cores := rfl
@[simp] theorem State.modLink_vmem (s : State) (f : LinkUnit → LinkUnit) : (s.modLink f).vmem = s.vmem := rfl
@[simp] theorem State.modLink_wmem (s : State) (f : LinkUnit → LinkUnit) : (s.modLink f).wmem = s.wmem := rfl
@[simp] theorem State.modLink_accs (s : State) (f : LinkUnit → LinkUnit) : (s.modLink f).accs = s.accs := rfl
@[simp] theorem State.modLink_replies (s : State) (f : LinkUnit → LinkUnit) : (s.modLink f).replies = s.replies := rfl
@[simp] theorem State.modLink_outbox (s : State) (f : LinkUnit → LinkUnit) : (s.modLink f).outbox = s.outbox := rfl
@[simp] theorem State.modLink_hostReqs (s : State) (f : LinkUnit → LinkUnit) : (s.modLink f).hostReqs = s.hostReqs := rfl
@[simp] theorem State.modLink_tags (s : State) (f : LinkUnit → LinkUnit) : (s.modLink f).tags = s.tags := rfl
@[simp] theorem State.modLink_gens (s : State) (f : LinkUnit → LinkUnit) : (s.modLink f).gens = s.gens := rfl
@[simp] theorem State.modLink_entries (s : State) (f : LinkUnit → LinkUnit) : (s.modLink f).entries = s.entries := rfl
@[simp] theorem State.modLink_slices (s : State) (f : LinkUnit → LinkUnit) : (s.modLink f).slices = s.slices := rfl
@[simp] theorem State.modLink_queues (s : State) (f : LinkUnit → LinkUnit) : (s.modLink f).queues = s.queues := rfl
@[simp] theorem State.modLink_frames (s : State) (f : LinkUnit → LinkUnit) : (s.modLink f).frames = s.frames := rfl
@[simp] theorem State.modLink_mesh (s : State) (f : LinkUnit → LinkUnit) : (s.modLink f).mesh = s.mesh := rfl
@[simp] theorem State.modLink_services (s : State) (f : LinkUnit → LinkUnit) : (s.modLink f).services = s.services := rfl
@[simp] theorem State.modLink_bwin (s : State) (f : LinkUnit → LinkUnit) : (s.modLink f).bwin = s.bwin := rfl
@[simp] theorem State.modLink_hdSvw (s : State) (f : LinkUnit → LinkUnit) : (s.modLink f).hdSvw = s.hdSvw := rfl
@[simp] theorem State.modLink_hdSel (s : State) (f : LinkUnit → LinkUnit) : (s.modLink f).hdSel = s.hdSel := rfl
@[simp] theorem State.modLink_hdLatch (s : State) (f : LinkUnit → LinkUnit) : (s.modLink f).hdLatch = s.hdLatch := rfl
@[simp] theorem State.modLink_hdKeys (s : State) (f : LinkUnit → LinkUnit) : (s.modLink f).hdKeys = s.hdKeys := rfl
@[simp] theorem State.modLink_hdBoot (s : State) (f : LinkUnit → LinkUnit) : (s.modLink f).hdBoot = s.hdBoot := rfl
@[simp] theorem State.modLink_vaults (s : State) (f : LinkUnit → LinkUnit) : (s.modLink f).vaults = s.vaults := rfl
@[simp] theorem State.modLink_heatCoef (s : State) (f : LinkUnit → LinkUnit) : (s.modLink f).heatCoef = s.heatCoef := rfl
@[simp] theorem State.modLink_vaultFloor (s : State) (f : LinkUnit → LinkUnit) : (s.modLink f).vaultFloor = s.vaultFloor := rfl
@[simp] theorem State.modLink_heatCost (s : State) (f : LinkUnit → LinkUnit) : (s.modLink f).heatCost = s.heatCost := rfl
@[simp] theorem State.modLink_columns (s : State) (f : LinkUnit → LinkUnit) : (s.modLink f).columns = s.columns := rfl
@[simp] theorem State.modLink_refills (s : State) (f : LinkUnit → LinkUnit) : (s.modLink f).refills = s.refills := rfl
@[simp] theorem State.modLink_steps (s : State) (f : LinkUnit → LinkUnit) : (s.modLink f).steps = s.steps := rfl
@[simp] theorem State.modLink_regions (s : State) (f : LinkUnit → LinkUnit) : (s.modLink f).regions = s.regions := rfl
@[simp] theorem State.modLink_chunks (s : State) (f : LinkUnit → LinkUnit) : (s.modLink f).chunks = s.chunks := rfl
@[simp] theorem State.modLink_rxSeq (s : State) (f : LinkUnit → LinkUnit) : (s.modLink f).rxSeq = s.rxSeq := rfl
@[simp] theorem State.modLink_rxEarly (s : State) (f : LinkUnit → LinkUnit) : (s.modLink f).rxEarly = s.rxEarly := rfl
@[simp] theorem State.modLink_page (s : State) (f : LinkUnit → LinkUnit) : (s.modLink f).page = s.page := rfl
@[simp] theorem State.modLink_launch (s : State) (f : LinkUnit → LinkUnit) : (s.modLink f).launch = s.launch := rfl
@[simp] theorem State.modLink_life (s : State) (f : LinkUnit → LinkUnit) : (s.modLink f).life = s.life := rfl
@[simp] theorem State.modLink_boot (s : State) (f : LinkUnit → LinkUnit) : (s.modLink f).boot = s.boot := rfl
@[simp] theorem State.modLink_time (s : State) (f : LinkUnit → LinkUnit) : (s.modLink f).time = s.time := rfl

/-! modTime. -/

@[simp] theorem State.modTime_now (s : State) (f : TimeUnit → TimeUnit) : (s.modTime f).now = s.now := rfl
@[simp] theorem State.modTime_agenda (s : State) (f : TimeUnit → TimeUnit) : (s.modTime f).agenda = s.agenda := rfl
@[simp] theorem State.modTime_cur (s : State) (f : TimeUnit → TimeUnit) : (s.modTime f).cur = s.cur := rfl
@[simp] theorem State.modTime_gather (s : State) (f : TimeUnit → TimeUnit) : (s.modTime f).gather = s.gather := rfl
@[simp] theorem State.modTime_late (s : State) (f : TimeUnit → TimeUnit) : (s.modTime f).late = s.late := rfl
@[simp] theorem State.modTime_free (s : State) (f : TimeUnit → TimeUnit) : (s.modTime f).free = s.free := rfl
@[simp] theorem State.modTime_nextNum (s : State) (f : TimeUnit → TimeUnit) : (s.modTime f).nextNum = s.nextNum := rfl
@[simp] theorem State.modTime_threads (s : State) (f : TimeUnit → TimeUnit) : (s.modTime f).threads = s.threads := rfl
@[simp] theorem State.modTime_wgs (s : State) (f : TimeUnit → TimeUnit) : (s.modTime f).wgs = s.wgs := rfl
@[simp] theorem State.modTime_cores (s : State) (f : TimeUnit → TimeUnit) : (s.modTime f).cores = s.cores := rfl
@[simp] theorem State.modTime_vmem (s : State) (f : TimeUnit → TimeUnit) : (s.modTime f).vmem = s.vmem := rfl
@[simp] theorem State.modTime_wmem (s : State) (f : TimeUnit → TimeUnit) : (s.modTime f).wmem = s.wmem := rfl
@[simp] theorem State.modTime_accs (s : State) (f : TimeUnit → TimeUnit) : (s.modTime f).accs = s.accs := rfl
@[simp] theorem State.modTime_replies (s : State) (f : TimeUnit → TimeUnit) : (s.modTime f).replies = s.replies := rfl
@[simp] theorem State.modTime_outbox (s : State) (f : TimeUnit → TimeUnit) : (s.modTime f).outbox = s.outbox := rfl
@[simp] theorem State.modTime_hostReqs (s : State) (f : TimeUnit → TimeUnit) : (s.modTime f).hostReqs = s.hostReqs := rfl
@[simp] theorem State.modTime_tags (s : State) (f : TimeUnit → TimeUnit) : (s.modTime f).tags = s.tags := rfl
@[simp] theorem State.modTime_gens (s : State) (f : TimeUnit → TimeUnit) : (s.modTime f).gens = s.gens := rfl
@[simp] theorem State.modTime_entries (s : State) (f : TimeUnit → TimeUnit) : (s.modTime f).entries = s.entries := rfl
@[simp] theorem State.modTime_slices (s : State) (f : TimeUnit → TimeUnit) : (s.modTime f).slices = s.slices := rfl
@[simp] theorem State.modTime_queues (s : State) (f : TimeUnit → TimeUnit) : (s.modTime f).queues = s.queues := rfl
@[simp] theorem State.modTime_frames (s : State) (f : TimeUnit → TimeUnit) : (s.modTime f).frames = s.frames := rfl
@[simp] theorem State.modTime_mesh (s : State) (f : TimeUnit → TimeUnit) : (s.modTime f).mesh = s.mesh := rfl
@[simp] theorem State.modTime_services (s : State) (f : TimeUnit → TimeUnit) : (s.modTime f).services = s.services := rfl
@[simp] theorem State.modTime_bwin (s : State) (f : TimeUnit → TimeUnit) : (s.modTime f).bwin = s.bwin := rfl
@[simp] theorem State.modTime_hdSvw (s : State) (f : TimeUnit → TimeUnit) : (s.modTime f).hdSvw = s.hdSvw := rfl
@[simp] theorem State.modTime_hdSel (s : State) (f : TimeUnit → TimeUnit) : (s.modTime f).hdSel = s.hdSel := rfl
@[simp] theorem State.modTime_hdLatch (s : State) (f : TimeUnit → TimeUnit) : (s.modTime f).hdLatch = s.hdLatch := rfl
@[simp] theorem State.modTime_hdKeys (s : State) (f : TimeUnit → TimeUnit) : (s.modTime f).hdKeys = s.hdKeys := rfl
@[simp] theorem State.modTime_hdBoot (s : State) (f : TimeUnit → TimeUnit) : (s.modTime f).hdBoot = s.hdBoot := rfl
@[simp] theorem State.modTime_vaults (s : State) (f : TimeUnit → TimeUnit) : (s.modTime f).vaults = s.vaults := rfl
@[simp] theorem State.modTime_heatCoef (s : State) (f : TimeUnit → TimeUnit) : (s.modTime f).heatCoef = s.heatCoef := rfl
@[simp] theorem State.modTime_vaultFloor (s : State) (f : TimeUnit → TimeUnit) : (s.modTime f).vaultFloor = s.vaultFloor := rfl
@[simp] theorem State.modTime_heatCost (s : State) (f : TimeUnit → TimeUnit) : (s.modTime f).heatCost = s.heatCost := rfl
@[simp] theorem State.modTime_columns (s : State) (f : TimeUnit → TimeUnit) : (s.modTime f).columns = s.columns := rfl
@[simp] theorem State.modTime_refills (s : State) (f : TimeUnit → TimeUnit) : (s.modTime f).refills = s.refills := rfl
@[simp] theorem State.modTime_steps (s : State) (f : TimeUnit → TimeUnit) : (s.modTime f).steps = s.steps := rfl
@[simp] theorem State.modTime_regions (s : State) (f : TimeUnit → TimeUnit) : (s.modTime f).regions = s.regions := rfl
@[simp] theorem State.modTime_chunks (s : State) (f : TimeUnit → TimeUnit) : (s.modTime f).chunks = s.chunks := rfl
@[simp] theorem State.modTime_rxSeq (s : State) (f : TimeUnit → TimeUnit) : (s.modTime f).rxSeq = s.rxSeq := rfl
@[simp] theorem State.modTime_rxEarly (s : State) (f : TimeUnit → TimeUnit) : (s.modTime f).rxEarly = s.rxEarly := rfl
@[simp] theorem State.modTime_page (s : State) (f : TimeUnit → TimeUnit) : (s.modTime f).page = s.page := rfl
@[simp] theorem State.modTime_launch (s : State) (f : TimeUnit → TimeUnit) : (s.modTime f).launch = s.launch := rfl
@[simp] theorem State.modTime_life (s : State) (f : TimeUnit → TimeUnit) : (s.modTime f).life = s.life := rfl
@[simp] theorem State.modTime_boot (s : State) (f : TimeUnit → TimeUnit) : (s.modTime f).boot = s.boot := rfl
@[simp] theorem State.modTime_link (s : State) (f : TimeUnit → TimeUnit) : (s.modTime f).link = s.link := rfl

/-! modBoot. -/

@[simp] theorem State.modBoot_now (s : State) (f : BootUnit → BootUnit) : (s.modBoot f).now = s.now := rfl
@[simp] theorem State.modBoot_agenda (s : State) (f : BootUnit → BootUnit) : (s.modBoot f).agenda = s.agenda := rfl
@[simp] theorem State.modBoot_cur (s : State) (f : BootUnit → BootUnit) : (s.modBoot f).cur = s.cur := rfl
@[simp] theorem State.modBoot_gather (s : State) (f : BootUnit → BootUnit) : (s.modBoot f).gather = s.gather := rfl
@[simp] theorem State.modBoot_late (s : State) (f : BootUnit → BootUnit) : (s.modBoot f).late = s.late := rfl
@[simp] theorem State.modBoot_free (s : State) (f : BootUnit → BootUnit) : (s.modBoot f).free = s.free := rfl
@[simp] theorem State.modBoot_nextNum (s : State) (f : BootUnit → BootUnit) : (s.modBoot f).nextNum = s.nextNum := rfl
@[simp] theorem State.modBoot_threads (s : State) (f : BootUnit → BootUnit) : (s.modBoot f).threads = s.threads := rfl
@[simp] theorem State.modBoot_wgs (s : State) (f : BootUnit → BootUnit) : (s.modBoot f).wgs = s.wgs := rfl
@[simp] theorem State.modBoot_cores (s : State) (f : BootUnit → BootUnit) : (s.modBoot f).cores = s.cores := rfl
@[simp] theorem State.modBoot_vmem (s : State) (f : BootUnit → BootUnit) : (s.modBoot f).vmem = s.vmem := rfl
@[simp] theorem State.modBoot_wmem (s : State) (f : BootUnit → BootUnit) : (s.modBoot f).wmem = s.wmem := rfl
@[simp] theorem State.modBoot_accs (s : State) (f : BootUnit → BootUnit) : (s.modBoot f).accs = s.accs := rfl
@[simp] theorem State.modBoot_replies (s : State) (f : BootUnit → BootUnit) : (s.modBoot f).replies = s.replies := rfl
@[simp] theorem State.modBoot_outbox (s : State) (f : BootUnit → BootUnit) : (s.modBoot f).outbox = s.outbox := rfl
@[simp] theorem State.modBoot_hostReqs (s : State) (f : BootUnit → BootUnit) : (s.modBoot f).hostReqs = s.hostReqs := rfl
@[simp] theorem State.modBoot_tags (s : State) (f : BootUnit → BootUnit) : (s.modBoot f).tags = s.tags := rfl
@[simp] theorem State.modBoot_gens (s : State) (f : BootUnit → BootUnit) : (s.modBoot f).gens = s.gens := rfl
@[simp] theorem State.modBoot_entries (s : State) (f : BootUnit → BootUnit) : (s.modBoot f).entries = s.entries := rfl
@[simp] theorem State.modBoot_slices (s : State) (f : BootUnit → BootUnit) : (s.modBoot f).slices = s.slices := rfl
@[simp] theorem State.modBoot_queues (s : State) (f : BootUnit → BootUnit) : (s.modBoot f).queues = s.queues := rfl
@[simp] theorem State.modBoot_frames (s : State) (f : BootUnit → BootUnit) : (s.modBoot f).frames = s.frames := rfl
@[simp] theorem State.modBoot_mesh (s : State) (f : BootUnit → BootUnit) : (s.modBoot f).mesh = s.mesh := rfl
@[simp] theorem State.modBoot_services (s : State) (f : BootUnit → BootUnit) : (s.modBoot f).services = s.services := rfl
@[simp] theorem State.modBoot_bwin (s : State) (f : BootUnit → BootUnit) : (s.modBoot f).bwin = s.bwin := rfl
@[simp] theorem State.modBoot_hdSvw (s : State) (f : BootUnit → BootUnit) : (s.modBoot f).hdSvw = s.hdSvw := rfl
@[simp] theorem State.modBoot_hdSel (s : State) (f : BootUnit → BootUnit) : (s.modBoot f).hdSel = s.hdSel := rfl
@[simp] theorem State.modBoot_hdLatch (s : State) (f : BootUnit → BootUnit) : (s.modBoot f).hdLatch = s.hdLatch := rfl
@[simp] theorem State.modBoot_hdKeys (s : State) (f : BootUnit → BootUnit) : (s.modBoot f).hdKeys = s.hdKeys := rfl
@[simp] theorem State.modBoot_hdBoot (s : State) (f : BootUnit → BootUnit) : (s.modBoot f).hdBoot = s.hdBoot := rfl
@[simp] theorem State.modBoot_vaults (s : State) (f : BootUnit → BootUnit) : (s.modBoot f).vaults = s.vaults := rfl
@[simp] theorem State.modBoot_heatCoef (s : State) (f : BootUnit → BootUnit) : (s.modBoot f).heatCoef = s.heatCoef := rfl
@[simp] theorem State.modBoot_vaultFloor (s : State) (f : BootUnit → BootUnit) : (s.modBoot f).vaultFloor = s.vaultFloor := rfl
@[simp] theorem State.modBoot_heatCost (s : State) (f : BootUnit → BootUnit) : (s.modBoot f).heatCost = s.heatCost := rfl
@[simp] theorem State.modBoot_columns (s : State) (f : BootUnit → BootUnit) : (s.modBoot f).columns = s.columns := rfl
@[simp] theorem State.modBoot_refills (s : State) (f : BootUnit → BootUnit) : (s.modBoot f).refills = s.refills := rfl
@[simp] theorem State.modBoot_steps (s : State) (f : BootUnit → BootUnit) : (s.modBoot f).steps = s.steps := rfl
@[simp] theorem State.modBoot_regions (s : State) (f : BootUnit → BootUnit) : (s.modBoot f).regions = s.regions := rfl
@[simp] theorem State.modBoot_chunks (s : State) (f : BootUnit → BootUnit) : (s.modBoot f).chunks = s.chunks := rfl
@[simp] theorem State.modBoot_rxSeq (s : State) (f : BootUnit → BootUnit) : (s.modBoot f).rxSeq = s.rxSeq := rfl
@[simp] theorem State.modBoot_rxEarly (s : State) (f : BootUnit → BootUnit) : (s.modBoot f).rxEarly = s.rxEarly := rfl
@[simp] theorem State.modBoot_page (s : State) (f : BootUnit → BootUnit) : (s.modBoot f).page = s.page := rfl
@[simp] theorem State.modBoot_launch (s : State) (f : BootUnit → BootUnit) : (s.modBoot f).launch = s.launch := rfl
@[simp] theorem State.modBoot_life (s : State) (f : BootUnit → BootUnit) : (s.modBoot f).life = s.life := rfl
@[simp] theorem State.modBoot_time (s : State) (f : BootUnit → BootUnit) : (s.modBoot f).time = s.time := rfl
@[simp] theorem State.modBoot_link (s : State) (f : BootUnit → BootUnit) : (s.modBoot f).link = s.link := rfl

/-! modLqueue. -/

@[simp] theorem State.modLqueue_now (s : State) (q : Nat) (f : LaunchQueue → LaunchQueue) : (s.modLqueue q f).now = s.now := rfl
@[simp] theorem State.modLqueue_agenda (s : State) (q : Nat) (f : LaunchQueue → LaunchQueue) : (s.modLqueue q f).agenda = s.agenda := rfl
@[simp] theorem State.modLqueue_cur (s : State) (q : Nat) (f : LaunchQueue → LaunchQueue) : (s.modLqueue q f).cur = s.cur := rfl
@[simp] theorem State.modLqueue_gather (s : State) (q : Nat) (f : LaunchQueue → LaunchQueue) : (s.modLqueue q f).gather = s.gather := rfl
@[simp] theorem State.modLqueue_late (s : State) (q : Nat) (f : LaunchQueue → LaunchQueue) : (s.modLqueue q f).late = s.late := rfl
@[simp] theorem State.modLqueue_free (s : State) (q : Nat) (f : LaunchQueue → LaunchQueue) : (s.modLqueue q f).free = s.free := rfl
@[simp] theorem State.modLqueue_nextNum (s : State) (q : Nat) (f : LaunchQueue → LaunchQueue) : (s.modLqueue q f).nextNum = s.nextNum := rfl
@[simp] theorem State.modLqueue_threads (s : State) (q : Nat) (f : LaunchQueue → LaunchQueue) : (s.modLqueue q f).threads = s.threads := rfl
@[simp] theorem State.modLqueue_wgs (s : State) (q : Nat) (f : LaunchQueue → LaunchQueue) : (s.modLqueue q f).wgs = s.wgs := rfl
@[simp] theorem State.modLqueue_cores (s : State) (q : Nat) (f : LaunchQueue → LaunchQueue) : (s.modLqueue q f).cores = s.cores := rfl
@[simp] theorem State.modLqueue_vmem (s : State) (q : Nat) (f : LaunchQueue → LaunchQueue) : (s.modLqueue q f).vmem = s.vmem := rfl
@[simp] theorem State.modLqueue_wmem (s : State) (q : Nat) (f : LaunchQueue → LaunchQueue) : (s.modLqueue q f).wmem = s.wmem := rfl
@[simp] theorem State.modLqueue_accs (s : State) (q : Nat) (f : LaunchQueue → LaunchQueue) : (s.modLqueue q f).accs = s.accs := rfl
@[simp] theorem State.modLqueue_replies (s : State) (q : Nat) (f : LaunchQueue → LaunchQueue) : (s.modLqueue q f).replies = s.replies := rfl
@[simp] theorem State.modLqueue_outbox (s : State) (q : Nat) (f : LaunchQueue → LaunchQueue) : (s.modLqueue q f).outbox = s.outbox := rfl
@[simp] theorem State.modLqueue_hostReqs (s : State) (q : Nat) (f : LaunchQueue → LaunchQueue) : (s.modLqueue q f).hostReqs = s.hostReqs := rfl
@[simp] theorem State.modLqueue_tags (s : State) (q : Nat) (f : LaunchQueue → LaunchQueue) : (s.modLqueue q f).tags = s.tags := rfl
@[simp] theorem State.modLqueue_gens (s : State) (q : Nat) (f : LaunchQueue → LaunchQueue) : (s.modLqueue q f).gens = s.gens := rfl
@[simp] theorem State.modLqueue_entries (s : State) (q : Nat) (f : LaunchQueue → LaunchQueue) : (s.modLqueue q f).entries = s.entries := rfl
@[simp] theorem State.modLqueue_slices (s : State) (q : Nat) (f : LaunchQueue → LaunchQueue) : (s.modLqueue q f).slices = s.slices := rfl
@[simp] theorem State.modLqueue_queues (s : State) (q : Nat) (f : LaunchQueue → LaunchQueue) : (s.modLqueue q f).queues = s.queues := rfl
@[simp] theorem State.modLqueue_frames (s : State) (q : Nat) (f : LaunchQueue → LaunchQueue) : (s.modLqueue q f).frames = s.frames := rfl
@[simp] theorem State.modLqueue_mesh (s : State) (q : Nat) (f : LaunchQueue → LaunchQueue) : (s.modLqueue q f).mesh = s.mesh := rfl
@[simp] theorem State.modLqueue_services (s : State) (q : Nat) (f : LaunchQueue → LaunchQueue) : (s.modLqueue q f).services = s.services := rfl
@[simp] theorem State.modLqueue_bwin (s : State) (q : Nat) (f : LaunchQueue → LaunchQueue) : (s.modLqueue q f).bwin = s.bwin := rfl
@[simp] theorem State.modLqueue_hdSvw (s : State) (q : Nat) (f : LaunchQueue → LaunchQueue) : (s.modLqueue q f).hdSvw = s.hdSvw := rfl
@[simp] theorem State.modLqueue_hdSel (s : State) (q : Nat) (f : LaunchQueue → LaunchQueue) : (s.modLqueue q f).hdSel = s.hdSel := rfl
@[simp] theorem State.modLqueue_hdLatch (s : State) (q : Nat) (f : LaunchQueue → LaunchQueue) : (s.modLqueue q f).hdLatch = s.hdLatch := rfl
@[simp] theorem State.modLqueue_hdKeys (s : State) (q : Nat) (f : LaunchQueue → LaunchQueue) : (s.modLqueue q f).hdKeys = s.hdKeys := rfl
@[simp] theorem State.modLqueue_hdBoot (s : State) (q : Nat) (f : LaunchQueue → LaunchQueue) : (s.modLqueue q f).hdBoot = s.hdBoot := rfl
@[simp] theorem State.modLqueue_vaults (s : State) (q : Nat) (f : LaunchQueue → LaunchQueue) : (s.modLqueue q f).vaults = s.vaults := rfl
@[simp] theorem State.modLqueue_heatCoef (s : State) (q : Nat) (f : LaunchQueue → LaunchQueue) : (s.modLqueue q f).heatCoef = s.heatCoef := rfl
@[simp] theorem State.modLqueue_vaultFloor (s : State) (q : Nat) (f : LaunchQueue → LaunchQueue) : (s.modLqueue q f).vaultFloor = s.vaultFloor := rfl
@[simp] theorem State.modLqueue_heatCost (s : State) (q : Nat) (f : LaunchQueue → LaunchQueue) : (s.modLqueue q f).heatCost = s.heatCost := rfl
@[simp] theorem State.modLqueue_columns (s : State) (q : Nat) (f : LaunchQueue → LaunchQueue) : (s.modLqueue q f).columns = s.columns := rfl
@[simp] theorem State.modLqueue_refills (s : State) (q : Nat) (f : LaunchQueue → LaunchQueue) : (s.modLqueue q f).refills = s.refills := rfl
@[simp] theorem State.modLqueue_steps (s : State) (q : Nat) (f : LaunchQueue → LaunchQueue) : (s.modLqueue q f).steps = s.steps := rfl
@[simp] theorem State.modLqueue_regions (s : State) (q : Nat) (f : LaunchQueue → LaunchQueue) : (s.modLqueue q f).regions = s.regions := rfl
@[simp] theorem State.modLqueue_chunks (s : State) (q : Nat) (f : LaunchQueue → LaunchQueue) : (s.modLqueue q f).chunks = s.chunks := rfl
@[simp] theorem State.modLqueue_rxSeq (s : State) (q : Nat) (f : LaunchQueue → LaunchQueue) : (s.modLqueue q f).rxSeq = s.rxSeq := rfl
@[simp] theorem State.modLqueue_rxEarly (s : State) (q : Nat) (f : LaunchQueue → LaunchQueue) : (s.modLqueue q f).rxEarly = s.rxEarly := rfl
@[simp] theorem State.modLqueue_page (s : State) (q : Nat) (f : LaunchQueue → LaunchQueue) : (s.modLqueue q f).page = s.page := rfl
@[simp] theorem State.modLqueue_life (s : State) (q : Nat) (f : LaunchQueue → LaunchQueue) : (s.modLqueue q f).life = s.life := rfl
@[simp] theorem State.modLqueue_boot (s : State) (q : Nat) (f : LaunchQueue → LaunchQueue) : (s.modLqueue q f).boot = s.boot := rfl
@[simp] theorem State.modLqueue_time (s : State) (q : Nat) (f : LaunchQueue → LaunchQueue) : (s.modLqueue q f).time = s.time := rfl
@[simp] theorem State.modLqueue_link (s : State) (q : Nat) (f : LaunchQueue → LaunchQueue) : (s.modLqueue q f).link = s.link := rfl

/-! modThread. -/

@[simp] theorem State.modThread_now (s : State) (k : Nat) (f : Thread → Thread) : (s.modThread k f).now = s.now := by
  unfold State.modThread; split <;> rfl
@[simp] theorem State.modThread_agenda (s : State) (k : Nat) (f : Thread → Thread) : (s.modThread k f).agenda = s.agenda := by
  unfold State.modThread; split <;> rfl
@[simp] theorem State.modThread_cur (s : State) (k : Nat) (f : Thread → Thread) : (s.modThread k f).cur = s.cur := by
  unfold State.modThread; split <;> rfl
@[simp] theorem State.modThread_gather (s : State) (k : Nat) (f : Thread → Thread) : (s.modThread k f).gather = s.gather := by
  unfold State.modThread; split <;> rfl
@[simp] theorem State.modThread_late (s : State) (k : Nat) (f : Thread → Thread) : (s.modThread k f).late = s.late := by
  unfold State.modThread; split <;> rfl
@[simp] theorem State.modThread_free (s : State) (k : Nat) (f : Thread → Thread) : (s.modThread k f).free = s.free := by
  unfold State.modThread; split <;> rfl
@[simp] theorem State.modThread_nextNum (s : State) (k : Nat) (f : Thread → Thread) : (s.modThread k f).nextNum = s.nextNum := by
  unfold State.modThread; split <;> rfl
@[simp] theorem State.modThread_wgs (s : State) (k : Nat) (f : Thread → Thread) : (s.modThread k f).wgs = s.wgs := by
  unfold State.modThread; split <;> rfl
@[simp] theorem State.modThread_cores (s : State) (k : Nat) (f : Thread → Thread) : (s.modThread k f).cores = s.cores := by
  unfold State.modThread; split <;> rfl
@[simp] theorem State.modThread_vmem (s : State) (k : Nat) (f : Thread → Thread) : (s.modThread k f).vmem = s.vmem := by
  unfold State.modThread; split <;> rfl
@[simp] theorem State.modThread_wmem (s : State) (k : Nat) (f : Thread → Thread) : (s.modThread k f).wmem = s.wmem := by
  unfold State.modThread; split <;> rfl
@[simp] theorem State.modThread_accs (s : State) (k : Nat) (f : Thread → Thread) : (s.modThread k f).accs = s.accs := by
  unfold State.modThread; split <;> rfl
@[simp] theorem State.modThread_replies (s : State) (k : Nat) (f : Thread → Thread) : (s.modThread k f).replies = s.replies := by
  unfold State.modThread; split <;> rfl
@[simp] theorem State.modThread_outbox (s : State) (k : Nat) (f : Thread → Thread) : (s.modThread k f).outbox = s.outbox := by
  unfold State.modThread; split <;> rfl
@[simp] theorem State.modThread_hostReqs (s : State) (k : Nat) (f : Thread → Thread) : (s.modThread k f).hostReqs = s.hostReqs := by
  unfold State.modThread; split <;> rfl
@[simp] theorem State.modThread_tags (s : State) (k : Nat) (f : Thread → Thread) : (s.modThread k f).tags = s.tags := by
  unfold State.modThread; split <;> rfl
@[simp] theorem State.modThread_gens (s : State) (k : Nat) (f : Thread → Thread) : (s.modThread k f).gens = s.gens := by
  unfold State.modThread; split <;> rfl
@[simp] theorem State.modThread_entries (s : State) (k : Nat) (f : Thread → Thread) : (s.modThread k f).entries = s.entries := by
  unfold State.modThread; split <;> rfl
@[simp] theorem State.modThread_slices (s : State) (k : Nat) (f : Thread → Thread) : (s.modThread k f).slices = s.slices := by
  unfold State.modThread; split <;> rfl
@[simp] theorem State.modThread_queues (s : State) (k : Nat) (f : Thread → Thread) : (s.modThread k f).queues = s.queues := by
  unfold State.modThread; split <;> rfl
@[simp] theorem State.modThread_frames (s : State) (k : Nat) (f : Thread → Thread) : (s.modThread k f).frames = s.frames := by
  unfold State.modThread; split <;> rfl
@[simp] theorem State.modThread_mesh (s : State) (k : Nat) (f : Thread → Thread) : (s.modThread k f).mesh = s.mesh := by
  unfold State.modThread; split <;> rfl
@[simp] theorem State.modThread_services (s : State) (k : Nat) (f : Thread → Thread) : (s.modThread k f).services = s.services := by
  unfold State.modThread; split <;> rfl
@[simp] theorem State.modThread_bwin (s : State) (k : Nat) (f : Thread → Thread) : (s.modThread k f).bwin = s.bwin := by
  unfold State.modThread; split <;> rfl
@[simp] theorem State.modThread_hdSvw (s : State) (k : Nat) (f : Thread → Thread) : (s.modThread k f).hdSvw = s.hdSvw := by
  unfold State.modThread; split <;> rfl
@[simp] theorem State.modThread_hdSel (s : State) (k : Nat) (f : Thread → Thread) : (s.modThread k f).hdSel = s.hdSel := by
  unfold State.modThread; split <;> rfl
@[simp] theorem State.modThread_hdLatch (s : State) (k : Nat) (f : Thread → Thread) : (s.modThread k f).hdLatch = s.hdLatch := by
  unfold State.modThread; split <;> rfl
@[simp] theorem State.modThread_hdKeys (s : State) (k : Nat) (f : Thread → Thread) : (s.modThread k f).hdKeys = s.hdKeys := by
  unfold State.modThread; split <;> rfl
@[simp] theorem State.modThread_hdBoot (s : State) (k : Nat) (f : Thread → Thread) : (s.modThread k f).hdBoot = s.hdBoot := by
  unfold State.modThread; split <;> rfl
@[simp] theorem State.modThread_vaults (s : State) (k : Nat) (f : Thread → Thread) : (s.modThread k f).vaults = s.vaults := by
  unfold State.modThread; split <;> rfl
@[simp] theorem State.modThread_heatCoef (s : State) (k : Nat) (f : Thread → Thread) : (s.modThread k f).heatCoef = s.heatCoef := by
  unfold State.modThread; split <;> rfl
@[simp] theorem State.modThread_vaultFloor (s : State) (k : Nat) (f : Thread → Thread) : (s.modThread k f).vaultFloor = s.vaultFloor := by
  unfold State.modThread; split <;> rfl
@[simp] theorem State.modThread_heatCost (s : State) (k : Nat) (f : Thread → Thread) : (s.modThread k f).heatCost = s.heatCost := by
  unfold State.modThread; split <;> rfl
@[simp] theorem State.modThread_columns (s : State) (k : Nat) (f : Thread → Thread) : (s.modThread k f).columns = s.columns := by
  unfold State.modThread; split <;> rfl
@[simp] theorem State.modThread_refills (s : State) (k : Nat) (f : Thread → Thread) : (s.modThread k f).refills = s.refills := by
  unfold State.modThread; split <;> rfl
@[simp] theorem State.modThread_steps (s : State) (k : Nat) (f : Thread → Thread) : (s.modThread k f).steps = s.steps := by
  unfold State.modThread; split <;> rfl
@[simp] theorem State.modThread_regions (s : State) (k : Nat) (f : Thread → Thread) : (s.modThread k f).regions = s.regions := by
  unfold State.modThread; split <;> rfl
@[simp] theorem State.modThread_chunks (s : State) (k : Nat) (f : Thread → Thread) : (s.modThread k f).chunks = s.chunks := by
  unfold State.modThread; split <;> rfl
@[simp] theorem State.modThread_rxSeq (s : State) (k : Nat) (f : Thread → Thread) : (s.modThread k f).rxSeq = s.rxSeq := by
  unfold State.modThread; split <;> rfl
@[simp] theorem State.modThread_rxEarly (s : State) (k : Nat) (f : Thread → Thread) : (s.modThread k f).rxEarly = s.rxEarly := by
  unfold State.modThread; split <;> rfl
@[simp] theorem State.modThread_page (s : State) (k : Nat) (f : Thread → Thread) : (s.modThread k f).page = s.page := by
  unfold State.modThread; split <;> rfl
@[simp] theorem State.modThread_launch (s : State) (k : Nat) (f : Thread → Thread) : (s.modThread k f).launch = s.launch := by
  unfold State.modThread; split <;> rfl
@[simp] theorem State.modThread_life (s : State) (k : Nat) (f : Thread → Thread) : (s.modThread k f).life = s.life := by
  unfold State.modThread; split <;> rfl
@[simp] theorem State.modThread_boot (s : State) (k : Nat) (f : Thread → Thread) : (s.modThread k f).boot = s.boot := by
  unfold State.modThread; split <;> rfl
@[simp] theorem State.modThread_time (s : State) (k : Nat) (f : Thread → Thread) : (s.modThread k f).time = s.time := by
  unfold State.modThread; split <;> rfl
@[simp] theorem State.modThread_link (s : State) (k : Nat) (f : Thread → Thread) : (s.modThread k f).link = s.link := by
  unfold State.modThread; split <;> rfl

/-! modWg. -/

@[simp] theorem State.modWg_now (s : State) (g : Nat) (f : Workgroup → Workgroup) : (s.modWg g f).now = s.now := by
  unfold State.modWg; split <;> rfl
@[simp] theorem State.modWg_agenda (s : State) (g : Nat) (f : Workgroup → Workgroup) : (s.modWg g f).agenda = s.agenda := by
  unfold State.modWg; split <;> rfl
@[simp] theorem State.modWg_cur (s : State) (g : Nat) (f : Workgroup → Workgroup) : (s.modWg g f).cur = s.cur := by
  unfold State.modWg; split <;> rfl
@[simp] theorem State.modWg_gather (s : State) (g : Nat) (f : Workgroup → Workgroup) : (s.modWg g f).gather = s.gather := by
  unfold State.modWg; split <;> rfl
@[simp] theorem State.modWg_late (s : State) (g : Nat) (f : Workgroup → Workgroup) : (s.modWg g f).late = s.late := by
  unfold State.modWg; split <;> rfl
@[simp] theorem State.modWg_free (s : State) (g : Nat) (f : Workgroup → Workgroup) : (s.modWg g f).free = s.free := by
  unfold State.modWg; split <;> rfl
@[simp] theorem State.modWg_nextNum (s : State) (g : Nat) (f : Workgroup → Workgroup) : (s.modWg g f).nextNum = s.nextNum := by
  unfold State.modWg; split <;> rfl
@[simp] theorem State.modWg_threads (s : State) (g : Nat) (f : Workgroup → Workgroup) : (s.modWg g f).threads = s.threads := by
  unfold State.modWg; split <;> rfl
@[simp] theorem State.modWg_cores (s : State) (g : Nat) (f : Workgroup → Workgroup) : (s.modWg g f).cores = s.cores := by
  unfold State.modWg; split <;> rfl
@[simp] theorem State.modWg_vmem (s : State) (g : Nat) (f : Workgroup → Workgroup) : (s.modWg g f).vmem = s.vmem := by
  unfold State.modWg; split <;> rfl
@[simp] theorem State.modWg_wmem (s : State) (g : Nat) (f : Workgroup → Workgroup) : (s.modWg g f).wmem = s.wmem := by
  unfold State.modWg; split <;> rfl
@[simp] theorem State.modWg_accs (s : State) (g : Nat) (f : Workgroup → Workgroup) : (s.modWg g f).accs = s.accs := by
  unfold State.modWg; split <;> rfl
@[simp] theorem State.modWg_replies (s : State) (g : Nat) (f : Workgroup → Workgroup) : (s.modWg g f).replies = s.replies := by
  unfold State.modWg; split <;> rfl
@[simp] theorem State.modWg_outbox (s : State) (g : Nat) (f : Workgroup → Workgroup) : (s.modWg g f).outbox = s.outbox := by
  unfold State.modWg; split <;> rfl
@[simp] theorem State.modWg_hostReqs (s : State) (g : Nat) (f : Workgroup → Workgroup) : (s.modWg g f).hostReqs = s.hostReqs := by
  unfold State.modWg; split <;> rfl
@[simp] theorem State.modWg_tags (s : State) (g : Nat) (f : Workgroup → Workgroup) : (s.modWg g f).tags = s.tags := by
  unfold State.modWg; split <;> rfl
@[simp] theorem State.modWg_gens (s : State) (g : Nat) (f : Workgroup → Workgroup) : (s.modWg g f).gens = s.gens := by
  unfold State.modWg; split <;> rfl
@[simp] theorem State.modWg_entries (s : State) (g : Nat) (f : Workgroup → Workgroup) : (s.modWg g f).entries = s.entries := by
  unfold State.modWg; split <;> rfl
@[simp] theorem State.modWg_slices (s : State) (g : Nat) (f : Workgroup → Workgroup) : (s.modWg g f).slices = s.slices := by
  unfold State.modWg; split <;> rfl
@[simp] theorem State.modWg_queues (s : State) (g : Nat) (f : Workgroup → Workgroup) : (s.modWg g f).queues = s.queues := by
  unfold State.modWg; split <;> rfl
@[simp] theorem State.modWg_frames (s : State) (g : Nat) (f : Workgroup → Workgroup) : (s.modWg g f).frames = s.frames := by
  unfold State.modWg; split <;> rfl
@[simp] theorem State.modWg_mesh (s : State) (g : Nat) (f : Workgroup → Workgroup) : (s.modWg g f).mesh = s.mesh := by
  unfold State.modWg; split <;> rfl
@[simp] theorem State.modWg_services (s : State) (g : Nat) (f : Workgroup → Workgroup) : (s.modWg g f).services = s.services := by
  unfold State.modWg; split <;> rfl
@[simp] theorem State.modWg_bwin (s : State) (g : Nat) (f : Workgroup → Workgroup) : (s.modWg g f).bwin = s.bwin := by
  unfold State.modWg; split <;> rfl
@[simp] theorem State.modWg_hdSvw (s : State) (g : Nat) (f : Workgroup → Workgroup) : (s.modWg g f).hdSvw = s.hdSvw := by
  unfold State.modWg; split <;> rfl
@[simp] theorem State.modWg_hdSel (s : State) (g : Nat) (f : Workgroup → Workgroup) : (s.modWg g f).hdSel = s.hdSel := by
  unfold State.modWg; split <;> rfl
@[simp] theorem State.modWg_hdLatch (s : State) (g : Nat) (f : Workgroup → Workgroup) : (s.modWg g f).hdLatch = s.hdLatch := by
  unfold State.modWg; split <;> rfl
@[simp] theorem State.modWg_hdKeys (s : State) (g : Nat) (f : Workgroup → Workgroup) : (s.modWg g f).hdKeys = s.hdKeys := by
  unfold State.modWg; split <;> rfl
@[simp] theorem State.modWg_hdBoot (s : State) (g : Nat) (f : Workgroup → Workgroup) : (s.modWg g f).hdBoot = s.hdBoot := by
  unfold State.modWg; split <;> rfl
@[simp] theorem State.modWg_vaults (s : State) (g : Nat) (f : Workgroup → Workgroup) : (s.modWg g f).vaults = s.vaults := by
  unfold State.modWg; split <;> rfl
@[simp] theorem State.modWg_heatCoef (s : State) (g : Nat) (f : Workgroup → Workgroup) : (s.modWg g f).heatCoef = s.heatCoef := by
  unfold State.modWg; split <;> rfl
@[simp] theorem State.modWg_vaultFloor (s : State) (g : Nat) (f : Workgroup → Workgroup) : (s.modWg g f).vaultFloor = s.vaultFloor := by
  unfold State.modWg; split <;> rfl
@[simp] theorem State.modWg_heatCost (s : State) (g : Nat) (f : Workgroup → Workgroup) : (s.modWg g f).heatCost = s.heatCost := by
  unfold State.modWg; split <;> rfl
@[simp] theorem State.modWg_columns (s : State) (g : Nat) (f : Workgroup → Workgroup) : (s.modWg g f).columns = s.columns := by
  unfold State.modWg; split <;> rfl
@[simp] theorem State.modWg_refills (s : State) (g : Nat) (f : Workgroup → Workgroup) : (s.modWg g f).refills = s.refills := by
  unfold State.modWg; split <;> rfl
@[simp] theorem State.modWg_steps (s : State) (g : Nat) (f : Workgroup → Workgroup) : (s.modWg g f).steps = s.steps := by
  unfold State.modWg; split <;> rfl
@[simp] theorem State.modWg_regions (s : State) (g : Nat) (f : Workgroup → Workgroup) : (s.modWg g f).regions = s.regions := by
  unfold State.modWg; split <;> rfl
@[simp] theorem State.modWg_chunks (s : State) (g : Nat) (f : Workgroup → Workgroup) : (s.modWg g f).chunks = s.chunks := by
  unfold State.modWg; split <;> rfl
@[simp] theorem State.modWg_rxSeq (s : State) (g : Nat) (f : Workgroup → Workgroup) : (s.modWg g f).rxSeq = s.rxSeq := by
  unfold State.modWg; split <;> rfl
@[simp] theorem State.modWg_rxEarly (s : State) (g : Nat) (f : Workgroup → Workgroup) : (s.modWg g f).rxEarly = s.rxEarly := by
  unfold State.modWg; split <;> rfl
@[simp] theorem State.modWg_page (s : State) (g : Nat) (f : Workgroup → Workgroup) : (s.modWg g f).page = s.page := by
  unfold State.modWg; split <;> rfl
@[simp] theorem State.modWg_launch (s : State) (g : Nat) (f : Workgroup → Workgroup) : (s.modWg g f).launch = s.launch := by
  unfold State.modWg; split <;> rfl
@[simp] theorem State.modWg_life (s : State) (g : Nat) (f : Workgroup → Workgroup) : (s.modWg g f).life = s.life := by
  unfold State.modWg; split <;> rfl
@[simp] theorem State.modWg_boot (s : State) (g : Nat) (f : Workgroup → Workgroup) : (s.modWg g f).boot = s.boot := by
  unfold State.modWg; split <;> rfl
@[simp] theorem State.modWg_time (s : State) (g : Nat) (f : Workgroup → Workgroup) : (s.modWg g f).time = s.time := by
  unfold State.modWg; split <;> rfl
@[simp] theorem State.modWg_link (s : State) (g : Nat) (f : Workgroup → Workgroup) : (s.modWg g f).link = s.link := by
  unfold State.modWg; split <;> rfl

/-! modRun. -/

@[simp] theorem State.modRun_now (s : State) (l : Nat) (f : Launch → Launch) : (s.modRun l f).now = s.now := by
  unfold State.modRun; split <;> rfl
@[simp] theorem State.modRun_agenda (s : State) (l : Nat) (f : Launch → Launch) : (s.modRun l f).agenda = s.agenda := by
  unfold State.modRun; split <;> rfl
@[simp] theorem State.modRun_cur (s : State) (l : Nat) (f : Launch → Launch) : (s.modRun l f).cur = s.cur := by
  unfold State.modRun; split <;> rfl
@[simp] theorem State.modRun_gather (s : State) (l : Nat) (f : Launch → Launch) : (s.modRun l f).gather = s.gather := by
  unfold State.modRun; split <;> rfl
@[simp] theorem State.modRun_late (s : State) (l : Nat) (f : Launch → Launch) : (s.modRun l f).late = s.late := by
  unfold State.modRun; split <;> rfl
@[simp] theorem State.modRun_free (s : State) (l : Nat) (f : Launch → Launch) : (s.modRun l f).free = s.free := by
  unfold State.modRun; split <;> rfl
@[simp] theorem State.modRun_nextNum (s : State) (l : Nat) (f : Launch → Launch) : (s.modRun l f).nextNum = s.nextNum := by
  unfold State.modRun; split <;> rfl
@[simp] theorem State.modRun_threads (s : State) (l : Nat) (f : Launch → Launch) : (s.modRun l f).threads = s.threads := by
  unfold State.modRun; split <;> rfl
@[simp] theorem State.modRun_wgs (s : State) (l : Nat) (f : Launch → Launch) : (s.modRun l f).wgs = s.wgs := by
  unfold State.modRun; split <;> rfl
@[simp] theorem State.modRun_cores (s : State) (l : Nat) (f : Launch → Launch) : (s.modRun l f).cores = s.cores := by
  unfold State.modRun; split <;> rfl
@[simp] theorem State.modRun_vmem (s : State) (l : Nat) (f : Launch → Launch) : (s.modRun l f).vmem = s.vmem := by
  unfold State.modRun; split <;> rfl
@[simp] theorem State.modRun_wmem (s : State) (l : Nat) (f : Launch → Launch) : (s.modRun l f).wmem = s.wmem := by
  unfold State.modRun; split <;> rfl
@[simp] theorem State.modRun_accs (s : State) (l : Nat) (f : Launch → Launch) : (s.modRun l f).accs = s.accs := by
  unfold State.modRun; split <;> rfl
@[simp] theorem State.modRun_replies (s : State) (l : Nat) (f : Launch → Launch) : (s.modRun l f).replies = s.replies := by
  unfold State.modRun; split <;> rfl
@[simp] theorem State.modRun_outbox (s : State) (l : Nat) (f : Launch → Launch) : (s.modRun l f).outbox = s.outbox := by
  unfold State.modRun; split <;> rfl
@[simp] theorem State.modRun_hostReqs (s : State) (l : Nat) (f : Launch → Launch) : (s.modRun l f).hostReqs = s.hostReqs := by
  unfold State.modRun; split <;> rfl
@[simp] theorem State.modRun_tags (s : State) (l : Nat) (f : Launch → Launch) : (s.modRun l f).tags = s.tags := by
  unfold State.modRun; split <;> rfl
@[simp] theorem State.modRun_gens (s : State) (l : Nat) (f : Launch → Launch) : (s.modRun l f).gens = s.gens := by
  unfold State.modRun; split <;> rfl
@[simp] theorem State.modRun_entries (s : State) (l : Nat) (f : Launch → Launch) : (s.modRun l f).entries = s.entries := by
  unfold State.modRun; split <;> rfl
@[simp] theorem State.modRun_slices (s : State) (l : Nat) (f : Launch → Launch) : (s.modRun l f).slices = s.slices := by
  unfold State.modRun; split <;> rfl
@[simp] theorem State.modRun_queues (s : State) (l : Nat) (f : Launch → Launch) : (s.modRun l f).queues = s.queues := by
  unfold State.modRun; split <;> rfl
@[simp] theorem State.modRun_frames (s : State) (l : Nat) (f : Launch → Launch) : (s.modRun l f).frames = s.frames := by
  unfold State.modRun; split <;> rfl
@[simp] theorem State.modRun_mesh (s : State) (l : Nat) (f : Launch → Launch) : (s.modRun l f).mesh = s.mesh := by
  unfold State.modRun; split <;> rfl
@[simp] theorem State.modRun_services (s : State) (l : Nat) (f : Launch → Launch) : (s.modRun l f).services = s.services := by
  unfold State.modRun; split <;> rfl
@[simp] theorem State.modRun_bwin (s : State) (l : Nat) (f : Launch → Launch) : (s.modRun l f).bwin = s.bwin := by
  unfold State.modRun; split <;> rfl
@[simp] theorem State.modRun_hdSvw (s : State) (l : Nat) (f : Launch → Launch) : (s.modRun l f).hdSvw = s.hdSvw := by
  unfold State.modRun; split <;> rfl
@[simp] theorem State.modRun_hdSel (s : State) (l : Nat) (f : Launch → Launch) : (s.modRun l f).hdSel = s.hdSel := by
  unfold State.modRun; split <;> rfl
@[simp] theorem State.modRun_hdLatch (s : State) (l : Nat) (f : Launch → Launch) : (s.modRun l f).hdLatch = s.hdLatch := by
  unfold State.modRun; split <;> rfl
@[simp] theorem State.modRun_hdKeys (s : State) (l : Nat) (f : Launch → Launch) : (s.modRun l f).hdKeys = s.hdKeys := by
  unfold State.modRun; split <;> rfl
@[simp] theorem State.modRun_hdBoot (s : State) (l : Nat) (f : Launch → Launch) : (s.modRun l f).hdBoot = s.hdBoot := by
  unfold State.modRun; split <;> rfl
@[simp] theorem State.modRun_vaults (s : State) (l : Nat) (f : Launch → Launch) : (s.modRun l f).vaults = s.vaults := by
  unfold State.modRun; split <;> rfl
@[simp] theorem State.modRun_heatCoef (s : State) (l : Nat) (f : Launch → Launch) : (s.modRun l f).heatCoef = s.heatCoef := by
  unfold State.modRun; split <;> rfl
@[simp] theorem State.modRun_vaultFloor (s : State) (l : Nat) (f : Launch → Launch) : (s.modRun l f).vaultFloor = s.vaultFloor := by
  unfold State.modRun; split <;> rfl
@[simp] theorem State.modRun_heatCost (s : State) (l : Nat) (f : Launch → Launch) : (s.modRun l f).heatCost = s.heatCost := by
  unfold State.modRun; split <;> rfl
@[simp] theorem State.modRun_columns (s : State) (l : Nat) (f : Launch → Launch) : (s.modRun l f).columns = s.columns := by
  unfold State.modRun; split <;> rfl
@[simp] theorem State.modRun_refills (s : State) (l : Nat) (f : Launch → Launch) : (s.modRun l f).refills = s.refills := by
  unfold State.modRun; split <;> rfl
@[simp] theorem State.modRun_steps (s : State) (l : Nat) (f : Launch → Launch) : (s.modRun l f).steps = s.steps := by
  unfold State.modRun; split <;> rfl
@[simp] theorem State.modRun_regions (s : State) (l : Nat) (f : Launch → Launch) : (s.modRun l f).regions = s.regions := by
  unfold State.modRun; split <;> rfl
@[simp] theorem State.modRun_chunks (s : State) (l : Nat) (f : Launch → Launch) : (s.modRun l f).chunks = s.chunks := by
  unfold State.modRun; split <;> rfl
@[simp] theorem State.modRun_rxSeq (s : State) (l : Nat) (f : Launch → Launch) : (s.modRun l f).rxSeq = s.rxSeq := by
  unfold State.modRun; split <;> rfl
@[simp] theorem State.modRun_rxEarly (s : State) (l : Nat) (f : Launch → Launch) : (s.modRun l f).rxEarly = s.rxEarly := by
  unfold State.modRun; split <;> rfl
@[simp] theorem State.modRun_page (s : State) (l : Nat) (f : Launch → Launch) : (s.modRun l f).page = s.page := by
  unfold State.modRun; split <;> rfl
@[simp] theorem State.modRun_life (s : State) (l : Nat) (f : Launch → Launch) : (s.modRun l f).life = s.life := by
  unfold State.modRun; split <;> rfl
@[simp] theorem State.modRun_boot (s : State) (l : Nat) (f : Launch → Launch) : (s.modRun l f).boot = s.boot := by
  unfold State.modRun; split <;> rfl
@[simp] theorem State.modRun_time (s : State) (l : Nat) (f : Launch → Launch) : (s.modRun l f).time = s.time := by
  unfold State.modRun; split <;> rfl
@[simp] theorem State.modRun_link (s : State) (l : Nat) (f : Launch → Launch) : (s.modRun l f).link = s.link := by
  unfold State.modRun; split <;> rfl

/-! Thread.wrG. -/

@[simp] theorem Thread.wrG_wg (t : Thread) (r : Reg) (v : Word) : (t.wrG r v).wg = t.wg := by
  unfold Thread.wrG; split <;> rfl
@[simp] theorem Thread.wrG_lin (t : Thread) (r : Reg) (v : Word) : (t.wrG r v).lin = t.lin := by
  unfold Thread.wrG; split <;> rfl
@[simp] theorem Thread.wrG_p (t : Thread) (r : Reg) (v : Word) : (t.wrG r v).p = t.p := by
  unfold Thread.wrG; split <;> rfl
@[simp] theorem Thread.wrG_m (t : Thread) (r : Reg) (v : Word) : (t.wrG r v).m = t.m := by
  unfold Thread.wrG; split <;> rfl
@[simp] theorem Thread.wrG_h (t : Thread) (r : Reg) (v : Word) : (t.wrG r v).h = t.h := by
  unfold Thread.wrG; split <;> rfl
@[simp] theorem Thread.wrG_f (t : Thread) (r : Reg) (v : Word) : (t.wrG r v).f = t.f := by
  unfold Thread.wrG; split <;> rfl
@[simp] theorem Thread.wrG_pc (t : Thread) (r : Reg) (v : Word) : (t.wrG r v).pc = t.pc := by
  unfold Thread.wrG; split <;> rfl
@[simp] theorem Thread.wrG_clause (t : Thread) (r : Reg) (v : Word) : (t.wrG r v).clause = t.clause := by
  unfold Thread.wrG; split <;> rfl
@[simp] theorem Thread.wrG_refetch (t : Thread) (r : Reg) (v : Word) : (t.wrG r v).refetch = t.refetch := by
  unfold Thread.wrG; split <;> rfl
@[simp] theorem Thread.wrG_immx (t : Thread) (r : Reg) (v : Word) : (t.wrG r v).immx = t.immx := by
  unfold Thread.wrG; split <;> rfl
@[simp] theorem Thread.wrG_meet (t : Thread) (r : Reg) (v : Word) : (t.wrG r v).meet = t.meet := by
  unfold Thread.wrG; split <;> rfl
@[simp] theorem Thread.wrG_held (t : Thread) (r : Reg) (v : Word) : (t.wrG r v).held = t.held := by
  unfold Thread.wrG; split <;> rfl
@[simp] theorem Thread.wrG_sstep (t : Thread) (r : Reg) (v : Word) : (t.wrG r v).sstep = t.sstep := by
  unfold Thread.wrG; split <;> rfl
@[simp] theorem Thread.wrG_rng (t : Thread) (r : Reg) (v : Word) : (t.wrG r v).rng = t.rng := by
  unfold Thread.wrG; split <;> rfl
@[simp] theorem Thread.wrG_ta (t : Thread) (r : Reg) (v : Word) : (t.wrG r v).ta = t.ta := by
  unfold Thread.wrG; split <;> rfl
@[simp] theorem Thread.wrG_resume (t : Thread) (r : Reg) (v : Word) : (t.wrG r v).resume = t.resume := by
  unfold Thread.wrG; split <;> rfl
@[simp] theorem Thread.wrG_trapCause (t : Thread) (r : Reg) (v : Word) : (t.wrG r v).trapCause = t.trapCause := by
  unfold Thread.wrG; split <;> rfl
@[simp] theorem Thread.wrG_trapAddr (t : Thread) (r : Reg) (v : Word) : (t.wrG r v).trapAddr = t.trapAddr := by
  unfold Thread.wrG; split <;> rfl
@[simp] theorem Thread.wrG_trapTid (t : Thread) (r : Reg) (v : Word) : (t.wrG r v).trapTid = t.trapTid := by
  unfold Thread.wrG; split <;> rfl
@[simp] theorem Thread.wrG_retry (t : Thread) (r : Reg) (v : Word) : (t.wrG r v).retry = t.retry := by
  unfold Thread.wrG; split <;> rfl
@[simp] theorem Thread.wrG_backoff (t : Thread) (r : Reg) (v : Word) : (t.wrG r v).backoff = t.backoff := by
  unfold Thread.wrG; split <;> rfl
@[simp] theorem Thread.wrG_deferred (t : Thread) (r : Reg) (v : Word) : (t.wrG r v).deferred = t.deferred := by
  unfold Thread.wrG; split <;> rfl
@[simp] theorem Thread.wrG_run (t : Thread) (r : Reg) (v : Word) : (t.wrG r v).run = t.run := by
  unfold Thread.wrG; split <;> rfl
@[simp] theorem Thread.wrG_wait (t : Thread) (r : Reg) (v : Word) : (t.wrG r v).wait = t.wait := by
  unfold Thread.wrG; split <;> rfl
@[simp] theorem Thread.wrG_woken (t : Thread) (r : Reg) (v : Word) : (t.wrG r v).woken = t.woken := by
  unfold Thread.wrG; split <;> rfl
@[simp] theorem Thread.wrG_inflight (t : Thread) (r : Reg) (v : Word) : (t.wrG r v).inflight = t.inflight := by
  unfold Thread.wrG; split <;> rfl
@[simp] theorem Thread.wrG_fence (t : Thread) (r : Reg) (v : Word) : (t.wrG r v).fence = t.fence := by
  unfold Thread.wrG; split <;> rfl
@[simp] theorem Thread.wrG_rdv (t : Thread) (r : Reg) (v : Word) : (t.wrG r v).rdv = t.rdv := by
  unfold Thread.wrG; split <;> rfl
@[simp] theorem Thread.wrG_yielded (t : Thread) (r : Reg) (v : Word) : (t.wrG r v).yielded = t.yielded := by
  unfold Thread.wrG; split <;> rfl
@[simp] theorem Thread.wrG_ready (t : Thread) (r : Reg) (v : Word) : (t.wrG r v).ready = t.ready := by
  unfold Thread.wrG; split <;> rfl
@[simp] theorem Thread.wrG_troupe (t : Thread) (r : Reg) (v : Word) : (t.wrG r v).troupe = t.troupe := by
  unfold Thread.wrG; split <;> rfl
@[simp] theorem Thread.wrG_issued (t : Thread) (r : Reg) (v : Word) : (t.wrG r v).issued = t.issued := by
  unfold Thread.wrG; split <;> rfl
@[simp] theorem Thread.wrG_absents (t : Thread) (r : Reg) (v : Word) : (t.wrG r v).absents = t.absents := by
  unfold Thread.wrG; split <;> rfl

/-! Thread.wrP. -/

@[simp] theorem Thread.wrP_wg (t : Thread) (r : PReg) (v : Bool) : (t.wrP r v).wg = t.wg := by
  unfold Thread.wrP; split <;> rfl
@[simp] theorem Thread.wrP_lin (t : Thread) (r : PReg) (v : Bool) : (t.wrP r v).lin = t.lin := by
  unfold Thread.wrP; split <;> rfl
@[simp] theorem Thread.wrP_g (t : Thread) (r : PReg) (v : Bool) : (t.wrP r v).g = t.g := by
  unfold Thread.wrP; split <;> rfl
@[simp] theorem Thread.wrP_m (t : Thread) (r : PReg) (v : Bool) : (t.wrP r v).m = t.m := by
  unfold Thread.wrP; split <;> rfl
@[simp] theorem Thread.wrP_h (t : Thread) (r : PReg) (v : Bool) : (t.wrP r v).h = t.h := by
  unfold Thread.wrP; split <;> rfl
@[simp] theorem Thread.wrP_f (t : Thread) (r : PReg) (v : Bool) : (t.wrP r v).f = t.f := by
  unfold Thread.wrP; split <;> rfl
@[simp] theorem Thread.wrP_pc (t : Thread) (r : PReg) (v : Bool) : (t.wrP r v).pc = t.pc := by
  unfold Thread.wrP; split <;> rfl
@[simp] theorem Thread.wrP_clause (t : Thread) (r : PReg) (v : Bool) : (t.wrP r v).clause = t.clause := by
  unfold Thread.wrP; split <;> rfl
@[simp] theorem Thread.wrP_refetch (t : Thread) (r : PReg) (v : Bool) : (t.wrP r v).refetch = t.refetch := by
  unfold Thread.wrP; split <;> rfl
@[simp] theorem Thread.wrP_immx (t : Thread) (r : PReg) (v : Bool) : (t.wrP r v).immx = t.immx := by
  unfold Thread.wrP; split <;> rfl
@[simp] theorem Thread.wrP_meet (t : Thread) (r : PReg) (v : Bool) : (t.wrP r v).meet = t.meet := by
  unfold Thread.wrP; split <;> rfl
@[simp] theorem Thread.wrP_held (t : Thread) (r : PReg) (v : Bool) : (t.wrP r v).held = t.held := by
  unfold Thread.wrP; split <;> rfl
@[simp] theorem Thread.wrP_sstep (t : Thread) (r : PReg) (v : Bool) : (t.wrP r v).sstep = t.sstep := by
  unfold Thread.wrP; split <;> rfl
@[simp] theorem Thread.wrP_rng (t : Thread) (r : PReg) (v : Bool) : (t.wrP r v).rng = t.rng := by
  unfold Thread.wrP; split <;> rfl
@[simp] theorem Thread.wrP_ta (t : Thread) (r : PReg) (v : Bool) : (t.wrP r v).ta = t.ta := by
  unfold Thread.wrP; split <;> rfl
@[simp] theorem Thread.wrP_resume (t : Thread) (r : PReg) (v : Bool) : (t.wrP r v).resume = t.resume := by
  unfold Thread.wrP; split <;> rfl
@[simp] theorem Thread.wrP_trapCause (t : Thread) (r : PReg) (v : Bool) : (t.wrP r v).trapCause = t.trapCause := by
  unfold Thread.wrP; split <;> rfl
@[simp] theorem Thread.wrP_trapAddr (t : Thread) (r : PReg) (v : Bool) : (t.wrP r v).trapAddr = t.trapAddr := by
  unfold Thread.wrP; split <;> rfl
@[simp] theorem Thread.wrP_trapTid (t : Thread) (r : PReg) (v : Bool) : (t.wrP r v).trapTid = t.trapTid := by
  unfold Thread.wrP; split <;> rfl
@[simp] theorem Thread.wrP_retry (t : Thread) (r : PReg) (v : Bool) : (t.wrP r v).retry = t.retry := by
  unfold Thread.wrP; split <;> rfl
@[simp] theorem Thread.wrP_backoff (t : Thread) (r : PReg) (v : Bool) : (t.wrP r v).backoff = t.backoff := by
  unfold Thread.wrP; split <;> rfl
@[simp] theorem Thread.wrP_deferred (t : Thread) (r : PReg) (v : Bool) : (t.wrP r v).deferred = t.deferred := by
  unfold Thread.wrP; split <;> rfl
@[simp] theorem Thread.wrP_run (t : Thread) (r : PReg) (v : Bool) : (t.wrP r v).run = t.run := by
  unfold Thread.wrP; split <;> rfl
@[simp] theorem Thread.wrP_wait (t : Thread) (r : PReg) (v : Bool) : (t.wrP r v).wait = t.wait := by
  unfold Thread.wrP; split <;> rfl
@[simp] theorem Thread.wrP_woken (t : Thread) (r : PReg) (v : Bool) : (t.wrP r v).woken = t.woken := by
  unfold Thread.wrP; split <;> rfl
@[simp] theorem Thread.wrP_inflight (t : Thread) (r : PReg) (v : Bool) : (t.wrP r v).inflight = t.inflight := by
  unfold Thread.wrP; split <;> rfl
@[simp] theorem Thread.wrP_fence (t : Thread) (r : PReg) (v : Bool) : (t.wrP r v).fence = t.fence := by
  unfold Thread.wrP; split <;> rfl
@[simp] theorem Thread.wrP_rdv (t : Thread) (r : PReg) (v : Bool) : (t.wrP r v).rdv = t.rdv := by
  unfold Thread.wrP; split <;> rfl
@[simp] theorem Thread.wrP_yielded (t : Thread) (r : PReg) (v : Bool) : (t.wrP r v).yielded = t.yielded := by
  unfold Thread.wrP; split <;> rfl
@[simp] theorem Thread.wrP_ready (t : Thread) (r : PReg) (v : Bool) : (t.wrP r v).ready = t.ready := by
  unfold Thread.wrP; split <;> rfl
@[simp] theorem Thread.wrP_troupe (t : Thread) (r : PReg) (v : Bool) : (t.wrP r v).troupe = t.troupe := by
  unfold Thread.wrP; split <;> rfl
@[simp] theorem Thread.wrP_issued (t : Thread) (r : PReg) (v : Bool) : (t.wrP r v).issued = t.issued := by
  unfold Thread.wrP; split <;> rfl
@[simp] theorem Thread.wrP_absents (t : Thread) (r : PReg) (v : Bool) : (t.wrP r v).absents = t.absents := by
  unfold Thread.wrP; split <;> rfl

/-! Thread.wrM. -/

@[simp] theorem Thread.wrM_wg (t : Thread) (r : PReg) (v : Byte) : (t.wrM r v).wg = t.wg := rfl
@[simp] theorem Thread.wrM_lin (t : Thread) (r : PReg) (v : Byte) : (t.wrM r v).lin = t.lin := rfl
@[simp] theorem Thread.wrM_g (t : Thread) (r : PReg) (v : Byte) : (t.wrM r v).g = t.g := rfl
@[simp] theorem Thread.wrM_p (t : Thread) (r : PReg) (v : Byte) : (t.wrM r v).p = t.p := rfl
@[simp] theorem Thread.wrM_h (t : Thread) (r : PReg) (v : Byte) : (t.wrM r v).h = t.h := rfl
@[simp] theorem Thread.wrM_f (t : Thread) (r : PReg) (v : Byte) : (t.wrM r v).f = t.f := rfl
@[simp] theorem Thread.wrM_pc (t : Thread) (r : PReg) (v : Byte) : (t.wrM r v).pc = t.pc := rfl
@[simp] theorem Thread.wrM_clause (t : Thread) (r : PReg) (v : Byte) : (t.wrM r v).clause = t.clause := rfl
@[simp] theorem Thread.wrM_refetch (t : Thread) (r : PReg) (v : Byte) : (t.wrM r v).refetch = t.refetch := rfl
@[simp] theorem Thread.wrM_immx (t : Thread) (r : PReg) (v : Byte) : (t.wrM r v).immx = t.immx := rfl
@[simp] theorem Thread.wrM_meet (t : Thread) (r : PReg) (v : Byte) : (t.wrM r v).meet = t.meet := rfl
@[simp] theorem Thread.wrM_held (t : Thread) (r : PReg) (v : Byte) : (t.wrM r v).held = t.held := rfl
@[simp] theorem Thread.wrM_sstep (t : Thread) (r : PReg) (v : Byte) : (t.wrM r v).sstep = t.sstep := rfl
@[simp] theorem Thread.wrM_rng (t : Thread) (r : PReg) (v : Byte) : (t.wrM r v).rng = t.rng := rfl
@[simp] theorem Thread.wrM_ta (t : Thread) (r : PReg) (v : Byte) : (t.wrM r v).ta = t.ta := rfl
@[simp] theorem Thread.wrM_resume (t : Thread) (r : PReg) (v : Byte) : (t.wrM r v).resume = t.resume := rfl
@[simp] theorem Thread.wrM_trapCause (t : Thread) (r : PReg) (v : Byte) : (t.wrM r v).trapCause = t.trapCause := rfl
@[simp] theorem Thread.wrM_trapAddr (t : Thread) (r : PReg) (v : Byte) : (t.wrM r v).trapAddr = t.trapAddr := rfl
@[simp] theorem Thread.wrM_trapTid (t : Thread) (r : PReg) (v : Byte) : (t.wrM r v).trapTid = t.trapTid := rfl
@[simp] theorem Thread.wrM_retry (t : Thread) (r : PReg) (v : Byte) : (t.wrM r v).retry = t.retry := rfl
@[simp] theorem Thread.wrM_backoff (t : Thread) (r : PReg) (v : Byte) : (t.wrM r v).backoff = t.backoff := rfl
@[simp] theorem Thread.wrM_deferred (t : Thread) (r : PReg) (v : Byte) : (t.wrM r v).deferred = t.deferred := rfl
@[simp] theorem Thread.wrM_run (t : Thread) (r : PReg) (v : Byte) : (t.wrM r v).run = t.run := rfl
@[simp] theorem Thread.wrM_wait (t : Thread) (r : PReg) (v : Byte) : (t.wrM r v).wait = t.wait := rfl
@[simp] theorem Thread.wrM_woken (t : Thread) (r : PReg) (v : Byte) : (t.wrM r v).woken = t.woken := rfl
@[simp] theorem Thread.wrM_inflight (t : Thread) (r : PReg) (v : Byte) : (t.wrM r v).inflight = t.inflight := rfl
@[simp] theorem Thread.wrM_fence (t : Thread) (r : PReg) (v : Byte) : (t.wrM r v).fence = t.fence := rfl
@[simp] theorem Thread.wrM_rdv (t : Thread) (r : PReg) (v : Byte) : (t.wrM r v).rdv = t.rdv := rfl
@[simp] theorem Thread.wrM_yielded (t : Thread) (r : PReg) (v : Byte) : (t.wrM r v).yielded = t.yielded := rfl
@[simp] theorem Thread.wrM_ready (t : Thread) (r : PReg) (v : Byte) : (t.wrM r v).ready = t.ready := rfl
@[simp] theorem Thread.wrM_troupe (t : Thread) (r : PReg) (v : Byte) : (t.wrM r v).troupe = t.troupe := rfl
@[simp] theorem Thread.wrM_issued (t : Thread) (r : PReg) (v : Byte) : (t.wrM r v).issued = t.issued := rfl
@[simp] theorem Thread.wrM_absents (t : Thread) (r : PReg) (v : Byte) : (t.wrM r v).absents = t.absents := rfl

/-! Thread.wrH. -/

@[simp] theorem Thread.wrH_wg (t : Thread) (r : HReg) (v : Word) : (t.wrH r v).wg = t.wg := rfl
@[simp] theorem Thread.wrH_lin (t : Thread) (r : HReg) (v : Word) : (t.wrH r v).lin = t.lin := rfl
@[simp] theorem Thread.wrH_g (t : Thread) (r : HReg) (v : Word) : (t.wrH r v).g = t.g := rfl
@[simp] theorem Thread.wrH_p (t : Thread) (r : HReg) (v : Word) : (t.wrH r v).p = t.p := rfl
@[simp] theorem Thread.wrH_m (t : Thread) (r : HReg) (v : Word) : (t.wrH r v).m = t.m := rfl
@[simp] theorem Thread.wrH_f (t : Thread) (r : HReg) (v : Word) : (t.wrH r v).f = t.f := rfl
@[simp] theorem Thread.wrH_pc (t : Thread) (r : HReg) (v : Word) : (t.wrH r v).pc = t.pc := rfl
@[simp] theorem Thread.wrH_clause (t : Thread) (r : HReg) (v : Word) : (t.wrH r v).clause = t.clause := rfl
@[simp] theorem Thread.wrH_refetch (t : Thread) (r : HReg) (v : Word) : (t.wrH r v).refetch = t.refetch := rfl
@[simp] theorem Thread.wrH_immx (t : Thread) (r : HReg) (v : Word) : (t.wrH r v).immx = t.immx := rfl
@[simp] theorem Thread.wrH_meet (t : Thread) (r : HReg) (v : Word) : (t.wrH r v).meet = t.meet := rfl
@[simp] theorem Thread.wrH_held (t : Thread) (r : HReg) (v : Word) : (t.wrH r v).held = t.held := rfl
@[simp] theorem Thread.wrH_sstep (t : Thread) (r : HReg) (v : Word) : (t.wrH r v).sstep = t.sstep := rfl
@[simp] theorem Thread.wrH_rng (t : Thread) (r : HReg) (v : Word) : (t.wrH r v).rng = t.rng := rfl
@[simp] theorem Thread.wrH_ta (t : Thread) (r : HReg) (v : Word) : (t.wrH r v).ta = t.ta := rfl
@[simp] theorem Thread.wrH_resume (t : Thread) (r : HReg) (v : Word) : (t.wrH r v).resume = t.resume := rfl
@[simp] theorem Thread.wrH_trapCause (t : Thread) (r : HReg) (v : Word) : (t.wrH r v).trapCause = t.trapCause := rfl
@[simp] theorem Thread.wrH_trapAddr (t : Thread) (r : HReg) (v : Word) : (t.wrH r v).trapAddr = t.trapAddr := rfl
@[simp] theorem Thread.wrH_trapTid (t : Thread) (r : HReg) (v : Word) : (t.wrH r v).trapTid = t.trapTid := rfl
@[simp] theorem Thread.wrH_retry (t : Thread) (r : HReg) (v : Word) : (t.wrH r v).retry = t.retry := rfl
@[simp] theorem Thread.wrH_backoff (t : Thread) (r : HReg) (v : Word) : (t.wrH r v).backoff = t.backoff := rfl
@[simp] theorem Thread.wrH_deferred (t : Thread) (r : HReg) (v : Word) : (t.wrH r v).deferred = t.deferred := rfl
@[simp] theorem Thread.wrH_run (t : Thread) (r : HReg) (v : Word) : (t.wrH r v).run = t.run := rfl
@[simp] theorem Thread.wrH_wait (t : Thread) (r : HReg) (v : Word) : (t.wrH r v).wait = t.wait := rfl
@[simp] theorem Thread.wrH_woken (t : Thread) (r : HReg) (v : Word) : (t.wrH r v).woken = t.woken := rfl
@[simp] theorem Thread.wrH_inflight (t : Thread) (r : HReg) (v : Word) : (t.wrH r v).inflight = t.inflight := rfl
@[simp] theorem Thread.wrH_fence (t : Thread) (r : HReg) (v : Word) : (t.wrH r v).fence = t.fence := rfl
@[simp] theorem Thread.wrH_rdv (t : Thread) (r : HReg) (v : Word) : (t.wrH r v).rdv = t.rdv := rfl
@[simp] theorem Thread.wrH_yielded (t : Thread) (r : HReg) (v : Word) : (t.wrH r v).yielded = t.yielded := rfl
@[simp] theorem Thread.wrH_ready (t : Thread) (r : HReg) (v : Word) : (t.wrH r v).ready = t.ready := rfl
@[simp] theorem Thread.wrH_troupe (t : Thread) (r : HReg) (v : Word) : (t.wrH r v).troupe = t.troupe := rfl
@[simp] theorem Thread.wrH_issued (t : Thread) (r : HReg) (v : Word) : (t.wrH r v).issued = t.issued := rfl
@[simp] theorem Thread.wrH_absents (t : Thread) (r : HReg) (v : Word) : (t.wrH r v).absents = t.absents := rfl

/-! Thread.wrF. -/

@[simp] theorem Thread.wrF_wg (t : Thread) (n v : Nat) : (t.wrF n v).wg = t.wg := rfl
@[simp] theorem Thread.wrF_lin (t : Thread) (n v : Nat) : (t.wrF n v).lin = t.lin := rfl
@[simp] theorem Thread.wrF_g (t : Thread) (n v : Nat) : (t.wrF n v).g = t.g := rfl
@[simp] theorem Thread.wrF_p (t : Thread) (n v : Nat) : (t.wrF n v).p = t.p := rfl
@[simp] theorem Thread.wrF_m (t : Thread) (n v : Nat) : (t.wrF n v).m = t.m := rfl
@[simp] theorem Thread.wrF_h (t : Thread) (n v : Nat) : (t.wrF n v).h = t.h := rfl
@[simp] theorem Thread.wrF_pc (t : Thread) (n v : Nat) : (t.wrF n v).pc = t.pc := rfl
@[simp] theorem Thread.wrF_clause (t : Thread) (n v : Nat) : (t.wrF n v).clause = t.clause := rfl
@[simp] theorem Thread.wrF_refetch (t : Thread) (n v : Nat) : (t.wrF n v).refetch = t.refetch := rfl
@[simp] theorem Thread.wrF_immx (t : Thread) (n v : Nat) : (t.wrF n v).immx = t.immx := rfl
@[simp] theorem Thread.wrF_meet (t : Thread) (n v : Nat) : (t.wrF n v).meet = t.meet := rfl
@[simp] theorem Thread.wrF_held (t : Thread) (n v : Nat) : (t.wrF n v).held = t.held := rfl
@[simp] theorem Thread.wrF_sstep (t : Thread) (n v : Nat) : (t.wrF n v).sstep = t.sstep := rfl
@[simp] theorem Thread.wrF_rng (t : Thread) (n v : Nat) : (t.wrF n v).rng = t.rng := rfl
@[simp] theorem Thread.wrF_ta (t : Thread) (n v : Nat) : (t.wrF n v).ta = t.ta := rfl
@[simp] theorem Thread.wrF_resume (t : Thread) (n v : Nat) : (t.wrF n v).resume = t.resume := rfl
@[simp] theorem Thread.wrF_trapCause (t : Thread) (n v : Nat) : (t.wrF n v).trapCause = t.trapCause := rfl
@[simp] theorem Thread.wrF_trapAddr (t : Thread) (n v : Nat) : (t.wrF n v).trapAddr = t.trapAddr := rfl
@[simp] theorem Thread.wrF_trapTid (t : Thread) (n v : Nat) : (t.wrF n v).trapTid = t.trapTid := rfl
@[simp] theorem Thread.wrF_retry (t : Thread) (n v : Nat) : (t.wrF n v).retry = t.retry := rfl
@[simp] theorem Thread.wrF_backoff (t : Thread) (n v : Nat) : (t.wrF n v).backoff = t.backoff := rfl
@[simp] theorem Thread.wrF_deferred (t : Thread) (n v : Nat) : (t.wrF n v).deferred = t.deferred := rfl
@[simp] theorem Thread.wrF_run (t : Thread) (n v : Nat) : (t.wrF n v).run = t.run := rfl
@[simp] theorem Thread.wrF_wait (t : Thread) (n v : Nat) : (t.wrF n v).wait = t.wait := rfl
@[simp] theorem Thread.wrF_woken (t : Thread) (n v : Nat) : (t.wrF n v).woken = t.woken := rfl
@[simp] theorem Thread.wrF_inflight (t : Thread) (n v : Nat) : (t.wrF n v).inflight = t.inflight := rfl
@[simp] theorem Thread.wrF_fence (t : Thread) (n v : Nat) : (t.wrF n v).fence = t.fence := rfl
@[simp] theorem Thread.wrF_rdv (t : Thread) (n v : Nat) : (t.wrF n v).rdv = t.rdv := rfl
@[simp] theorem Thread.wrF_yielded (t : Thread) (n v : Nat) : (t.wrF n v).yielded = t.yielded := rfl
@[simp] theorem Thread.wrF_ready (t : Thread) (n v : Nat) : (t.wrF n v).ready = t.ready := rfl
@[simp] theorem Thread.wrF_troupe (t : Thread) (n v : Nat) : (t.wrF n v).troupe = t.troupe := rfl
@[simp] theorem Thread.wrF_issued (t : Thread) (n v : Nat) : (t.wrF n v).issued = t.issued := rfl
@[simp] theorem Thread.wrF_absents (t : Thread) (n v : Nat) : (t.wrF n v).absents = t.absents := rfl

end Sys2Proof.Machine
end

