-- ==== Sys2Proof/Laws/Kept.lean ====
section
/-! SUPPORT. The shared operations that move a thread, end it or trap leave both memories alone; and an instruction
that runs in each member of a troupe keeps their form when its body does. -/

namespace Sys2Proof.Machine

/-- The two memories of a module. -/
def State.mems (s : State) : Memory × Memory := (s.vmem, s.wmem)

theorem memOk_of_mems {s u : State} (e : u.mems = s.mems) (h : s.memOk) : u.memOk := by
  obtain ⟨hv, hw⟩ := Prod.mk.inj e
  simpa [State.memOk, hv, hw] using h

theorem foldl_mems {α : Type} (f : State → α → State) (hf : ∀ s x, (f s x).mems = s.mems) (l : List α) (s : State) :
    (l.foldl f s).mems = s.mems := by
  induction l generalizing s with
  | nil => rfl
  | cons x r ih => rw [List.foldl_cons, ih, hf]

@[simp] theorem mems_setThread (s : State) (k : Nat) (t : Thread) : (s.setThread k t).mems = s.mems := rfl
@[simp] theorem mems_modThread (s : State) (k : Nat) (f : Thread → Thread) : (s.modThread k f).mems = s.mems := by
  simp [State.mems]
@[simp] theorem mems_modWg (s : State) (g : Nat) (f : Workgroup → Workgroup) : (s.modWg g f).mems = s.mems := by
  simp [State.mems]
@[simp] theorem mems_modCore (s : State) (c : Nat) (f : Core → Core) : (s.modCore c f).mems = s.mems := rfl
@[simp] theorem mems_modRun (s : State) (l : Nat) (f : Launch → Launch) : (s.modRun l f).mems = s.mems := by
  simp [State.mems]

@[simp] theorem mems_atBoundary (s : State) (k : Nat) : (atBoundary s k).mems = s.mems := by
  unfold atBoundary; split <;> simp

@[simp] theorem mems_goHeader (s : State) (k : Nat) (pc : DWord) : (goHeader s k pc).mems = s.mems := by
  simp [goHeader]

@[simp] theorem mems_goBody (s : State) (k : Nat) (c : Option Clause) (pc : DWord) :
    (goBody s k c pc).mems = s.mems := by
  unfold goBody
  split
  · split <;> simp
  · simp

@[simp] theorem mems_advance (s : State) (k n : Nat) : (advance s k n).mems = s.mems := by
  unfold advance; split <;> simp

@[simp] theorem mems_transferTo (s : State) (k : Nat) (pc : DWord) : (transferTo s k pc).mems = s.mems := by
  simp [transferTo]

@[simp] theorem mems_holdThread (s : State) (k : Nat) (r : WaitReason) : (holdThread s k r).mems = s.mems := by
  simp [holdThread]

@[simp] theorem mems_resumeAt (s : State) (k : Nat) (r : Resume) (skip : Bool) : (resumeAt s k r skip).mems = s.mems := by
  unfold resumeAt
  cases r.kind <;> simp

@[simp] theorem mems_modBuf (s : State) (c e : Nat) (f : BufEntry → BufEntry) : (s.modBuf c e f).mems = s.mems := by
  simp [State.modBuf]

@[simp] theorem mems_dropEntryReads (s : State) (c : Nat) (t : Thread) : (dropEntryReads s c t).mems = s.mems := by
  apply foldl_mems
  intro s x
  split <;> simp

@[simp] theorem mems_endThread (s : State) (k : Nat) : (endThread s k).mems = s.mems := by
  unfold endThread
  split
  · rfl
  · rw [mems_modWg]; exact mems_dropEntryReads _ _ _

@[simp] theorem mems_unpin (s : State) (pins : List Nat) : (unpin s pins).mems = s.mems := by
  apply foldl_mems
  intro s n
  split <;> rfl

@[simp] theorem mems_killWg (s : State) (w : Nat) : (killWg s w).mems = s.mems := by
  unfold killWg
  split
  · rfl
  · split
    · rfl
    · rw [mems_modWg, mems_modCore, mems_unpin]; rfl

@[simp] theorem mems_killUnit (s : State) (level k w : Nat) (ti : TrapInfo) (pc : DWord) :
    (killUnit s level k w ti pc).mems = s.mems := by
  unfold killUnit
  split
  · rfl
  · split
    · simp
    · simp
    · exact foldl_mems _ mems_killWg _ _
    · rw [mems_modRun]; exact foldl_mems _ mems_killWg _ _

@[simp] theorem mems_containment (s : State) (k : Nat) (ti : TrapInfo) (r : Resume) (pc : DWord) :
    (containment s k ti r pc).mems = s.mems := by
  unfold containment
  split
  · rfl
  · split
    · rfl
    · split <;> simp

/-- Taking a trap touches no memory (R404, R407, R408). -/
@[simp] theorem mems_takeTrap (s : State) (k : Nat) (ti : TrapInfo) (r : Resume) (pc : DWord) :
    (takeTrap s k ti r pc).mems = s.mems := by
  unfold takeTrap
  split
  · rfl
  · split
    · rfl
    · dsimp only
      split
      · simp
      · split <;> simp

@[simp] theorem mems_takeTraps (s : State) (l : List Raised) : (takeTraps s l).mems = s.mems :=
  foldl_mems (fun s (x : Raised) => takeTrap s x.key x.trap x.resume x.pc) (fun _ _ => mems_takeTrap _ _ _ _ _) _ _

@[simp] theorem mems_raiseTraps (s : State) (l : List Raised) : (raiseTraps s l).mems = s.mems := by
  unfold raiseTraps
  split
  · simp
  · rfl

/-- The state an effect carries. -/
def Effect.state : Effect → State
  | .next u | .jump u _ | .placed u | .wait u _ | .trap u _ | .trapAt u _ _ _ => u

/-- One member keeps the form of the memories when the instruction's body does. -/
theorem runMember_memOk (i : Instr) (p : PReg) (body : State → Nat → Nat → Effect)
    (hb : ∀ s k l, s.memOk → (body s k l).state.memOk) (acc : State × List Raised) (k lane : Nat)
    (h : acc.1.memOk) : (runMember i p body acc k lane).1.memOk := by
  have hk := hb acc.1 k lane h
  unfold runMember
  dsimp only
  split
  · exact h
  · split
    · exact h
    · split
      · exact h
      · split
        · split
          · exact memOk_of_mems (by simp) h
          · exact memOk_of_mems (by simp) h
        · split
          · exact memOk_of_mems (by simp) h
          · split <;> rename_i e <;> rw [e] at hk <;> first
              | exact hk
              | exact memOk_of_mems (by simp [Effect.state]) hk

/-- The runner keeps the form of the memories when the instruction's body does. -/
theorem runThreads_memOk (i : Instr) (p : PReg) (body : State → Nat → Nat → Effect)
    (hb : ∀ s k l, s.memOk → (body s k l).state.memOk) (s : State) (h : s.memOk) :
    (runThreads i p body s).memOk := by
  have fold : ∀ (l : List (Nat × Nat)) (acc : State × List Raised), acc.1.memOk →
      (l.foldl (fun acc x => if stillThere s acc.1 x.1 then runMember i p body acc x.1 x.2 else acc) acc).1.memOk := by
    intro l
    induction l with
    | nil => exact fun _ h => h
    | cons x r ih =>
      intro acc h
      apply ih
      dsimp only
      split
      · exact runMember_memOk i p body hb acc x.1 x.2 h
      · exact h
  exact memOk_of_mems (mems_raiseTraps _ _) (fold _ (s, []) h)

theorem perThread_memOk (i : Instr) (p : PReg) (body : State → Nat → Nat → Effect)
    (hb : ∀ s k l, s.memOk → (body s k l).state.memOk) (s u : State) (h : s.memOk)
    (e : perThread i p body s = .next u) : u.memOk := by
  cases e
  exact runThreads_memOk i p body hb s h

/-- An instruction that changes only its own thread. -/
theorem onThread_memOk (i : Instr) (p : PReg) (f : Thread → Thread) (s u : State) (h : s.memOk)
    (e : onThread i p f s = .next u) : u.memOk :=
  perThread_memOk i p _ (fun _ _ _ h => memOk_of_mems (by simp [Effect.state]) h) s u h e

end Sys2Proof.Machine
end

