-- ==== Sys2Proof/Laws/Maps.lean ====
section
/-! SUPPORT. Records by number: what a lookup gives after a change. -/

namespace Sys2Proof.Machine

@[simp] theorem mget_mput_same {α : Type} (m : SMap α) (k : Nat) (v : α) : mget (mput m k v) k = some v := by
  induction m with
  | nil => simp [mput, mget]
  | cons x r ih =>
    obtain ⟨a, w⟩ := x
    unfold mput
    split
    · simp [mget]
    · split
      · simp [mget]
      · rename_i h
        simp [mget, h, ih]

theorem mget_mput_other {α : Type} (m : SMap α) (k j : Nat) (v : α) (h : j ≠ k) : mget (mput m k v) j = mget m j := by
  induction m with
  | nil => simp [mput, mget, Ne.symm h]
  | cons x r ih =>
    obtain ⟨a, w⟩ := x
    unfold mput
    split
    · simp [mget, Ne.symm h]
    · split
      · rename_i e
        subst e
        simp [mget, Ne.symm h]
      · simp [mget, ih]

/-- The keys of a map. -/
theorem mget_none_of_lt {α : Type} (m : SMap α) (k : Nat) (h : ∀ x ∈ m, k < x.1) : mget m k = none := by
  induction m with
  | nil => rfl
  | cons x r ih =>
    obtain ⟨a, w⟩ := x
    have h1 := h (a, w) (by simp)
    have : a ≠ k := by simp at h1; omega
    simp only [mget, this, if_false]
    exact ih fun y hy => h y (by simp [hy])

theorem mget_mem {α : Type} (m : SMap α) (k : Nat) (v : α) (h : mget m k = some v) : (k, v) ∈ m := by
  induction m with
  | nil => simp [mget] at h
  | cons x r ih =>
    obtain ⟨a, w⟩ := x
    unfold mget at h
    split at h
    · rename_i e; simp at h; simp [e, h]
    · simp [ih h]

theorem mget_mdel_other {α : Type} (m : SMap α) (k j : Nat) (h : j ≠ k) : mget (mdel m k) j = mget m j := by
  induction m with
  | nil => rfl
  | cons x r ih =>
    obtain ⟨a, w⟩ := x
    unfold mdel
    split
    · rename_i e
      subst e
      simpa [mget, Ne.symm h] using ih
    · simp [mget, ih]

/-- A removed record is gone, whatever the map was. -/
theorem mget_mdel_same {α : Type} (m : SMap α) (k : Nat) : mget (mdel m k) k = none := by
  induction m with
  | nil => rfl
  | cons x r ih =>
    obtain ⟨a, w⟩ := x
    unfold mdel
    split
    · exact ih
    · rename_i e; simp [mget, e, ih]

theorem mem_mput {α : Type} (m : SMap α) (k : Nat) (v : α) (x : Nat × α) (h : x ∈ mput m k v) : x = (k, v) ∨ x ∈ m := by
  induction m with
  | nil => simp [mput] at h; exact .inl h
  | cons y r ih =>
    obtain ⟨a, w⟩ := y
    unfold mput at h
    split at h
    · simp at h; rcases h with h | h | h <;> simp [h]
    · split at h
      · simp at h; rcases h with h | h <;> simp [h]
      · simp at h
        rcases h with h | h
        · simp [h]
        · rcases ih h with h | h <;> simp [h]

theorem mem_mdel {α : Type} (m : SMap α) (k : Nat) (x : Nat × α) (h : x ∈ mdel m k) : x ∈ m := by
  induction m with
  | nil => simp [mdel] at h
  | cons y r ih =>
    obtain ⟨a, w⟩ := y
    unfold mdel at h
    split at h
    · simp [ih h]
    · simp at h
      rcases h with h | h
      · simp [h]
      · simp [ih h]

/-! The state's parts. -/

@[simp] theorem thread_setThread_same (s : State) (k : Nat) (t : Thread) : (s.setThread k t).thread? k = some t := by
  simp [State.thread?, State.setThread]
theorem thread_setThread_other (s : State) (k j : Nat) (t : Thread) (h : j ≠ k) :
    (s.setThread k t).thread? j = s.thread? j := by
  simp [State.thread?, State.setThread, mget_mput_other _ _ _ _ h]
@[simp] theorem wg_setThread (s : State) (k : Nat) (t : Thread) (g : Nat) : (s.setThread k t).wg? g = s.wg? g := rfl
@[simp] theorem wg_setWg_same (s : State) (g : Nat) (w : Workgroup) : (s.setWg g w).wg? g = some w := by
  simp [State.wg?, State.setWg]
theorem wg_setWg_other (s : State) (g j : Nat) (w : Workgroup) (h : j ≠ g) : (s.setWg g w).wg? j = s.wg? j := by
  simp [State.wg?, State.setWg, mget_mput_other _ _ _ _ h]
@[simp] theorem thread_setWg (s : State) (g : Nat) (w : Workgroup) (k : Nat) : (s.setWg g w).thread? k = s.thread? k := rfl
@[simp] theorem thread_modWg (s : State) (g : Nat) (f : Workgroup → Workgroup) (k : Nat) :
    (s.modWg g f).thread? k = s.thread? k := by
  unfold State.modWg; split <;> rfl
@[simp] theorem core_setThread (s : State) (k : Nat) (t : Thread) (c : Nat) : (s.setThread k t).core c = s.core c := rfl
@[simp] theorem core_setWg (s : State) (g : Nat) (w : Workgroup) (c : Nat) : (s.setWg g w).core c = s.core c := rfl
@[simp] theorem core_setCore_same (s : State) (c : Nat) (x : Core) : (s.setCore c x).core c = x := by
  simp [State.core, State.setCore]
@[simp] theorem core_modCore_same (s : State) (c : Nat) (f : Core → Core) : (s.modCore c f).core c = f (s.core c) := by
  simp [State.modCore]
@[simp] theorem thread_modCore (s : State) (c : Nat) (f : Core → Core) (k : Nat) : (s.modCore c f).thread? k = s.thread? k := rfl
@[simp] theorem wg_modCore (s : State) (c : Nat) (f : Core → Core) (g : Nat) : (s.modCore c f).wg? g = s.wg? g := rfl
theorem setThread_of_modThread (s : State) (k : Nat) (t : Thread) (f : Thread → Thread) (h : s.thread? k = some t) :
    s.modThread k f = s.setThread k (f t) := by
  simp [State.modThread, h]
theorem setWg_of_modWg (s : State) (g : Nat) (w : Workgroup) (f : Workgroup → Workgroup) (h : s.wg? g = some w) :
    s.modWg g f = s.setWg g (f w) := by
  simp [State.modWg, h]
theorem mput_mput {α : Type} (m : SMap α) (k : Nat) (a b : α) : mput (mput m k a) k b = mput m k b := by
  induction m with
  | nil => simp [mput]
  | cons x r ih =>
    obtain ⟨j, w⟩ := x
    by_cases h1 : k < j
    · simp [mput, h1]
    · by_cases h2 : j = k
      · subst h2; simp [mput]
      · simp [mput, h1, h2, ih]
@[simp] theorem setThread_setThread (s : State) (k : Nat) (t u : Thread) :
    (s.setThread k t).setThread k u = s.setThread k u := by
  simp [State.setThread, mput_mput]

end Sys2Proof.Machine
end

