-- ==== Sys2Proof/Laws/Memory.lean ====
section
/-! SUPPORT. Memory: the canonical form is kept by every operation, and reads after writes. -/

namespace Sys2Proof.Machine

theorem wfFrom_cons (lo : Option Nat) (a : Nat) (b : Byte) (r : Memory) :
    Memory.wfFrom lo ((a, b) :: r) = true ↔
      (∀ l, lo = some l → l < a) ∧ b ≠ 0 ∧ Memory.wfFrom (some a) r = true := by
  cases lo <;> simp [Memory.wfFrom, and_assoc]

theorem wfFrom_weaken (m : Memory) (l : Nat) (lo : Option Nat) (h : Memory.wfFrom (some l) m = true)
    (hl : ∀ k, lo = some k → k ≤ l) : Memory.wfFrom lo m = true := by
  cases m with
  | nil => cases lo <;> rfl
  | cons x r =>
    obtain ⟨a, b⟩ := x
    rw [wfFrom_cons] at h ⊢
    refine ⟨fun k hk => ?_, h.2⟩
    have := hl k hk
    have := h.1 l rfl
    omega

theorem wfFrom_above (m : Memory) (l : Nat) (h : Memory.wfFrom (some l) m = true) : ∀ x ∈ m, l < x.1 := by
  induction m generalizing l with
  | nil => simp
  | cons x r ih =>
    obtain ⟨a, b⟩ := x
    rw [wfFrom_cons] at h
    intro y hy
    have h1 := h.1 l rfl
    simp at hy
    rcases hy with hy | hy
    · subst hy; exact h1
    · have := ih a h.2.2 y hy
      omega

theorem wfFrom_mput (m : Memory) (a : Nat) (b : Byte) (lo : Option Nat) (hb : b ≠ 0)
    (h : Memory.wfFrom lo m = true) (hl : ∀ l, lo = some l → l < a) : Memory.wfFrom lo (mput m a b) = true := by
  induction m generalizing lo with
  | nil => simp only [mput]; rw [wfFrom_cons]; exact ⟨hl, hb, rfl⟩
  | cons x r ih =>
    obtain ⟨c, d⟩ := x
    rw [wfFrom_cons] at h
    unfold mput
    split
    · rename_i hc
      rw [wfFrom_cons]
      exact ⟨hl, hb, by rw [wfFrom_cons]; exact ⟨fun l hk => by cases hk; exact hc, h.2⟩⟩
    · split
      · rename_i e
        subst e
        rw [wfFrom_cons]
        exact ⟨hl, hb, h.2.2⟩
      · rw [wfFrom_cons]
        exact ⟨h.1, h.2.1, ih (some c) h.2.2 fun l hk => by cases hk; omega⟩

theorem wfFrom_mdel (m : Memory) (a : Nat) (lo : Option Nat) (h : Memory.wfFrom lo m = true) :
    Memory.wfFrom lo (mdel m a) = true := by
  induction m generalizing lo with
  | nil => exact h
  | cons x r ih =>
    obtain ⟨c, d⟩ := x
    rw [wfFrom_cons] at h
    unfold mdel
    split
    · refine wfFrom_weaken _ c lo (ih (some c) h.2.2) fun k hk => ?_
      have := h.1 k hk
      omega
    · rw [wfFrom_cons]
      exact ⟨h.1, h.2.1, ih (some c) h.2.2⟩

theorem wfFrom_filter (m : Memory) (p : Nat × Byte → Bool) (lo : Option Nat) (h : Memory.wfFrom lo m = true) :
    Memory.wfFrom lo (m.filter p) = true := by
  induction m generalizing lo with
  | nil => exact h
  | cons x r ih =>
    obtain ⟨c, d⟩ := x
    rw [wfFrom_cons] at h
    simp only [List.filter_cons]
    split
    · rw [wfFrom_cons]
      exact ⟨h.1, h.2.1, ih (some c) h.2.2⟩
    · refine wfFrom_weaken _ c lo (ih (some c) h.2.2) fun k hk => ?_
      have := h.1 k hk
      omega

theorem memWrite_wf (m : Memory) (a : Nat) (b : Byte) (h : m.wf = true) : (memWrite m a b).wf = true := by
  unfold memWrite
  split
  · exact wfFrom_mdel m a none h
  · rename_i hb
    exact wfFrom_mput m a b none hb h (by simp)

theorem writeBytes_wf (m : Memory) (a : Nat) (l : List Byte) (h : m.wf = true) : (writeBytes m a l).wf = true := by
  induction l generalizing m a with
  | nil => exact h
  | cons b r ih => exact ih _ _ (memWrite_wf m a b h)

theorem clearBytes_wf (m : Memory) (a n : Nat) (h : m.wf = true) : (clearBytes m a n).wf = true :=
  wfFrom_filter m _ none h

theorem filter_wf (m : Memory) (p : Nat × Byte → Bool) (h : m.wf = true) : Memory.wf (m.filter p) = true :=
  wfFrom_filter m p none h

/-! Reads after writes. -/

theorem memRead_memWrite_same (m : Memory) (a : Nat) (b : Byte) :
    memRead (memWrite m a b) a = b := by
  unfold memWrite
  split
  · rename_i hb
    simp [memRead, mget_mdel_same, hb]
  · simp [memRead]

theorem memRead_memWrite_other (m : Memory) (a c : Nat) (b : Byte) (h : c ≠ a) :
    memRead (memWrite m a b) c = memRead m c := by
  unfold memWrite
  split
  · simp [memRead, mget_mdel_other m a c h]
  · simp [memRead, mget_mput_other m a c b h]

theorem memRead_writeBytes_outside (m : Memory) (a c : Nat) (l : List Byte) (h : c < a ∨ a + l.length ≤ c) :
    memRead (writeBytes m a l) c = memRead m c := by
  induction l generalizing m a with
  | nil => rfl
  | cons b r ih =>
    simp only [List.length_cons] at h
    rw [writeBytes, ih _ _ (by omega), memRead_memWrite_other _ _ _ _ (by omega)]

theorem memRead_writeBytes_inside (m : Memory) (a i : Nat) (l : List Byte) (hi : i < l.length) :
    memRead (writeBytes m a l) (a + i) = l[i] := by
  induction l generalizing m a i with
  | nil => simp at hi
  | cons b r ih =>
    cases i with
    | zero =>
      rw [writeBytes, memRead_writeBytes_outside _ _ _ _ (by omega)]
      simpa using memRead_memWrite_same m a b
    | succ j =>
      rw [writeBytes, show a + (j + 1) = (a + 1) + j by omega]
      simpa using ih (memWrite m a b) (a + 1) j (by simpa using hi)

theorem readBytes_writeBytes (m : Memory) (a : Nat) (l : List Byte) :
    readBytes (writeBytes m a l) a l.length = l := by
  have key : ∀ (n i : Nat), i + n = l.length → readBytes (writeBytes m a l) (a + i) n = l.drop i := by
    intro n
    induction n with
    | zero => intro i hi; simp [readBytes, List.drop_eq_nil_of_le (show l.length ≤ i by omega)]
    | succ n ih =>
      intro i hi
      have hlt : i < l.length := by omega
      rw [readBytes, memRead_writeBytes_inside m a i l hlt, show a + i + 1 = a + (i + 1) by omega,
        ih (i + 1) (by omega), List.drop_eq_getElem_cons hlt]
  simpa using key l.length 0 (by omega)

end Sys2Proof.Machine
end

