-- ==== Sys2Proof/Laws/Runner.lean ====
section
/-! SUPPORT. What one instruction does in a thread that issues alone, and what going on after it changes. -/

namespace Sys2Proof.Machine

theorem coreOf_tkey (core slot : Nat) (h : slot < 2048) : coreOf (tkey core slot) = core := by
  unfold coreOf tkey; omega

theorem tkey_slot (core slot : Nat) (h : slot < 2048) : tkey core slot % 2048 = slot := by
  unfold tkey; omega

theorem Lone.core_eq {s core slot t w i} (h : Lone s core slot t w i) : coreOf (tkey core slot) = core :=
  coreOf_tkey core slot h.low

/-- No trap raised, nothing taken (R404). -/
@[simp] theorem raiseTraps_nil (s : State) : raiseTraps s [] = s := by
  unfold raiseTraps
  split
  · rfl
  · rename_i l e; simp [← e]

/-- A trap raised in a cycle of one troupe is taken at once (R404, R405). -/
theorem raiseTraps_one (s : State) (x : Raised) (h : s.gather = none) :
    raiseTraps s [x] = takeTrap s x.key x.trap x.resume x.pc := by
  simp [raiseTraps, h, takeTraps]

@[simp] theorem stillThere_self (s : State) (k : Nat) : stillThere s s k = true := by simp [stillThere]

/-- A lone thread whose predicate holds does what the body says, and nothing else moves. -/
theorem perThread_lone {s core slot t w i} (h : Lone s core slot t w i) (p : PReg) (hp : t.rdP p = true)
    (body : State → Nat → Nat → Effect) :
    perThread i p body s = .next (match body s (tkey core slot) (laneOf slot) with
      | .next u => goneOn u core slot i
      | .jump u pc => transferTo u (tkey core slot) pc
      | .placed u => u
      | .wait u r => holdThread u (tkey core slot) r
      | .trap u ti => raiseTraps u [raised (tkey core slot) t i ti]
      | .trapAt u ti r pc => raiseTraps u [⟨tkey core slot, ti, r, pc⟩]) := by
  have hm : memberLanes s.cur = [(tkey core slot, laneOf slot)] := by
    simp [memberLanes, h.cur, laneOf]
  unfold perThread runThreads
  rw [hm]
  simp only [List.foldl_cons, List.foldl_nil, stillThere_self, if_true]
  unfold runMember
  simp only [h.here, h.group, h.legal, hp, h.room]
  cases hb : body s (tkey core slot) (laneOf slot) <;> simp [goneOn]

/-- A lone thread whose predicate is false passes over the instruction. -/
theorem perThread_skipped {s core slot t w i} (h : Lone s core slot t w i) (p : PReg) (hp : t.rdP p = false)
    (body : State → Nat → Nat → Effect) :
    perThread i p body s = .next (if isTransfer i then transferTo s (tkey core slot) (resumeOf t i).skipPc
      else goneOn s core slot i) := by
  have hm : memberLanes s.cur = [(tkey core slot, laneOf slot)] := by
    simp [memberLanes, h.cur, laneOf]
  unfold perThread runThreads
  rw [hm]
  simp only [List.foldl_cons, List.foldl_nil, stillThere_self, if_true]
  unfold runMember
  simp only [h.here, h.group, h.legal, hp]
  cases hb : isTransfer i <;> simp [goneOn]

/-- An instruction that changes only its own thread. -/
theorem onThread_lone {s core slot t w i} (h : Lone s core slot t w i) (p : PReg) (hp : t.rdP p = true)
    (f : Thread → Thread) :
    onThread i p f s = .next (goneOn (s.setThread (tkey core slot) (f t)) core slot i) := by
  unfold onThread
  rw [perThread_lone h p hp, setThread_of_modThread _ _ t _ h.here]

/-- A counted instruction whose results are known at issue. -/
theorem onThreadCounted_lone {s core slot t w i} (h : Lone s core slot t w i) (p : PReg) (hp : t.rdP p = true)
    (f : Thread → List RegWrite) :
    onThreadCounted i p f s =
      .next (goneOn (s.setThread (tkey core slot) (t.countResult (f t))) core slot i) :=
  onThread_lone h p hp _

theorem withThread_lone {s core slot t w i} (h : Lone s core slot t w i) (f : Thread → Effect) :
    withThread s (tkey core slot) f = f t := by
  simp [withThread, h.here]

theorem withWg_lone {s core slot t w i} (h : Lone s core slot t w i) (f : Thread → Workgroup → Effect) :
    withWg s (tkey core slot) f = f t w := by
  simp [withWg, withThread, h.here, h.group]

/-! Going on. -/

theorem atBoundary_eq (s : State) (k : Nat) (t : Thread) (h : s.thread? k = some t) :
    atBoundary s k = s.modWg t.wg fun w =>
      let w := (w.crWrites.filter (·.thread = k)).foldl (fun w c => w.setCr c.reg c.value) w
      { w with
        crWrites := w.crWrites.filter (·.thread ≠ k)
        stale := (w.stale.map fun u => { u with readers := u.readers.filter (· ≠ t.lin) }).filter (·.readers ≠ []) } := by
  simp [atBoundary, h]

@[simp] theorem thread_atBoundary (s : State) (k j : Nat) : (atBoundary s k).thread? j = s.thread? j := by
  unfold atBoundary
  split
  · rfl
  · simp

theorem goHeader_thread (s : State) (k : Nat) (pc : DWord) (t : Thread) (h : s.thread? k = some t) :
    (goHeader s k pc).thread? k = some { t with pc := pc, clause := none } := by
  simp [goHeader, State.modThread, h]

theorem goHeader_other (s : State) (k j : Nat) (pc : DWord) (h : j ≠ k) :
    (goHeader s k pc).thread? j = s.thread? j := by
  unfold goHeader
  rw [thread_atBoundary]
  unfold State.modThread
  split
  · exact thread_setThread_other _ _ _ _ h
  · rfl

/-- Where a thread that goes on inside its clause, or to the boundary at its end, stands (R42). -/
theorem goBody_thread (s : State) (k : Nat) (c : Option Clause) (pc : DWord) (t : Thread) (h : s.thread? k = some t) :
    (goBody s k c pc).thread? k = some { t with
      pc := pc
      clause := match c with
        | some cl => if pc = cl.stop then none else some cl
        | none => none } := by
  cases c with
  | none => simpa [goBody] using goHeader_thread s k pc t h
  | some cl =>
    unfold goBody
    by_cases e : pc = cl.stop
    · simp [e, goHeader_thread s k cl.stop t h]
    · simp [e, State.modThread, h]

theorem goBody_other (s : State) (k j : Nat) (c : Option Clause) (pc : DWord) (h : j ≠ k) :
    (goBody s k c pc).thread? j = s.thread? j := by
  cases c with
  | none => exact goHeader_other s k j pc h
  | some cl =>
    unfold goBody
    by_cases e : pc = cl.stop
    · simp [e, goHeader_other s k j cl.stop h]
    · simp only [e, if_false]
      unfold State.modThread
      split
      · exact thread_setThread_other _ _ _ _ h
      · rfl

/-- The thread after it has gone on: only its place and the bookkeeping of an issue change. -/
theorem advance_thread (s : State) (k n : Nat) (t : Thread) (h : s.thread? k = some t) :
    (advance s k n).thread? k = some { t.retire s.now (s.cycles (coreOf k)) with
      pc := t.pc + BitVec.ofNat 64 n
      clause := match t.clause with
        | some cl => if t.pc + BitVec.ofNat 64 n = cl.stop then none else some cl
        | none => none } := by
  unfold advance
  simp only [h]
  exact goBody_thread _ _ _ _ _ (thread_setThread_same _ _ _)

theorem advance_other (s : State) (k j n : Nat) (h : j ≠ k) : (advance s k n).thread? j = s.thread? j := by
  unfold advance
  split
  · rfl
  · rw [goBody_other _ _ _ _ _ h, thread_setThread_other _ _ _ _ h]

/-! The gate of a memory instruction. -/

/-- With nothing outstanding, a memory instruction acts at once (R160, R166, R232). -/
theorem memGate_settled (s : State) (k : Nat) (t : Thread) (h : Settled s k t) (o : MOrd) (rel : Bool) (sp : Space)
    (f : State → Thread → Effect) : memGate s k t o rel sp f = f s t := by
  have hd : t.deferred.find? (fun d => d.due == .counter) = none := by rw [h.deferred]; rfl
  simp [memGate, orderGate, orderAt, afterOrder, h.fence, h.free, ackGate, hd, h.accs, h.matrix, h.acks]

/-- With no fence placed and no access pending, a job is issued at once (R168). -/
theorem jobGate_quiet (s : State) (k : Nat) (t : Thread) (h : Quiet s k t) (f : State → Thread → Effect) :
    jobGate s k t f = f s t := by
  simp [jobGate, memGate, orderGate, orderAt, afterOrder, h.fence, h.accs, h.free]

/-- An access of a thread of which nothing is pending meets no earlier one of its own (R153, R160). -/
theorem ahead_settled (s : State) (k : Nat) (p : Option (Area × Nat)) (n : Nat) (h : ownAccs s k = []) :
    ahead s k p n = .clear := by
  cases p <;> simp [ahead, ownAt, h]

theorem overlaps_settled (s : State) (k : Nat) (p : Option (Area × Nat)) (n : Nat) (h : ownAccs s k = []) :
    overlaps s k p n = false := by
  cases p <;> simp [overlaps, ownAt, h]

theorem aheadLocal_settled (s : State) (k : Nat) (l : Local) (n : Nat) (h : ownAccs s k = []) :
    aheadLocal s k l n = .clear := ahead_settled s k _ n h

theorem localBusy_settled (s : State) (k : Nat) (l : Local) (n : Nat) (h : ownAccs s k = []) :
    localBusy s k l n = false := overlaps_settled s k _ n h

end Sys2Proof.Machine
end

