-- ==== Sys2Proof/Laws/Results.lean ====
section
/-! SUPPORT. What an instruction that changes only its own thread gives, from the change it makes. -/

namespace Sys2Proof.Machine

theorem gives_of_onThread {s core slot t w i p u} {f : Thread → Thread} (he : exec i s = onThread i p f s)
    (hv : f t = u) : Gives s core slot t w i p u := by
  intro h hp; rw [he, onThread_lone h p hp, hv]

theorem givesG_of_onThread {s core slot t w i p d v} {f : Thread → Thread} (he : exec i s = onThread i p f s)
    (hv : f t = t.wrG d v) : GivesG s core slot t w i p d v := by
  intro h hp; rw [he, onThread_lone h p hp, hv]

theorem givesP_of_onThread {s core slot t w i p d v} {f : Thread → Thread} (he : exec i s = onThread i p f s)
    (hv : f t = t.wrP d v) : GivesP s core slot t w i p d v := by
  intro h hp; rw [he, onThread_lone h p hp, hv]

theorem givesCounted_of_onThreadCounted {s core slot t w i p ws} {f : Thread → List RegWrite}
    (he : exec i s = onThreadCounted i p f s) (hv : f t = ws) : GivesCounted s core slot t w i p ws := by
  intro h hp; rw [he, onThreadCounted_lone h p hp, hv]

end Sys2Proof.Machine
end

