-- ==== Sys2Proof/Tests/Slice0.lean ====
section
/-! SUPPORT. Tests: words of the spec's encodings decoded, ill-formed instructions refused, states and operands that
meet the hypotheses of the statements, and results that the spec works out. -/

open Sys2Proof Sys2Proof.Machine

-- One theorem after another: each thread of the elaborator takes a stack of its own.
set_option Elab.async false

namespace Sys2Proof.Tests

/-! Decoding. Each word is written out from the fields of spec/opcode_table.json and the code tables of R52 to R58,
R212, R215, R227, R231 and R234, with a different value in each field. -/

/-- Does every word decode to the instruction beside it. -/
def decodesTo (l : List (Nat × Nat × Instr)) : Bool := l.all fun x => decide (decodeTableWord x.1 x.2.1 = some x.2.2)

theorem test_decode_header_and_control_1 : decodesTo [
    (32, 0x9CB2D181, .clauseHeader 19 9 6 0x5a3),
    (32, 0x152E1983, .immx 0x2a5c33),
    (32, 0x00000285, .nop 5),
    (32, 0x00000685, .yield 5),
    (32, 0x00000A85, .exit 5),
    (32, 0x60000E85, .trap 24 5),
    (32, 0x00001285, .tretRetry 5),
    (32, 0x04001285, .tretSkip 5),
    (32, 0x09001285, .tretJmp 16 5),
    (32, 0x00001685, .halt 5),
    (32, 0x01021A85, .snapc 16 8 5),
    (32, 0x00721E85, .sread 7 8 5),
    (32, 0x00722285, .crrd 7 8 5),
    (32, 0x01016685, .crwr 16 5 5),
    (32, 0xA0026A85, .sweep 40 9 5),
    (32, 0xA1002E85, .tlbi 40 16 5),
    (32, 0x01027285, .pgreq 16 9 5),
    (32, 0x0100F685, .pgqry 16 3 5),
    (32, 0x01027A85, .cctlL1evict 16 9 5),
    (32, 0x05027A85, .cctlL2clean 16 9 5)] = true := by decide +kernel

theorem test_decode_header_and_control_2 : decodesTo [
    (32, 0x09027A85, .cctlL2evict 16 9 5),
    (32, 0x0C027A85, .cctlL1flush 9 5)] = true := by decide +kernel

theorem test_decode_short : decodesTo [
    (16, 0x0000, .nop16),
    (16, 0xCD40, .mov16 true 19 10),
    (16, 0xCD42, .add16 true 19 10),
    (16, 0xCD44, .sub16 true 19 10),
    (16, 0xCD46, .mul16 true 19 10),
    (16, 0xCD48, .and16 true 19 10),
    (16, 0xCD4A, .or16 true 19 10),
    (16, 0xCD4C, .xor16 true 19 10),
    (16, 0xCD4E, .shl16 true 19 10),
    (16, 0xCD50, .shr16 true 19 10),
    (16, 0xCD52, .sar16 true 19 10),
    (16, 0xCD54, .min16 true 19 10),
    (16, 0xCD56, .max16 true 19 10),
    (16, 0xCD58, .fadd16 true 19 10),
    (16, 0xCD5A, .fmul16 true 19 10),
    (16, 0xCD5C, .fmax16 true 19 10),
    (16, 0xCD5E, .fmin16 true 19 10)] = true := by decide +kernel

theorem test_decode_alu_1 : decodesTo [
    (32, 0xA1020287, .add 40 16 8 5),
    (32, 0xA1020687, .sub 40 16 8 5),
    (32, 0xA1020A87, .mul 40 16 8 5),
    (32, 0xA1020E87, .mulh 40 16 8 5),
    (32, 0xA1021287, .mulhn 40 16 8 5),
    (32, 0xA1021687, .and 40 16 8 5),
    (32, 0xA1021A87, .or 40 16 8 5),
    (32, 0xA1021E87, .xor 40 16 8 5),
    (32, 0xA1022287, .andn 40 16 8 5),
    (32, 0xA1022687, .shl 40 16 8 5),
    (32, 0xA1022A87, .shr 40 16 8 5),
    (32, 0xA1022E87, .sar 40 16 8 5),
    (32, 0xA1023287, .rot 40 16 8 5),
    (32, 0xA1023687, .min 40 16 8 5),
    (32, 0xA1023A87, .max 40 16 8 5),
    (32, 0xA1023E87, .minn 40 16 8 5),
    (32, 0xA1020289, .maxn 40 16 8 5),
    (32, 0x01020689, .abs 16 8 5),
    (32, 0x01020A89, .neg 16 8 5),
    (32, 0x01020E89, .clz 16 8 5)] = true := by decide +kernel

theorem test_decode_alu_2 : decodesTo [
    (32, 0x01021289, .popc 16 8 5),
    (32, 0x01021689, .brev 16 8 5),
    (32, 0xA1021A89, .div 40 16 8 5),
    (32, 0xA1021E89, .rem 40 16 8 5),
    (32, 0xA1022289, .divn 40 16 8 5),
    (32, 0xA1022689, .remn 40 16 8 5),
    (32, 0xA1022B09, .sel 40 16 8 6),
    (32, 0x01022E89, .mov 16 8 5),
    (32, 0xA1023289, .lea 40 16 8 5),
    (32, 0xA102028B, .mad 40 16 8 5),
    (32, 0xA102028D, .bfe 40 16 8 5),
    (32, 0xA102068D, .bfi 40 16 8 5)] = true := by decide +kernel

theorem test_decode_compare_and_immediate : decodesTo [
    (32, 0xA100D68F, .cmp 40 16 3 .ge 5),
    (32, 0xA100D691, .cmpn 40 16 3 .ge 5),
    (32, 0xA100DA93, .fcmp 40 16 3 .un 5),
    (32, 0xAD502295, .addi 0x2b5 16 8 5),
    (32, 0xAD502297, .andi 0x2b5 16 8 5),
    (32, 0xAD502299, .ori 0x2b5 16 8 5),
    (32, 0xAD50229B, .xori 0x2b5 16 8 5),
    (32, 0x0550229D, .shli 21 16 8 5),
    (32, 0x0550229F, .shri 21 16 8 5),
    (32, 0x055022A1, .sari 21 16 8 5),
    (32, 0xAD4022A3, .movi 0x2b5 8 5),
    (32, 0xAD50CEA5, .cmpi 0x2b5 16 .ltn 3 5)] = true := by decide +kernel

theorem test_decode_predicate : decodesTo [
    (32, 0x0C1102A7, .pand 3 1 4 5),
    (32, 0x0C1106A7, .por 3 1 4 5),
    (32, 0x0C110AA7, .pxor 3 1 4 5),
    (32, 0x00304EA7, .pnot 3 1 5),
    (32, 0x003052A7, .pmov 3 1 5),
    (32, 0x000216A7, .p2g 8 5),
    (32, 0xA1001AA7, .g2p 40 16 5),
    (32, 0xA0305EA7, .mand 40 3 1 5),
    (32, 0xA03062A7, .mor 40 3 1 5),
    (32, 0x003226A7, .mpop 3 8 5),
    (32, 0x0C112AA7, .mtst 3 1 4 5)] = true := by decide +kernel

theorem test_decode_uniform_1 : decodesTo [
    (32, 0xA10202A9, .uAdd 40 16 8 5),
    (32, 0xA10206A9, .uSub 40 16 8 5),
    (32, 0xA1020AA9, .uMul 40 16 8 5),
    (32, 0xA1020EA9, .uMulh 40 16 8 5),
    (32, 0xA10212A9, .uMulhn 40 16 8 5),
    (32, 0xA10216A9, .uAnd 40 16 8 5),
    (32, 0xA1021AA9, .uOr 40 16 8 5),
    (32, 0xA1021EA9, .uXor 40 16 8 5),
    (32, 0xA10222A9, .uAndn 40 16 8 5),
    (32, 0xA10226A9, .uShl 40 16 8 5),
    (32, 0xA1022AA9, .uShr 40 16 8 5),
    (32, 0xA1022EA9, .uSar 40 16 8 5),
    (32, 0xA10232A9, .uRot 40 16 8 5),
    (32, 0xA10236A9, .uMin 40 16 8 5),
    (32, 0xA1023AA9, .uMax 40 16 8 5),
    (32, 0xA1023EA9, .uMinn 40 16 8 5),
    (32, 0xA10202AB, .uMaxn 40 16 8 5),
    (32, 0x010206AB, .uAbs 16 8 5),
    (32, 0x01020AAB, .uNeg 16 8 5),
    (32, 0x01020EAB, .uClz 16 8 5)] = true := by decide +kernel

theorem test_decode_uniform_2 : decodesTo [
    (32, 0x010212AB, .uPopc 16 8 5),
    (32, 0x010216AB, .uBrev 16 8 5),
    (32, 0xA1022B2B, .usel 40 16 8 6),
    (32, 0x01022EAB, .uMov 16 8 5),
    (32, 0xA10232AB, .uLea 40 16 8 5),
    (32, 0x010236AB, .s2g 16 8 5),
    (32, 0x01023AAB, .g2s 16 8 5)] = true := by decide +kernel

theorem test_decode_float_1 : decodesTo [
    (32, 0xA10202AD, .fadd 40 16 8 5),
    (32, 0xA10206AD, .fsub 40 16 8 5),
    (32, 0xA1020AAD, .fmul 40 16 8 5),
    (32, 0xA1020EAD, .fmin 40 16 8 5),
    (32, 0xA10212AD, .fmax 40 16 8 5),
    (32, 0x010216AD, .fabs 16 8 5),
    (32, 0x01021AAD, .fneg 16 8 5),
    (32, 0xA1021EAD, .fdiv 40 16 8 5),
    (32, 0x010222AD, .fsqrt 16 8 5),
    (32, 0x010226AD, .frcp 16 8 5),
    (32, 0x01022AAD, .frsq 16 8 5),
    (32, 0x01022EAD, .fexp2 16 8 5),
    (32, 0x010232AD, .flog2 16 8 5),
    (32, 0x010236AD, .fsin 16 8 5),
    (32, 0x01023AAD, .fcos 16 8 5),
    (32, 0x01023EAD, .ftanh 16 8 5),
    (32, 0xA10202AF, .ffma 40 16 8 5),
    (32, 0x010202B1, .fflr 16 8 5),
    (32, 0x010206B1, .fceil 16 8 5),
    (32, 0x01020AB1, .frnd 16 8 5)] = true := by decide +kernel

theorem test_decode_float_2 : decodesTo [
    (32, 0x01020EB1, .ftrc 16 8 5),
    (32, 0x010212B1, .randSeed 16 8 5),
    (32, 0x040212B1, .randDraw 8 5),
    (32, 0xC89022B3, .cvt true .sr .bf16 .f32 16 8 5)] = true := by decide +kernel

theorem test_decode_packed_and_quant : decodesTo [
    (32, 0xA10202B5, .hadd2 40 16 8 5),
    (32, 0xA10206B5, .hmul2 40 16 8 5),
    (32, 0xA1020AB5, .hfma2 40 16 8 5),
    (32, 0xA1020EB5, .hmax2 40 16 8 5),
    (32, 0xA10212B5, .hmin2 40 16 8 5),
    (32, 0xA10216B5, .badd2 40 16 8 5),
    (32, 0xA1021AB5, .bmul2 40 16 8 5),
    (32, 0xA1021EB5, .bfma2 40 16 8 5),
    (32, 0xA10202B7, .qmax 40 16 8 5),
    (32, 0xA10206B7, .qscl 40 16 8 5),
    (32, 0xA1020AB7, .qpack 40 16 8 5),
    (32, 0xA1020EB7, .qunpk 40 16 8 5),
    (32, 0xA10212B7, .idp4 40 16 8 5)] = true := by decide +kernel

theorem test_decode_transfer : decodesTo [
    (32, 0xA970CEB9, .bra 0x2a5c33 5),
    (32, 0xA970CEBB, .braU 0x2a5c33 5),
    (32, 0xA5C322BD, .call 0xa5c3 8 5),
    (32, 0x010002BF, .jmpr 16 5),
    (32, 0x010206BF, .callr 16 8 5),
    (32, 0x01000ABF, .ret 16 5),
    (32, 0x01000EBF, .meet 16 5),
    (32, 0x04000EBF, .meetClr 5)] = true := by decide +kernel

theorem test_decode_memory : decodesTo [
    (32, 0x635042C1, .ldP .sc .b128 40 8 5),
    (32, 0x635042C3, .ldS .sc .b128 40 8 5),
    (32, 0x635042C5, .ldC .sc .b128 40 8 5),
    (32, 0x635042C7, .ldW .sc .b128 40 8 5),
    (32, 0x735046C9, .ldG .sc .stream .b128 40 8 true 5),
    (32, 0x635042CB, .stP .sc .b128 40 8 5),
    (32, 0x635042CD, .stS .sc .b128 40 8 5),
    (32, 0x635042CF, .stC .sc .b128 40 8 5),
    (32, 0x635042D1, .stW .sc .b128 40 8 5),
    (32, 0x735042D3, .stG .sc .stream .b128 40 8 5),
    (32, 0x61021AD5, .ldb 24 16 8 .b128 5),
    (32, 0xA08E62D7, .atom 40 8 .sc .global .addN64 5),
    (32, 0xA08E62D9, .red 40 8 .sc .global .addN64 5),
    (32, 0x003082DB, .fence .module .release 5),
    (32, 0x010046DB, .pref 16 .l1w 5)] = true := by decide +kernel

theorem test_decode_copy : decodesTo [
    (32, 0x4D0082DD, .tsld 19 16 .global 5),
    (32, 0x4C0006DD, .tsev 19 5),
    (32, 0x4D090ADD, .tsq 19 16 9 false 5),
    (32, 0x010962DF, .cpy 16 9 .module 5),
    (32, 0xA10966DF, .cpyt 40 16 9 .module 5),
    (32, 0xA1096ADF, .cpys 40 16 9 .module 5),
    (32, 0xA1096EDF, .cpyo 40 16 9 .module 5),
    (32, 0xA10972DF, .cpyr 40 16 9 .module 5),
    (32, 0x010976DF, .job 16 9 .module 5),
    (32, 0x010902E1, .waith 16 9 5),
    (32, 0x0C0966E1, .testh 3 9 .flt 5),
    (32, 0x00960AE1, .movh 9 6 5),
    (32, 0x00090EE1, .cancel 9 5),
    (32, 0x010992E1, .hsave 16 9 .global 5),
    (32, 0x010996E1, .hrest 16 9 .global 5),
    (32, 0xA1001AE1, .bufq 40 16 5),
    (32, 0xA0001EE1, .bufrel 40 5)] = true := by decide +kernel

theorem test_decode_synchronisation : decodesTo [
    (32, 0xA10002E3, .barinit 40 16 5),
    (32, 0x010206E3, .bararv 16 8 5),
    (32, 0xA1000AE3, .barexp 40 16 5),
    (32, 0xA1000EE3, .barwait 40 16 5),
    (32, 0xA100D2E3, .bartest 40 16 3 5),
    (32, 0x010016E3, .bardrop 16 5),
    (32, 0x00021AE3, .sstep 8 5),
    (32, 0xA1021EE3, .rdv 40 16 8 5),
    (32, 0x010202E5, .launch 16 8 5)] = true := by decide +kernel

theorem test_decode_matrix : decodesTo [
    (32, 0x0000C2E7, .mrsv 3 5),
    (32, 0x000006E7, .mrel 5),
    (32, 0x2C024AE7, .mzero true 3 9 5),
    (32, 0x10020EE7, .mstat 4 8 5),
    (32, 0xA100E6E9, .mmaHBf16 40 16 3 9 5),
    (32, 0xA102E6E9, .mmaHF16 40 16 3 9 5),
    (32, 0xA104E6EB, .mmaQE4m3 40 16 true 3 9 5),
    (32, 0xA106E6EB, .mmaQE5m2 40 16 true 3 9 5),
    (32, 0xA100E6ED, .mmaNRb4 40 16 3 9 5),
    (32, 0xA106E6ED, .mmaNI8 40 16 true 3 9 5),
    (32, 0x0100E6EF, .mld 16 3 9 5),
    (32, 0x010AE6EF, .mst 16 .e4m3 3 9 5)] = true := by decide +kernel

/-- The words that R51, R228, R231 work out in their text, and those of R75's kernel. -/
theorem test_decode_worked_words : decodesTo [
    (32, 0x02468A83, .immx 0x48D15),
    (32, 0x9E0017A3, .movi 0x278 5 7),
    (32, 0x106E5BD7, .atom 4 6 .sc .global .cas32 7),
    (32, 0x003083DB, .fence .module .release 7),
    (32, 0x1F800001, .clauseHeader 3 15 0 0),
    (32, 0x00000B85, .exit 7)] = true := by decide +kernel

/-- R59, R41, R42: reserved codes, lengths and must-be-zero bits are refused: a header of length 0 and one with flag
12, major 0x3F, sub 15 of major 0x02, condition 6 of CMP, fmt 15, order 2 on a load, an odd pair, and a non-zero b of MOV. -/
theorem test_decode_refuses : ([0x00780001, 0x1E600001, 0x0000007F, 0x00003C05, 0x0000180F, 0x07800041,
    0x40000043, 0x00020049, 0x04002C09] : List Nat).all (fun w => (decodeTableWord 32 w).isNone) = true := by decide +kernel

/-! Well-formedness: one ill-formed instruction for each check. -/

theorem test_wf_refuses_spans : [Instr.jmpr 3 7, .sread 16 5 7, .crrd 0 5 7, .crwr 5 2 7, .lea 1 3 2 7, .lea 1 2 3 7,
    .qpack 1 4 0 7, .qunpk 1 0 4 7, .call 0 3 7, .ldS .plain .b256 1 4 7, .stS .plain .b64 1 3 7,
    .ldG .plain .dflt .b32 1 2 false 7, .stG .plain .dflt .b32 1 2 7, .ldb 0 1 2 .b128 7, .atom 1 2 .plain .global .addI32 7,
    .atom 2 3 .plain .scratch .cas64 7, .tsld 0 1 .global 7, .cpy 4 0 .module 7, .hsave 1 0 .global 7, .launch 3 1 7,
    .uLea 0 1 2 7, .mmaHBf16 1 2 0 0 7].all (fun i => !i.wf) = true := by decide +kernel

theorem test_wf_refuses_values : [Instr.clauseHeader 0 15 15 0, .clauseHeader 1 12 15 0, .clauseHeader 1 15 14 0,
    .mov16 false 0 0, .shli 32 1 1 7, .shri 32 1 1 7, .sari 32 1 1 7, .sread 19 1 7, .crrd 12 1 7, .crwr 1 12 7,
    .cvt false .rne .f32 .f32 1 1 7, .cvt false .sr .i32 .f32 1 1 7, .ldP .rel .b32 1 1 7, .ldG .rel .dflt .b32 2 1 false 7,
    .stW .acq .b32 1 1 7, .stG .acq .dflt .b32 2 1 7, .red 1 1 .plain .scratch .exch 7, .red 1 1 .acq .scratch .addI32 7,
    .tsld 0 2 .wafer 7, .tsq 0 1 1 true 7, .mstat 6 1 7].all (fun i => !i.wf) = true := by decide +kernel

theorem test_wf_accepts : [Instr.clauseHeader 1 15 11 0, .shli 31 1 1 7, .sread 18 2 7, .crrd 11 1 7, .crwr 1 11 7,
    .cvt true .sr .e4m3 .f32 1 1 7, .ldP .acq .b256 1 8 7, .stG .rel .dev .b32 2 1 7, .tsld 0 2 .global 7,
    .mstat 5 1 7].all (fun i => i.wf) = true := by decide +kernel

/-! A small state: one thread in slot 0 of core 0, in a clause of 15 units, of a running workgroup in user context with
every trap enabled; pages of code, data, a device window, the broadcast window and another module in the TLB. -/

def tBinding : Binding := ⟨0, 1, 0, 0, 0x100, 0x8000, 0, 0x40000, 0xFFFFFFFF, false, true, 1⟩
def tClause : Clause := ⟨0x10000, 0x10040, 2, 3, List.replicate 60 0⟩
def tT : Thread := { Thread.start 1 0 0 0x10004 0 0 with clause := some tClause }
def tW : Workgroup :=
  { Workgroup.start ⟨7, 0, 0, 0, 0, 0, 0, 0⟩ ⟨1, 1, 1, 1, 4, 1, 1, 64, 1024, 4096, 2048, 2, 0⟩ tBinding 0xFF 0 [0, 1, 2, 3] [] 0
    with phase := .running }
def tPage (vpn ppn : Nat) (x w : Bool) : Trans := ⟨1, vpn, 0, ppn, true, x, w, true⟩
def tCore : Core := { Core.reset with tlb := [tPage 4 4 true false, tPage 8 8 false true,
  tPage 9 (0xFF0000000000 / 2 ^ 14) false true, tPage 10 (0x080000000000 / 2 ^ 14) false true,
  tPage 11 (5 * 2 ^ 34 + 8) false true] }
def tS (t : Thread) (w : Workgroup) : State := { State.reset with
  cur := ⟨0, [0]⟩, threads := [(0, t)], wgs := [(1, w)], cores := [(0, tCore)]
  vaults := [(0, { Vault.reset with cap := 512 })], boot := { BootUnit.reset with frames := [4] }, time := { TimeUnit.reset with fields := (List.range 16).map fun n =>
    (n, { Field.reset with running := true }) } }
/-- The thread with general registers set. -/
def regs (t : Thread) (l : List (Reg × Word)) : Thread := l.foldl (fun t x => t.wrG x.1 x.2) t

/-- Do the instructions pass the checks at issue, with room in their flags. -/
def issues (t : Thread) (w : Workgroup) (l : List Instr) : Bool := l.all fun i => issueOk t w i && !flagFull t i

/-- Each listed instruction stands in a thread that issues alone: the hypothesis Lone of the statements is met. -/
theorem lone_of (t : Thread) (w : Workgroup) (l : List Instr) (hw : t.wg = 1) (h : issues t w l = true) :
    ∀ i ∈ l, Lone (tS t w) 0 0 t w i := by
  intro i hi
  have hl := List.all_eq_true.mp h i hi
  simp only [Bool.and_eq_true, Bool.not_eq_true'] at hl
  exact ⟨by decide, rfl, rfl, by simp [State.wg?, tS, hw, mget], hl.1, hl.2, rfl⟩

/-- What the next state says, if there is one. -/
def after (i : Instr) (s : State) (q : State → Bool) : Bool :=
  match exec i s with
  | .next u => q u
  | _ => false
/-- What the thread is like after the instruction. -/
def thread (i : Instr) (t : Thread) (q : Thread → Bool) : Bool :=
  after i (tS t tW) fun u => match u.thread? 0 with
    | some x => q x
    | none => false
/-- Each instruction leaves its word in g1, g2, g3 and so on being 2 and 3's sources. -/
def gives (l : List (Instr × Word × Word × Word × Word)) : Bool := l.all fun x =>
  thread x.1 (regs tT [(1, x.2.1), (2, x.2.2.1), (3, x.2.2.2.1)]) fun t => t.rdG 3 == x.2.2.2.2
/-- Each counted instruction has its word in flight for g3. -/
def givesLater (l : List (Instr × Word × Word × Word)) : Bool := l.all fun x =>
  thread x.1 (regs tT [(1, x.2.1), (2, x.2.2.1)]) fun t => t.inflight.map (·.result) == [some [RegWrite.g 3 x.2.2.2]]
    && t.rdF 2 == 1 && t.rdG 3 == 0

/-! Lane operations: a in g1, b in g2, d in g3. The first values of each theorem are the spec's own examples. -/

/-- R283: DIV, REM and DIVN of its examples; division by zero and the overflowing case. -/
theorem test_divisions : givesLater [(.div 2 1 3 7, 0xFFFFFFF9, 2, 0xFFFFFFFD), (.rem 2 1 3 7, 0xFFFFFFF9, 2, 0xFFFFFFFF),
    (.divn 2 1 3 7, 0xFFFFFFF9, 2, 0x7FFFFFFC), (.div 2 1 3 7, 5, 0, 0xFFFFFFFF), (.rem 2 1 3 7, 5, 0, 5),
    (.div 2 1 3 7, 0x80000000, 0xFFFFFFFF, 0x80000000), (.rem 2 1 3 7, 0x80000000, 0xFFFFFFFF, 0),
    (.remn 2 1 3 7, 0x80000000, 0xFFFFFFFF, 0x80000000)] = true := by decide +kernel

/-- R280 to R282 at wraps, sign changes and counts of 32. -/
theorem test_integer : gives [(.add 2 1 3 7, 0xFFFFFFFF, 2, 0, 1), (.sub 2 1 3 7, 1, 2, 0, 0xFFFFFFFF),
    (.mulh 2 1 3 7, 0xFFFFFFFF, 2, 0, 0xFFFFFFFF), (.mulhn 2 1 3 7, 0xFFFFFFFF, 2, 0, 1),
    (.andn 2 1 3 7, 0xF0, 0x30, 0, 0xC0), (.shl 2 1 3 7, 1, 31, 0, 0x80000000), (.shl 2 1 3 7, 1, 32, 0, 0),
    (.shr 2 1 3 7, 0x80000000, 31, 0, 1), (.sar 2 1 3 7, 0x80000000, 33, 0, 0xFFFFFFFF),
    (.rot 2 1 3 7, 0x80000001, 33, 0, 3), (.min 2 1 3 7, 0xFFFFFFFF, 1, 0, 0xFFFFFFFF), (.max 2 1 3 7, 0xFFFFFFFF, 1, 0, 1),
    (.minn 2 1 3 7, 0xFFFFFFFF, 1, 0, 1), (.maxn 2 1 3 7, 0xFFFFFFFF, 1, 0, 0xFFFFFFFF), (.abs 1 3 7, 0x80000000, 0, 0, 0x80000000),
    (.clz 1 3 7, 0, 0, 0, 32), (.popc 1 3 7, 0xF0F, 0, 0, 8), (.brev 1 3 7, 1, 0, 0, 0x80000000)] = true := by decide +kernel

/-- R287: its four examples of BFE; BFI beyond bit 31. -/
theorem test_bit_fields : gives [(.bfe 2 1 3 7, 0xF0A0, 0x0804, 0, 0x0A), (.bfe 2 1 3 7, 0xF0A0, 0x8804, 0, 0x0A),
    (.bfe 2 1 3 7, 0xF0A0, 0x8808, 0, 0xFFFFFFF0), (.bfe 2 1 3 7, 0xF0000000, 0x881C, 0, 0x0F),
    (.bfi 2 1 3 7, 0xFF, 0x081C, 0x12345678, 0xF2345678), (.mad 2 1 3 7, 3, 4, 0xFFFFFFFF, 11)] = true := by decide +kernel

/-- R51: the pair of its example loads 0x12345678, and the same MOVI word alone −392. -/
theorem test_prefix : thread (.movi 0x278 3 7) { tT with immx := some 0x48D15 } (fun t => t.rdG 3 == 0x12345678) = true
    ∧ thread (.movi 0x278 3 7) tT (fun t => t.rdG 3 == BitVec.ofInt 32 (-392)) = true := by decide +kernel

/-- R289, R290, R291: −5 and 0xFFFFFFFF as signed and unsigned; NaN and the zeros in FCMP. -/
theorem test_compares : ([(.cmpi 0x3FB 1 .lt 2 7, 0xFFFFFFFA, 0, true), (.cmpi 0x3FF 1 .ltn 2 7, 0xFFFFFFFF, 0, false),
    (.cmp 2 1 2 .lt 7, 0x80000000, 0, true), (.cmpn 2 1 2 .lt 7, 0x80000000, 0, false), (.fcmp 2 1 2 .eq 7, 0x80000000, 0, true),
    (.fcmp 2 1 2 .ne 7, 0x7FC00000, 0x7FC00000, true), (.fcmp 2 1 2 .ord 7, 0x7FC00000, 0, false)]
      : List (Instr × Word × Word × Bool)).all (fun x =>
        thread x.1 (regs tT [(1, x.2.1), (2, x.2.2.1)]) fun t => t.rdP 2 == x.2.2.2) = true := by decide +kernel

/-- R302: its examples. -/
theorem test_integral : gives [(.fceil 1 3 7, 0xBF000000, 0, 0, 0x80000000), (.frnd 1 3 7, 0xBF000000, 0, 0, 0x80000000),
    (.fflr 1 3 7, 0xBF000000, 0, 0, 0xBF800000), (.frnd 1 3 7, 0x40200000, 0, 0, 0x40000000),
    (.ftrc 1 3 7, 0xFF800000, 0, 0, 0xFF800000)] = true := by decide +kernel

/-- R188, R192, R299: subnormals are kept, ties go to even, and the zeros of a minimum. -/
theorem test_float : gives [(.fadd 2 1 3 7, 1, 1, 0, 2), (.fadd 2 1 3 7, 0x3F800000, 0x33800000, 0, 0x3F800000),
    (.fsub 2 1 3 7, 0x3F800000, 0x3F800000, 0, 0), (.fmul 2 1 3 7, 0x7F000000, 0x40000000, 0, 0x7F800000),
    (.ffma 2 1 3 7, 0x40000000, 0x40400000, 0x3F800000, 0x40E00000), (.fmin 2 1 3 7, 0, 0x80000000, 0, 0x80000000),
    (.fmax 2 1 3 7, 0x7FC00000, 0, 0, 0x7FC00000)] = true := by decide +kernel

/-- R301, R300: exact results and special inputs of the counted functions. -/
theorem test_counted : givesLater [(.fdiv 2 1 3 7, 0x3F800000, 0x40000000, 0x3F000000), (.fdiv 2 1 3 7, 0x3F800000, 0, 0x7F800000),
    (.fsqrt 1 3 7, 0x40800000, 0, 0x40000000), (.frsq 1 3 7, 0x40800000, 0, 0x3F000000), (.fexp2 1 3 7, 0x40400000, 0, 0x41000000),
    (.flog2 1 3 7, 0x41000000, 0, 0x40400000), (.fsin 1 3 7, 0x80000000, 0, 0x80000000), (.fcos 1 3 7, 0, 0, 0x3F800000),
    (.ftanh 1 3 7, 0x7F800000, 0, 0x3F800000)] = true := by decide +kernel

/-- R305: its table of conversions worked through; R198's n32 to FP16. -/
theorem test_conversions : gives [(.cvt false .rne .e4m3 .f32 1 3 7, 0x43FA0000, 0, 0, 0x7E),
    (.cvt false .rne .f16 .f32 1 3 7, 0x4788B800, 0, 0, 0x7C00), (.cvt true .rne .f16 .f32 1 3 7, 0x4788B800, 0, 0, 0x7BFF),
    (.cvt false .rtz .i32 .f32 1 3 7, 0xC06CCCCD, 0, 0, 0xFFFFFFFD), (.cvt true .rne .n32 .f32 1 3 7, 0xC06CCCCD, 0, 0, 0),
    (.cvt false .rne .i8 .i32 1 3 7, 300, 0, 0, 0x2C), (.cvt true .rne .i8 .i32 1 3 7, 300, 0, 0, 0x7F),
    (.cvt false .rne .f32 .e4m3 1 3 7, 0xFF, 0, 0, 0x7FC00000), (.cvt false .rne .f16 .n32 1 3 7, 0x10000, 0, 0, 0x7C00),
    (.cvt true .rne .f16 .n32 1 3 7, 0x10000, 0, 0, 0x7BFF), (.cvt false .rne .bf16 .f32 1 3 7, 0x3F801234, 0, 0, 0x3F80),
    (.cvt false .rup .bf16 .f32 1 3 7, 0x3F801234, 0, 0, 0x3F81)] = true := by decide +kernel

/-- R195: from state 1 the SR conversion gives 0x3F81 and leaves 0x00042021; the next draws 0x04080601. -/
theorem test_stochastic : thread (.cvt false .sr .bf16 .f32 1 3 7) (regs { tT with rng := 1 } [(1, 0x3F801234)])
      (fun t => t.rdG 3 == 0x3F81 && t.rng == 0x00042021) = true
    ∧ thread (.randDraw 3 7) { tT with rng := 0x00042021 } (fun t => t.rdG 3 == 0x04080601) = true
    ∧ thread (.randSeed 0 3 7) { tT with rng := 5 } (fun t => t.rdG 3 == 5 && t.rng == 0x6A09E667) = true := by decide +kernel

/-- R306, R312: their examples. -/
theorem test_packed : gives [(.hadd2 2 1 3 7, 0x3C004000, 0x7BFF3C00, 0, 0x7BFF4200),
    (.badd2 2 1 3 7, 0x3F803F80, 0x40003F80, 0, 0x40404000), (.hmin2 2 1 3 7, 0x7E000000, 0x00008000, 0, 0x7E008000),
    (.idp4 2 1 3 7, 0x7F80FF02, 0x02020202, 77, 77)] = true := by decide +kernel

/-- R309: the smallest exponent that fits, E2M1 up to 6.0; A of 0; a NaN. -/
theorem test_quantise : gives [(.qscl 2 1 3 7, 0x40C00000, 1, 0, 0x60), (.qscl 2 1 3 7, 0, 1, 0, 0x40),
    (.qscl 2 1 3 7, 0x7FC00000, 3, 0, 0xFF), (.qscl 2 1 3 7, 0x42FE0000, 12, 0, 0x20),
    (.qmax 2 1 3 7, 0xC0400000, 0x3F800000, 0, 0x40400000)] = true := by decide +kernel

/-- R278, R287: the two-operand forms; an immediate count of 31. -/
theorem test_short : thread (.add16 false 4 3) (regs tT [(3, 5), (4, 7)]) (fun t => t.rdG 3 == 12 && t.pc == 0x10006) = true
    ∧ thread (.shl16 true 31 3) (regs tT [(3, 3)]) (fun t => t.rdG 3 == 0x80000000) = true
    ∧ thread (.fadd16 false 4 3) (regs tT [(3, 0x3F800000), (4, 0x3F800000)]) (fun t => t.rdG 3 == 0x40000000) = true := by
  decide +kernel

/-- R35, R43: a false predicate passes over an instruction, and over a transfer to the end of the clause. -/
theorem test_skipped : thread (.add 2 1 3 0) (regs tT [(1, 1)]) (fun t => t.rdG 3 == 0 && t.pc == 0x10008) = true
    ∧ thread (.bra 5 0) tT (fun t => t.pc == 0x10040 && t.clause.isNone) = true := by decide +kernel

/-! The hypotheses of the statements are met, clause by clause, at values where a clause begins to hold. A theorem is
named after its statement. -/

/-- DecodeEncode: an encoded well-formed instruction of every format. -/
theorem meets_DecodeEncode : [Instr.clauseHeader 31 15 11 0xFFF, .immx 0x3FFFFF, .nop16, .mov16 true 31 31, .add 63 63 63 7,
    .addi 0x3FF 63 63 7, .ldG .sc .dev .b256 62 56 true 7, .atom 62 60 .sc .global .cas64 7, .ldb 63 63 56 .b256 7,
    .cpy 56 15 .pod 7, .bra 0x3FFFFF 7, .call 0xFFFF 62 7, .cvt true .sr .e5m2 .f32 63 63 7, .mst 62 .e5m2 7 15 7].all
    (fun i => i.encoded && i.wf) = true := by decide +kernel

/-- MemoryKept: memory listed, and a step that answers a next state. -/
def tStore : State := { tS (regs { tT with clause := some { tClause with body := [0xCD, 0x1B, 0x04, 0x02] ++ List.replicate 56 0 } }
  [(2, 8), (3, 0xAABBCCDD)]) { tW with scratch := [(8, 1)] } with agenda := [⟨1, false, .issue 0 [0]⟩] }
theorem meets_MemoryKept : tStore.memOk ∧ (match step tStore with
    | .next u => (match u.wg? 1 with
        | some w => w.scratch == [(8, 0xDD), (9, 0xCC), (10, 0xBB), (11, 0xAA)]
        | none => false)
    | _ => false) = true :=
  ⟨⟨by decide +kernel, by decide +kernel⟩, by decide +kernel⟩

/-- StepRunsDecoded: a troupe in its clause, an event, and a thread at a boundary whose header is fetched. -/
def tHeader : State := { tS { tT with pc := 0x10000, clause := none } tW with
  agenda := [⟨1, false, .issue 0 [0]⟩], vmem := writeBytes [] 0x10000 [0x01, 0x00, 0x80, 0x1F] }
theorem meets_StepRunsDecoded :
    (coreFree tStore 0 && troupeOk tStore 0 [0]
      && decide (decodeBody { tClause with body := [0xCD, 0x1B, 0x04, 0x02] ++ List.replicate 56 0 } 0x10004
        = some (.stS .plain .b32 2 3 7))) = true
    ∧ ((Instr.quoteGo).encoded = false ∧ eventRuns tHeader .quoteGo = true ∧ eventRuns tHeader (.bid 3) = true)
    ∧ (coreFree tHeader 0 && troupeOk tHeader 0 [0]
      && (match (formTroupe 0 [0] (dropReplies 0 [0] (takeCycle tHeader 0))).thread? 0 with
        | some u => decide (u.meet = none ∧ u.held = none)
            && decide ((fetchFor (formTroupe 0 [0] (dropReplies 0 [0] (takeCycle tHeader 0))) 0 u tW 0x10000 4).1
              = .code [0x01, 0x00, 0x80, 0x1F])
        | none => false)
      && decide (decodeHeader [0x01, 0x00, 0x80, 0x1F] = some (.clauseHeader 3 15 0 0))) = true
    ∧ (match step { tHeader with vmem := writeBytes tHeader.vmem 0x1000F [0] } with
      | .next u => decide ((u.thread? 0).map (·.pc) = some 0x10004)
      | _ => false) = true := by decide +kernel

/-- HardwiredRegisters. -/
theorem meets_HardwiredRegisters : (1 : Reg) ≠ 0 ∧ (2 : Reg) ≠ 1 ∧ (6 : PReg) ≠ 7 ∧ (0 : PReg) ≠ 6 := by decide

theorem meets_IntegerGroup : (∀ i ∈ [Instr.add 2 1 3 7, .sub 2 1 3 7, .mul 2 1 3 7, .mulh 2 1 3 7, .mulhn 2 1 3 7, .and 2 1 3 7,
    .or 2 1 3 7, .xor 2 1 3 7, .andn 2 1 3 7, .rot 2 1 3 7, .min 2 1 3 7, .max 2 1 3 7, .minn 2 1 3 7, .maxn 2 1 3 7,
    .shl 2 1 3 7, .shr 2 1 3 7, .sar 2 1 63 7, .abs 1 0 7, .neg 1 3 7, .clz 1 3 7, .popc 1 3 7, .brev 1 3 7, .mov 1 3 7],
    Lone (tS tT tW) 0 0 tT tW i) ∧ tT.rdP 7 = true := ⟨lone_of tT tW _ rfl (by decide +kernel), rfl⟩

theorem meets_DivisionResults : (∀ i ∈ [Instr.div 2 1 3 7, .rem 2 1 3 7, .divn 2 1 3 7, .remn 2 1 3 7],
    Lone (tS { tT with f := tT.f.set 2 62 } tW) 0 0 { tT with f := tT.f.set 2 62 } tW i) ∧ tT.rdP 7 = true :=
  ⟨lone_of _ tW _ rfl (by decide +kernel), rfl⟩

theorem meets_AddressAndFields : (∀ i ∈ [Instr.sel 2 1 3 7, .sel 2 1 3 0, .lea 1 62 62 7, .mad 2 1 3 7, .bfe 2 1 3 7, .bfi 2 1 3 7],
    Lone (tS tT tW) 0 0 tT tW i) ∧ tT.rdP 7 = true := ⟨lone_of tT tW _ rfl (by decide +kernel), rfl⟩

/-- ImmediateResults: counts of 31, with no prefix, with one of payload 0, and one that gives a count above 31. -/
theorem meets_ImmediateResults : (∀ i ∈ [Instr.addi 0x3FF 1 3 7, .andi 1 1 3 7, .ori 1 1 3 7, .xori 1 1 3 7, .shli 31 1 3 7,
    .shri 31 1 3 7, .sari 31 1 3 7, .movi 0x200 3 7, .cmpi 0 1 .gen 2 7], Lone (tS tT tW) 0 0 tT tW i
      ∧ Lone (tS { tT with immx := some 0 } tW) 0 0 { tT with immx := some 0 } tW i) ∧ tT.rdP 7 = true
    ∧ (1 : BitVec 22) ≠ 0 :=
  ⟨fun i h => ⟨lone_of tT tW _ rfl (by decide +kernel) i h, lone_of _ tW _ rfl (by decide +kernel) i h⟩, rfl, by decide⟩

theorem meets_ConditionGroup : (∀ i ∈ [Instr.cmp 2 1 2 .ge 7, .cmpn 2 1 2 .lt 7, .fcmp 2 1 2 .un 7, .pand 1 2 3 7, .por 1 2 3 7,
    .pxor 1 2 3 7, .pnot 1 3 7, .pmov 1 7 7, .p2g 3 7, .g2p 2 1 7, .mand 2 7 7 7, .mor 2 1 7 7, .mpop 7 3 7, .mtst 7 7 2 7],
    Lone (tS tT tW) 0 0 tT tW i) ∧ tT.rdP 7 = true ∧ (fval 0x7F800001).isNan = true ∧ (fval 0x7F800000).isNan = false :=
  ⟨lone_of tT tW _ rfl (by decide +kernel), rfl, by decide +kernel, by decide +kernel⟩

theorem meets_ShortResults : (∀ i ∈ [Instr.nop16, .mov16 true 16 31, .add16 false 4 3, .sub16 true 31 3, .mul16 false 4 3,
    .and16 true 1 3, .or16 false 4 3, .xor16 true 1 3, .shl16 true 31 3, .shr16 false 4 3, .sar16 true 31 3, .min16 false 4 3,
    .max16 true 16 3, .fadd16 true 16 3, .fmul16 false 4 3, .fmax16 false 4 3, .fmin16 true 1 3],
    Lone (tS tT tW) 0 0 tT tW i) ∧ tT.rdP 7 = true := ⟨lone_of tT tW _ rfl (by decide +kernel), rfl⟩

/-- UniformGroup: a settled register, and one with a value that the thread may still read beside the new one. -/
theorem meets_UniformGroup : (∀ i ∈ [Instr.uAdd 2 1 3 7, .uSub 2 1 3 7, .uMul 2 1 3 7, .uMulh 2 1 3 7, .uMulhn 2 1 3 7, .uAnd 2 1 3 7,
    .uOr 2 1 3 7, .uXor 2 1 3 7, .uAndn 2 1 3 7, .uShl 2 1 3 7, .uShr 2 1 3 7, .uSar 2 1 3 7, .uRot 2 1 3 7, .uMin 2 1 3 7,
    .uMax 2 1 3 7, .uMinn 2 1 3 7, .uMaxn 2 1 3 7, .uAbs 1 3 7, .uNeg 1 3 7, .uClz 1 3 7, .uPopc 1 3 7, .uBrev 1 3 7,
    .usel 2 1 3 0, .uMov 1 3 7, .uLea 1 2 62 7, .s2g 1 3 7, .g2s 1 63 7], Lone (tS tT tW) 0 0 tT tW i) ∧ tT.rdP 7 = true
    ∧ (sregViews tW [0] 1).length = 1 ∧ (sregViews { tW with stale := [⟨1, 5, [0]⟩] } [0] 1).length = 2 :=
  ⟨lone_of tT tW _ rfl (by decide +kernel), rfl, by decide +kernel, by decide +kernel⟩

theorem meets_UniformVisibility : (tS tT tW).wg? 1 = some tW ∧ (3 : Nat) ∉ [0] ∧ 3 ∉ tW.exited
    ∧ 3 < tW.sizes.wgX * tW.sizes.wgY * tW.sizes.wgZ ∧ (tS { tT with lin := 3 } tW).thread? 0 = some { tT with lin := 3 } := by
  decide +kernel

/-- FloatGroup: each clause of the minimum and of the integral roundings. -/
theorem meets_FloatGroup : (∀ i ∈ [Instr.fadd 2 1 3 7, .fsub 2 1 3 7, .fmul 2 1 3 7, .ffma 2 1 3 7, .fmin 2 1 3 7, .fmax 2 1 3 7,
    .fabs 1 3 7, .fneg 1 3 7, .fflr 1 3 7, .fceil 1 3 7, .frnd 1 3 7, .ftrc 1 3 7], Lone (tS tT tW) 0 0 tT tW i) ∧ tT.rdP 7 = true
    ∧ (fval 0x3F800000).cmp (fval 0x3F800001) < 0 ∧ 0 < (fval 0).cmp (fval 0x80000001)
    ∧ fval 0x7F800000 = .inf false ∧ (∃ n m e, fval 0x3FC00000 = .fin n m e ∧ e < 0 ∧ m ≠ 0)
    ∧ (∃ n m e, fval 0x4B800000 = .fin n m e ∧ (0 ≤ e ∨ m = 0)) :=
  ⟨lone_of tT tW _ rfl (by decide +kernel), rfl, by decide +kernel, by decide +kernel, by decide +kernel,
    ⟨_, _, _, rfl, by decide +kernel, by decide +kernel⟩, ⟨_, _, _, rfl, by decide +kernel⟩⟩

theorem meets_CountedGroup : (∀ i ∈ [Instr.fdiv 2 1 3 7, .fsqrt 1 3 7, .frcp 1 3 7, .frsq 1 3 7, .fexp2 1 3 7, .flog2 1 3 7,
    .fsin 1 3 7, .fcos 1 3 7, .ftanh 1 3 7], Lone (tS tT tW) 0 0 tT tW i) ∧ tT.rdP 7 = true
    ∧ (fval 0xFFFFFFFF).isNan = true ∧ (fval 0x80000001).isZero = false ∧ (fval 0x80000001).negative = true := by
  refine ⟨lone_of tT tW _ rfl (by decide +kernel), rfl, ?_⟩
  decide +kernel

theorem meets_PackedAndQuant : (∀ i ∈ [Instr.hadd2 2 1 3 7, .hmul2 2 1 3 7, .hfma2 2 1 3 7, .hmax2 2 1 3 7, .hmin2 2 1 3 7,
    .badd2 2 1 3 7, .bmul2 2 1 3 7, .bfma2 2 1 3 7, .qmax 2 1 3 7, .qscl 2 1 3 7, .qpack 2 56 3 7, .qunpk 2 1 56 7, .idp4 2 1 3 7],
    Lone (tS tT tW) 0 0 tT tW i) ∧ tT.rdP 7 = true := ⟨lone_of tT tW _ rfl (by decide +kernel), rfl⟩

theorem meets_GeneratorResults : (∀ i ∈ [Instr.randSeed 1 3 7, .randDraw 3 7, .cvt true .sr .bf16 .f32 1 3 7,
    .cvt false .rne .f16 .i32 1 3 7, .cvt true .rdn .i8 .i32 1 3 7, .cvt false .rup .i32 .f32 1 3 7, .cvt true .rtz .n32 .f32 1 3 7],
    Lone (tS tT tW) 0 0 tT tW i) ∧ tT.rdP 7 = true ∧ (cvtFmt .bf16).isSome = true ∧ (cvtFmt .i32).isNone = true :=
  ⟨lone_of tT tW _ rfl (by decide +kernel), rfl, by decide, by decide⟩

/-- LaneFrame: one instruction of each kind of destination, and that each goes on to a next state. -/
theorem meets_LaneFrame : ([Instr.nop 7, .add 2 1 3 7, .lea 1 2 62 7, .qunpk 2 1 56 7, .randDraw 3 7, .cmp 2 1 2 .eq 7, .g2p 2 1 7,
    .mand 2 1 7 7, .div 2 1 3 7].all fun i => (destOf i).isSome && issues tT tW [i] && after i (tS tT tW) fun _ => true) = true := by
  decide +kernel

/-- FusionTransparent: a troupe of two whose predicates differ. -/
def tPair (t v : Thread) (w : Workgroup) : State :=
  { tS t w with cur := ⟨0, [0, 1]⟩, threads := [(0, t), (1, { v with lin := 1 })] }
theorem meets_FusionTransparent : [0, 1].Nodup ∧ ([Instr.add 2 1 3 0, .div 2 1 3 7, .add16 false 4 3].all fun i => (destOf i).isSome
    && issueOk tT tW i && after i (tPair tT (tT.wrP 0 true) tW) fun u => (u.thread? 1).map (·.pc) == some (0x10004 + BitVec.ofNat 64 (instrLen i)))
      = true := by decide +kernel

/-- IllegalAtIssue: a register at the declared count, setA of 15, setB of 15, a transfer that is not last, a prefixed shift. -/
theorem meets_IllegalAtIssue : ([(tT, { tW with sizes := { tW.sizes with regs := 16 } }, .add 16 1 3 0), (tT, { tW with sizes :=
      { tW.sizes with regs := 48 } }, .mmaNI8 0 2 false 0 0 7), ({ tT with clause := some { tClause with setA := 15 } }, tW, .div 2 1 3 0),
    ({ tT with clause := some { tClause with setB := 15 } }, tW, .mld 2 0 0 7), ({ tT with clause := some { tClause with
      body := List.replicate 59 0 ++ [1] } }, tW, .exit 7), ({ tT with immx := some 1 }, tW, .shli 3 1 1 7)]
      : List (Thread × Workgroup × Instr)).all (fun x => x.2.2.encoded && !issueOk x.1 x.2.1 x.2.2
        && after x.2.2 (tS x.1 x.2.1) fun u => match u.thread? 0 with
          | some t => t.ta && t.trapCause.toNat % 32 == 1 && t.pc == 0x40000 && t.trapAddr == (if x.1.immx.isSome then 0x10000 else 0x10004)
          | none => false) = true := by decide +kernel

theorem meets_SkippedWhenFalse : (∀ i ∈ [Instr.add 2 1 3 0, .exit 0, .bra 5 1, .stS .plain .b32 2 3 6], Lone (tS tT tW) 0 0 tT tW i
    ∧ tT.rdP (predOf i) = false) := fun i h => ⟨lone_of tT tW _ rfl (by decide +kernel) i h, by revert i; decide +kernel⟩

theorem meets_GoingOn : (tS tT tW).thread? 0 = some tT := rfl

/-- ClauseStart: a header fetched with its flags zero, with a flag of its mask up, and one whose page is not there; a prefix
before an instruction of major 0x0A, 0x12, 0x13 and a 16-bit one. -/
def tAt (pc : DWord) : Thread := { tT with pc := pc, clause := none }
theorem meets_ClauseStart : Lone (tS (tAt 0x10000) tW) 0 0 (tAt 0x10000) tW (.clauseHeader 1 15 15 0xFFF)
    ∧ (fetchFor (tS (tAt 0x10000) tW) 0 (tAt 0x10000) tW 0x10004 4).1 = .code [0, 0, 0, 0]
    ∧ maskClear tT 0xFFF = true ∧ maskClear { tT with f := tT.f.set 11 1 } 0x800 = false
    ∧ after (.clauseHeader 1 15 15 0xFFF) (tS (tAt 0x10000) tW) (fun u => (u.thread? 0).map (·.pc) == some 0x10004) = true
    ∧ (match (fetchFor (tS (tAt 0x24000) tW) 0 (tAt 0x24000) tW 0x24004 4).1 with
      | .trap c _ va => decide (c = .perm ∧ va = 0x24004)
      | _ => false) = true := by
  refine ⟨lone_of _ tW [.clauseHeader 1 15 15 0xFFF] rfl (by decide +kernel) _ (by simp), ?_⟩
  decide +kernel
theorem meets_PrefixEntry : ([([0x15, 0, 0, 0], true), ([0x25, 0, 0, 0], true), ([0x27, 0, 0, 0], false), ([0x62, 0x10, 0, 0], false)]
      : List (List Byte × Bool)).all (fun x =>
        let t := { tT with clause := some { tClause with body := [0, 0, 0, 0] ++ x.1 ++ List.replicate 52 0 } }
        issues t tW [.immx 5] && thread (.immx 5) t fun v => v.immx == (if x.2 then some 5 else none) && v.ta == !x.2) = true := by
  decide +kernel

theorem meets_TransferResults : (∀ i ∈ [Instr.bra 5 7, .braU 0x3FFFFF 7, .call 5 62 7, .jmpr 2 7, .ret 2 7, .callr 2 4 7],
    Lone (tS tT tW) 0 0 tT tW i) ∧ tT.rdP 7 = true ∧ thread (.callr 2 4 7) (regs tT [(2, 0x20000), (3, 1)])
      (fun t => t.pc == 0x100020000 && t.clause.isNone && t.rdG 4 == 0x10040 && t.rdG 5 == 0) = true
    ∧ thread (.jmpr 2 7) (regs tT [(2, 0x20002)]) (fun t => t.ta && t.pc == 0x40000 && t.trapCause.toNat % 32 == 1) = true :=
  ⟨lone_of tT tW _ rfl (by decide +kernel), rfl, by decide +kernel, by decide +kernel⟩

theorem meets_UniformBranchDiverges : [false, true].all (fun e => after (.braU 2 0) (tPair (tT.wrP 0 true) tT { tW with unichk := e })
    fun u => (u.core 0).counters.divHint == 1 && match u.thread? 0, u.thread? 1 with
      | some a, some b => if e then a.ta && b.ta && (a.resume.map (·.retryPc)) == some 0x10008 && (b.resume.map (·.retryPc)) == some 0x10040
          else a.pc == 0x10008 && b.pc == 0x10040
      | _, _ => false) = true ∧ issueOk tT tW (.braU 2 0) = true ∧ tT.rdP 0 = false := by decide +kernel

/-- PlaceAndExit: each clause of EXIT: done, a flag up, an acknowledgement outstanding, a trap deferred. -/
theorem meets_PlaceAndExit : (∀ i ∈ [Instr.meet 2 7, .meetClr 7, .nop 7, .yield 7, .exit 7], Lone (tS tT tW) 0 0 tT tW i)
    ∧ tT.rdP 7 = true ∧ after (.exit 7) (tS tT tW) (fun u => (u.thread? 0).isNone && (u.wg? 1).map (·.exited) == some [0]) = true
    ∧ thread (.exit 7) { tT with f := tT.f.set 11 1 } (fun t => t.wait.map (·.1) == some .exitFlags) = true
    ∧ after (.exit 7) ((tS tT tW).modCore 0 fun c => { c with acks := 1 }) (fun u => (u.thread? 0).any fun t => t.wait.map (·.1) == some .acks) = true
    ∧ thread (.exit 7) { tT with deferred := [⟨{ cause := .remoteTimeout }, 0x10008, .counter⟩] }
        (fun t => t.ta && t.trapAddr == 0x10008 && t.deferred.isEmpty) = true
    ∧ thread (.meet 2 7) (regs tT [(2, 0x10040)]) (fun t => t.meet == some 0x10040) = true := by
  refine ⟨lone_of tT tW _ rfl (by decide +kernel), rfl, ?_⟩
  decide +kernel

theorem settled (t : Thread) (w : Workgroup) (h : t.fence.isNone && t.deferred.isEmpty && !jobsBusy (tS t w) 0 t
    && (ownAccs (tS t w) 0).isEmpty && !matrixBusy (tS t w) 0 && !guardedOff (tS t w) 0 t = true) : Settled (tS t w) 0 t := by
  simp only [Bool.and_eq_true, Bool.not_eq_true', Option.isNone_iff_eq_none, List.isEmpty_iff] at h
  exact ⟨h.1.1.1.1.1, h.1.1.2, h.1.1.1.2, h.1.2, rfl, h.1.1.1.1.2, h.2, rfl⟩
/-- A state in which a thread has nothing outstanding after a translation: Undisturbed is met. -/
theorem undisturbed (t : Thread) (w : Workgroup) : Undisturbed (tS t w) 0 := ⟨rfl, rfl, rfl⟩
theorem tT_settled : Settled (tS tT tW) 0 tT := settled tT tW (by decide +kernel)

/-- A thread in a handler, and a workgroup in supervisor context. -/
def tH : Thread := { tT with ta := true, resume := some ⟨.body, some tClause, 0x1003C, 0x10040⟩ }
def tU : Workgroup := { tW with super := true }
def tTrap : TrapInfo := { cause := .perm, addr := some 0x20004, space := some .global, write := true }

/-- TrapEntry: with its premises, TRAPCAUSE as R403 lays it out. -/
theorem meets_TrapEntry : tT.ta = false ∧ tW.trapen.getLsbD tTrap.cause.code = true
    ∧ ((takeTrap (tS tT tW) 0 tTrap (resumeOf tT (.nop 7)) 0x10004).thread? 0).map (fun t => (t.trapCause.toNat, t.pc))
      = some (tTrap.cause.code + 4 * 2 ^ 5 + 2 ^ 8 + 2 ^ 11 + 0x20004 * 2 ^ 12, 0x40000) := by decide +kernel

/-- Containment: a second trap in a handler, a masked cause, and each policy at the level that decides. -/
theorem meets_Containment : tH.ta = true ∧ ({ tW with trapen := 0 }).trapen.getLsbD tTrap.cause.code = false
    ∧ (let go := fun (t : Thread) (c : Nat) (x : Cause) =>
        containment (tS t { tW with contain := c }) 0 { cause := x } (resumeOf t (.nop 7)) 0x10004
       ((go tT 0 .divHint).thread? 0).map (·.pc) = some 0x10008
       ∧ ((go { tT with retry := 2 } 1 .pageAbsent).thread? 0).map (fun t => (t.retry, t.backoff)) = some (3, some 4096)
       ∧ (go tT 2 .perm).thread? 0 = none
       ∧ ((go tT 3 .perm).wg? 1).map (·.killed) = some true
       ∧ ((go tT 8 .perm).wg? 1).map (·.killed) = some true
       ∧ ((go { tT with retry := 3 } 9 .watchdog).wg? 1).map (·.killed) = some true) := by decide +kernel

theorem meets_SoftwareTrap : Lone (tS tT tW) 0 0 tT tW (.trap 63 7) ∧ tT.rdP 7 = true ∧ tT.immx = none
    ∧ thread (.trap 63 7) tT (fun t => t.ta && t.trapCause.toNat % 32 == 14 && t.trapTid.toNat / 2 ^ 26 == 63) = true :=
  ⟨lone_of tT tW [.trap 63 7] rfl (by decide +kernel) _ (by simp), rfl, rfl, by decide +kernel⟩

/-- TrapReturn: a retry inside the body, a skip to its end, a header's, TRET.JMP, a counted operation of the handler in
flight, and TRET outside a handler in both contexts. -/
theorem meets_TrapReturn : (∀ i ∈ [Instr.tretRetry 7, .tretSkip 7, .tretJmp 2 7], Lone (tS tH tW) 0 0 tH tW i) ∧ tH.rdP 7 = true
    ∧ thread (.tretRetry 7) tH (fun t => !t.ta && t.pc == 0x1003C && t.clause == some tClause) = true
    ∧ thread (.tretSkip 7) tH (fun t => !t.ta && t.pc == 0x10040 && t.clause.isNone) = true
    ∧ thread (.tretRetry 7) { tH with resume := some ⟨.header, none, 0x10000, 0x10000⟩ } (fun t => t.pc == 0x10000 && t.clause.isNone) = true
    ∧ thread (.tretJmp 2 7) (regs tH [(2, 0x30000)]) (fun t => !t.ta && t.pc == 0x30000) = true
    ∧ thread (.tretRetry 7) { tH with inflight := [{ flag := 2, result := none, inTrap := true }] }
        (fun t => t.ta && t.wait.map (·.1) == some .tret) = true
    ∧ thread (.tretSkip 7) tT (fun t => t.ta && t.trapCause.toNat % 32 == Cause.priv.code) = true
    ∧ after (.tretSkip 7) (tS tT tU) (fun u => (u.thread? 0).any fun t => t.trapCause.toNat % 32 == 1) = true := by
  refine ⟨lone_of tH tW _ rfl (by decide +kernel), rfl, ?_⟩
  decide +kernel

theorem meets_PrivilegeTraps : tT.ta = false ∧ tW.super = false ∧ (∀ i ∈ [Instr.halt 7, .snapc 2 3 7, .crrd 1 3 7, .crwr 2 1 7,
    .sweep 2 1 7, .tlbi 2 4 7, .cctlL1flush 1 7, .tretRetry 7, .tretSkip 7, .tretJmp 2 7], Lone (tS tT tW) 0 0 tT tW i) :=
  ⟨rfl, rfl, lone_of tT tW _ rfl (by decide +kernel)⟩

/-- RegisterAccess: 32-bit and 64-bit special registers, each size of control register, a value of MHOLD that fits and
one that does not, and HASHDOM without the host's leave. -/
theorem meets_RegisterAccess : (∀ i ∈ [Instr.sread 15 3 7, .sread 16 2 7, .sread 17 2 7, .sread 18 62 7], Lone (tS tT tW) 0 0 tT tW i)
    ∧ (∀ i ∈ [Instr.crrd 7 2 7, .crrd 11 3 7, .crwr 2 0 7, .crwr 3 9 7, .crwr 3 8 7], Lone (tS tT tU) 0 0 tT tU i)
    ∧ after (.crwr 3 9 7) (tS (regs tT [(3, 0xFFFF)]) tU) (fun u => (u.wg? 1).any fun w => w.crWrites == [⟨0, 9, 0xFFFF⟩]) = true
    ∧ after (.crwr 3 9 7) (tS (regs tT [(3, 0x10000)]) tU) (fun u => (u.thread? 0).any fun t => t.trapCause.toNat % 32 == 1) = true
    ∧ after (.crwr 3 8 7) (tS tT tU) (fun u => (u.thread? 0).any fun t => t.trapCause.toNat % 32 == Cause.priv.code) = true
    ∧ thread (.sread 6 3 7) tT (fun t => t.rdG 3 == 4) = true := by
  refine ⟨lone_of tT tW _ rfl (by decide +kernel), lone_of tT tU _ rfl (by decide +kernel), ?_⟩
  decide +kernel

/-- ControlWritesApply: values at the limits of their registers. -/
theorem meets_ControlWritesApply : (tS tT tW).thread? 0 = some tT ∧ (tS tT tW).wg? 1 = some tW ∧ (1 : Nat) ≠ 0
    ∧ ((atBoundary (tS tT { tW with crWrites := [⟨0, 5, 0xFF⟩, ⟨0, 11, 7⟩, ⟨1, 9, 9⟩] }) 0).wg? 1).map
        (fun w => (w.contain, w.lead, w.mhold, w.crWrites)) = some (0xFF, 7, 64, [⟨1, 9, 9⟩]) := by decide +kernel

theorem meets_HaltAndSnapshot : (∀ i ∈ [Instr.halt 7, .snapc 2 3 7], Lone (tS tT tU) 0 0 tT tU i) ∧ (0xF00 + 256 ≤ tU.sizes.scratch)
    ∧ after (.halt 7) (tS tT tU) (fun u => (u.core 0).haltValid && u.link.msgs.length == 1 && (u.thread? 0).any (·.run == .halted)) = true
    ∧ after (.snapc 2 3 7) (tS (regs tT [(2, 0xF00)]) tU) (fun u => (u.thread? 0).any (!·.ta)) = true
    ∧ after (.snapc 2 3 7) (tS (regs tT [(2, 0xF80)]) tU) (fun u => (u.thread? 0).any fun t => t.trapCause.toNat % 32 == Cause.align.code) = true
    ∧ after (.snapc 2 3 7) (tS (regs tT [(2, 0x1000)]) tU) (fun u => (u.thread? 0).any fun t => t.trapCause.toNat % 32 == Cause.perm.code) = true := by
  refine ⟨lone_of tT tU _ rfl (by decide +kernel), by decide, ?_⟩
  decide +kernel

/-- MemoryFormats, with results that R193 and R212 give: saturation, sign and the clamp of i8x4. -/
theorem meets_MemoryFormats : [0xFFFFFFFF, 1].length = Fmt.b64.regs ∧ fmtStore .i8x4 [300, 0xFFFFFF00, 1, 0xFFFFFFFF] = [0x7F, 0x80, 1, 0xFF]
    ∧ fmtStore .e4m3 [0x43FA0000] = [0x7E] ∧ fmtLoad .i8 [0x80] = [0xFFFFFF80] ∧ fmtLoad .bf16 [0x80, 0x3F] = [0x3F800000] := by
  decide +kernel

/-- LocalAccess: the last byte of each space, the first beyond it, and a misaligned one; the window of a second member. -/
def tTwo : State := { tS (regs tT [(2, 0x010007E0)]) tW with
  wgs := [(1, tW), (2, { tW with coords := { tW.coords with rank := 1, linear := 1 }, scratch := [(0x7E0, 9)] })] }
theorem meets_LocalAccess : (∀ i ∈ [Instr.ldP .plain .b256 2 8 7, .ldS .acq .b128 2 4 7, .ldC .sc .b256 2 8 7, .ldW .plain .b8 2 3 7,
      .stP .plain .b256 2 8 7, .stS .rel .b64 2 4 7, .stC .sc .b256 2 8 7, .stW .plain .b8 2 3 7], Lone (tS tT tW) 0 0 tT tW i)
    ∧ Settled (tS tT tW) 0 tT ∧ memberOf tTwo 1 tW 1 = some 2
    ∧ ([(Instr.ldP .plain .b256 2 8 7, 0x3E0, 0), (.ldP .plain .b256 2 8 7, 0x400, 5), (.ldS .plain .b32 2 3 7, 0xFFC, 0),
        (.ldS .plain .b32 2 3 7, 0xFFE, 3), (.ldW .plain .b8 2 3 7, 0x7FFF, 0), (.stW .plain .b8 2 3 7, 0x8000, 5),
        (.stW .plain .b8 2 3 7, 0xFF, 5), (.stC .plain .b32 2 3 7, 0x7FC, 0), (.ldC .plain .b32 2 3 7, 0x800, 5),
        (.ldC .plain .b32 2 3 7, 0x02000000, 5), (.stP .plain .b16 2 3 7, 1, 3)] : List (Instr × Word × Nat)).all (fun x =>
          thread x.1 (regs tT [(2, x.2.1)]) fun t => t.ta == (x.2.2 != 0) && t.trapCause.toNat % 32 == x.2.2) = true
    ∧ after (.ldC .plain .b256 2 8 7) tTwo (fun u => (u.thread? 0).any fun t =>
        (t.inflight.map (·.result)).head? == some (some ([.g 8 9] ++ (List.range 7).map fun n => .g (BitVec.ofNat 6 (9 + n)) 0))) = true := by
  refine ⟨lone_of tT tW _ rfl (by decide +kernel), tT_settled, ?_⟩
  decide +kernel

/-- LocalFrame: a store and a RED whose address resolves, and a load. -/
theorem meets_LocalFrame : ([(Instr.stS .plain .b32 2 3 7, true), (.red 2 3 .plain .scratch .addI32 7, true), (.ldS .plain .b32 2 3 7, false)]
      : List (Instr × Bool)).all (fun x => issues tT tW [x.1] && (resolveLocal (tS tT tW) ⟨0, 1, tW, false⟩ .scratch 0x10 4 x.2).isOk
        && after x.1 (tS (regs tT [(2, 0x10), (3, 0x01020304)]) tW) fun u => (u.wg? 1).any fun w =>
          w.scratch == if x.2 then [(16, 4), (17, 3), (18, 2), (19, 1)] else []) = true := by decide +kernel

/-- LocalAtomicAccess: an operation of each shape, and R227's wrap. -/
theorem meets_LocalAtomicAccess : (∀ i ∈ [Instr.atom 2 4 .sc .scratch .cas64 7, .red 2 3 .plain .window .addBf16x2 7,
      .atom 2 4 .plain .wafer .addN64 7], Lone (tS tT tW) 0 0 tT tW i) ∧ Settled (tS tT tW) 0 tT
    ∧ (resolveLocal (tS tT tW) ⟨0, 1, tW, false⟩ .scratch 0xFF8 8 true).isOk = true
    ∧ (match resolveLocal (tS tT tW) ⟨0, 1, tW, false⟩ .scratch 0xFFC 8 true with
      | .error c => c == .align
      | .ok _ => false) = true
    ∧ after (.atom 2 4 .plain .scratch .cas32 7) (tS (regs tT [(2, 8), (4, 7), (5, 0xAB)]) { tW with scratch := [(8, 7)] }) (fun u =>
        (u.wg? 1).any (fun w => w.scratch == [(8, 0xAB)]) && (u.thread? 0).any fun t => t.inflight.map (·.result) == [some [.g 4 7]]) = true
    ∧ atomNew .incwrap 9 [9] = some 0 ∧ atomNew .incwrap 8 [9] = some 9 ∧ atomNew .cas32 5 [6, 7] = none := by
  refine ⟨lone_of tT tW _ rfl (by decide +kernel), tT_settled, ?_⟩
  decide +kernel

/-! The global space: pages 8 to 11 are data, the device region, the broadcast window and another module. -/

def tCtx (super : Bool) : Ctx := ⟨.thread 0, some (0, 0), 1, 0, super⟩
def tLanes (n : Nat) (t : Trans) (w : Bool) : State :=
  { (tS tT tW).modCore 0 fun c => { c with lanes := [(0, t)] } with bwin := w, page := { PageUnit.reset with moduleId := n } }

/-- Translation: an address above 2^52, the held translation of each region, one without the right, and a TLB entry that
U forbids; leaves at their limits. -/
theorem meets_Translation : (resolveG (tLanes 0 (tPage 8 8 false true) false) (tCtx false) (2 ^ 52) 4 .dflt true false false).1 = .trap .perm 0
    ∧ (tPage 8 8 false true).covers 1 0x23FFC = true
    ∧ (resolveG (tLanes 0 (tPage 8 8 false true) false) (tCtx false) 0x23FFC 4 .dflt true true false).1 = .at (.vault 0x23FFC) 0x23FFC
    ∧ (resolveG (tLanes 0 (tPage 11 (5 * 2 ^ 34 + 8) false true) false) (tCtx false) 0x2C000 4 .dflt true false false).1
      = .at (.remote (5 * 2 ^ 48 + 0x20000)) (5 * 2 ^ 48 + 0x20000)
    ∧ (resolveG (tLanes 0 (tPage 9 (0xFF0000000000 / 2 ^ 14) false true) false) (tCtx true) 0x24000 4 .dev true false false).1
      = .at (.device 0xFF0000000000) 0xFF0000000000
    ∧ (resolveG (tLanes 0 (tPage 9 (0xFF0000000000 / 2 ^ 14) false true) false) (tCtx true) 0x24000 8 .dev true false false).1 = .trap .align 0
    ∧ (resolveG (tLanes 0 (tPage 10 (0x080000000000 / 2 ^ 14) false true) true) (tCtx false) 0x28000 4 .dflt true false false).1
      = .at (.window 0) 0x080000000000
    ∧ (resolveG (tS tT tW) (tCtx false) 0x10000 4 .dflt false true false).1 = .trap .perm 0
    ∧ readLeaf (tS tT tW) 1 0x20000 2 0 = .absent 2 0 ∧ readLeaf (tS tT tW) 1 0x20000 6 0 = .malformed
    ∧ readLeaf (tS tT tW) 1 0x20000 (2 ^ 58 + 1) 0 = .malformed ∧ readLeaf (tS tT tW) 1 0x24000 (1 + 2 ^ 8 + 8 * 2 ^ 14) 0 = .malformed
    ∧ readLeaf (tS tT tW) 1 0x24000 (0x13 + 2 ^ 8 + 9 * 2 ^ 14) 0 = .page ⟨1, 8, 1, 8, true, false, false, true⟩ := by decide +kernel

/-- GlobalReads: a hit, a miss, a device load, a bypass, the window, a device register, another module with a route, a lost
line, a misaligned address and an absent page. -/
def tLine : L1Line := ⟨.e, 0, bytesLine (List.replicate 128 0x5A), none, true, [], false, false, []⟩
def tGlobal (a : Word) (w : Workgroup) (f : State → State) : State :=
  f { tS (regs tT [(4, a)]) w with bwin := true, link := { LinkUnit.reset with
    ports := [(0, { Port.reset with up := true })], route := (List.range 1024).map fun n => (n, 1) } }
def tHit (s : State) : State := s.modCore 0 fun c => { c with l1 := [(0x400, tLine)] }
/-- The thread has had the answers to its reads, in pieces of 8 bytes by address; the first table entry is zero, so that a
page is absent (R101). -/
def tAnswers (l : List (Nat × List Byte)) (s : State) : State :=
  { s with replies := l.flatMap fun x => (List.range (x.2.length / 8)).map fun j =>
      ⟨.thread 0, 1, x.1 + 8 * j, 8, false, none, (x.2.drop (8 * j)).take 8⟩ }
def tAnswered : State → State := tAnswers [(0, List.replicate 8 0)]
theorem meets_GlobalReads : Lone (tS tT tW) 0 0 tT tW (.ldG .plain .dflt .b32 4 3 false 7) ∧ Settled (tS tT tW) 0 tT
    ∧ (resolveG (tGlobal 0x20000 tW tHit) (tCtx false) 0x20000 4 .dflt true false false).1 = .at (.vault 0x20000) 0x20000
    ∧ ([(.dflt, 0x20000, some 0x5A5A5A5A), (.dflt, 0x20080, none), (.bypass, 0x20100, none), (.stream, 0x20100, none),
        (.dflt, 0x28000, some 0), (.dflt, 0x2C000, none)] : List (Pol × Word × Option Word)).all (fun x =>
        after (.ldG .plain x.1 .b32 4 3 false 7) (tGlobal x.2.1 tW tHit) fun u => (u.thread? 0).any fun t =>
          t.pc == 0x10008 && t.inflight.map (·.result) == [x.2.2.map fun v => [.g 3 v]]) = true
    ∧ ([(0x20000, some 0), (0x24000, some 0)] : List (Word × Option Word)).all (fun x =>
        after (.ldG .plain .dev .b32 4 3 false 7) (tGlobal x.1 tU id) fun u => (u.thread? 0).any fun t =>
          t.inflight.map (·.result) == [x.2.map fun v => [.g 3 v]]) = true
    ∧ after (.ldG .plain .dflt .b32 4 3 false 7) (tGlobal 0x20080 tW fun s => s.modVault 0 fun v => { v with bad := [0x401] })
        (fun u => (u.thread? 0).any fun t => t.ta && t.trapCause.toNat % 32 == Cause.eccUncorr.code) = true
    ∧ after (.ldG .plain .dflt .b32 4 3 false 7) (tGlobal 0x20002 tW id)
        (fun u => (u.thread? 0).any fun t => t.ta && t.trapCause.toNat % 32 == Cause.align.code) = true
    ∧ after (.ldG .plain .dflt .b32 4 3 true 7) (tGlobal 0x30000 tW tAnswered)
        (fun u => (u.thread? 0).any fun t => t.inflight.map (fun x => (x.result, x.shift)) == [(some [.g 3 0], some true)]) = true
    ∧ after (.ldG .plain .dflt .b32 4 3 false 7) (tGlobal 0x30000 tW tAnswered)
        (fun u => (u.thread? 0).any fun t => t.ta && t.trapCause.toNat % 32 == Cause.pageAbsent.code) = true := by
  refine ⟨lone_of tT tW [.ldG .plain .dflt .b32 4 3 false 7] rfl (by decide +kernel) _ (by simp), tT_settled, ?_⟩
  decide +kernel

/-- GlobalWrites: a hit, a miss, a bypass, the window, another module with the counter below its limit and at it; a
device store; ATOM on a line that can be written, RED to the home, and an atomic in the window. -/
theorem meets_GlobalWrites : (∀ i ∈ [Instr.stG .plain .dflt .b32 4 3 7, .atom 4 3 .plain .global .addI32 7, .red 4 3 .plain .global .addI32 7],
      Lone (tS tT tW) 0 0 tT tW i) ∧ Settled (tS tT tW) 0 tT
    ∧ after (.stG .plain .dflt .b32 4 3 7) (tGlobal 0x20004 tW tHit) (fun u => (u.l1? 0 0x400).any fun l => l.st == .m
        && (lineBytes l.data).take 9 == [0x5A, 0x5A, 0x5A, 0x5A, 0, 0, 0, 0, 0x5A]) = true
    ∧ after (.stG .plain .dflt .b32 4 3 7) (tGlobal 0x20080 tW tHit) (fun u => u.accs.length == 1) = true
    ∧ after (.stG .plain .bypass .b32 4 3 7) (tGlobal 0x20100 tW tHit) (fun u => (u.queue (queueKey 0 2)).map (·.kind) == [.bypw]) = true
    ∧ after (.stG .plain .dflt .b32 4 3 7) (tGlobal 0x28000 tW tHit) (fun u => (u.queue (queueKey 0 0)).map (·.kind) == [.window]) = true
    ∧ after (.stG .plain .dflt .b32 4 3 7) (tGlobal 0x2C000 tW fun s => s.modCore 0 fun c => { c with acks := 65534 })
        (fun u => (u.core 0).acks == 65535 && u.accs.length == 1) = true
    ∧ after (.stG .plain .dflt .b32 4 3 7) (tGlobal 0x2C000 tW fun s => s.modCore 0 fun c => { c with acks := 65535 })
        (fun u => (u.thread? 0).any fun t => t.wait.map (·.1) == some .acks) = true
    ∧ after (.stG .plain .dev .b32 4 3 7) (tGlobal 0x20080 tU id) (fun u => (u.thread? 0).any fun t => t.pc == 0x10008) = true
    ∧ after (.atom 4 3 .plain .global .addI32 7) (tGlobal 0x20000 tW tHit) (fun u => (u.thread? 0).any fun t =>
        t.inflight.map (·.result) == [some [.g 3 0x5A5A5A5A]]) = true
    ∧ after (.red 4 3 .plain .global .addI32 7) (tGlobal 0x20080 tW tHit) (fun u => (u.queue (queueKey 0 1)).map (·.kind) == [.bypw]) = true
    ∧ after (.red 4 3 .plain .global .addI32 7) (tGlobal 0x28000 tW tHit)
        (fun u => (u.thread? 0).any fun t => t.ta && t.trapCause.toNat % 32 == Cause.perm.code) = true := by
  refine ⟨lone_of tT tW _ rfl (by decide +kernel), tT_settled, ?_⟩
  decide +kernel

/-- A pending access of the thread. -/
def tAccess (op : AccessOp) : Access :=
  { thread := 0, wg := 1, core := 0, pa := 0x20080, size := 4, va := 0x20080, asid := 1, dom := 0, pol := .bypass, ord := .plain
    op := op, pc := 0x10004 }
/-- FenceAndPrefetch: a fence placed, one that holds a load that is pending, and a pod fence behind the counter. -/
theorem meets_FenceAndPrefetch : (∀ i ∈ [Instr.fence .pod .full 7, .pref 4 .l1 7], Lone (tS tT tW) 0 0 tT tW i)
    ∧ thread (.fence .module .release 7) tT (fun t => t.fence == some (.module, .release)) = true
    ∧ after (.ldS .plain .b32 2 3 7) { tS { tT with fence := some (.pod, .acquire) } tW with accs := [(9, tAccess (.load .b32 3))] }
        (fun u => (u.thread? 0).any fun t => t.wait.map (·.1) == some .fence) = true
    ∧ after (.ldS .plain .b32 2 3 7) ((tS { tT with fence := some (.pod, .release) } tW).modCore 0 fun c => { c with acks := 1 })
        (fun u => (u.thread? 0).any fun t => t.wait.map (·.1) == some .fence) = true
    ∧ [(1, true), (0, false)].all (fun x => after (.ldS .plain .b32 2 3 7) { tS { tT with fence := some (.workgroup, .acquire) } tW with
        accs := [(9, tAccess (.load .b32 3)), (10, { tAccess (.load .b32 3) with thread := x.1, lin := x.1 })] }
        (fun u => ((u.thread? 0).any fun t => t.wait.map (·.1) == some .fence) == x.2)) = true
    ∧ after (.pref 4 .l1 7) (tGlobal 0x30000 tW id) (fun u => (u.thread? 0).any fun t => t.wait.map (·.1) == some .busy) = true := by
  refine ⟨lone_of tT tW _ rfl (by decide +kernel), ?_⟩
  decide +kernel

/-! The copy engine, handles, pages, barriers and the matrix engine. -/

/-- Does the thread trap with this cause. -/
def traps (i : Instr) (s : State) (c : Cause) : Bool :=
  after i s fun u => (u.thread? 0).any fun t => t.ta && t.trapCause.toNat % 32 == c.code
/-- Does the thread wait for this. -/
def waits (i : Instr) (s : State) (r : WaitReason) : Bool := after i s fun u => (u.thread? 0).any fun t => t.wait.map (·.1) == some r
/-- Does the thread go on with this register. -/
def leaves (i : Instr) (s : State) (q : Thread → Bool) : Bool := after i s fun u => (u.thread? 0).any fun t => t.pc == 0x10008 && !t.ta && q t
/-- The small state with registers set. -/
def tG (l : List (Reg × Word)) (f : State → State := id) (w : Workgroup := tW) : State := f (tS (regs tT l) w)

/-- EntriesAndSlots: an entry in each state, its last bytes, one byte off and one beyond; LDB, BUFQ and BUFREL. -/
def tEntry (st : BufState) (owner ldbs : Nat) (s : State) : State := s.modCore 0 fun c => { c with
  bufs := [(5, ⟨st, owner, 0x40, 0x10, ldbs, 0, false⟩)] }
theorem meets_BufferEntries : (∀ i ∈ [Instr.ldb 5 2 3 .b32 7, .bufq 5 3 7, .bufrel 5 7], Lone (tS tT tW) 0 0 tT tW i) ∧ Settled (tS tT tW) 0 tT
    ∧ leaves (.ldb 5 2 3 .b32 7) (tG [(2, 12)] (tEntry .full 1 0) { tW with scratch := [(0x4C, 7)] })
        (fun t => t.inflight.map (fun x => (x.result, x.entry)) == [(some [.g 3 7], some 5)]) = true
    ∧ waits (.ldb 5 2 3 .b32 7) (tG [(2, 12)] (tEntry .filling 1 0)) .entry = true
    ∧ traps (.ldb 5 2 3 .b32 7) (tG [(2, 12)] (tEntry .full 2 0)) .bufState = true
    ∧ traps (.ldb 5 2 3 .b32 7) (tG [(2, 14)] (tEntry .draining 1 0)) .align = true
    ∧ traps (.ldb 5 2 3 .b32 7) (tG [(2, 16)] (tEntry .full 1 0)) .perm = true
    ∧ leaves (.bufq 5 3 7) (tG [] (tEntry .filling 1 0)) (fun t => t.inflight.map (·.result) == [some [.g 3 (1 + 4 + 0x10 * 2 ^ 11)]]) = true
    ∧ after (.bufrel 5 7) (tG [] (tEntry .full 1 0)) (fun u => (u.core 0).bufs.isEmpty) = true
    ∧ after (.bufrel 5 7) (tG [] (tEntry .full 1 1)) (fun u => ((u.core 0).buf 5).st == .draining && ((u.core 0).buf 5).release) = true
    ∧ traps (.bufrel 5 7) (tG [] (tEntry .filling 1 0)) .bufState = true := by
  refine ⟨lone_of tT tW _ rfl (by decide +kernel), tT_settled, ?_⟩
  decide +kernel

/-- A shape record of sixteen 32-bit elements with a box of four at 0x20000 (R246). -/
def tShape (sparse : Bool) : List Byte := natBytes 8 0x20000 ++ [if sparse then 0x94 else 0x14, 0, 0, 0] ++ natBytes 4 16
  ++ List.replicate 36 0 ++ natBytes 2 4 ++ List.replicate 10 0
def tSlot (owner : Nat) (sparse : Bool) (s : State) : State := s.modCore 0 fun c => { c with shapes := [(6, ⟨owner, tShape sparse⟩)] }
theorem meets_ShapeSlots : (∀ i ∈ [Instr.tsld 6 2 .scratch 7, .tsld 6 4 .global 7, .tsev 6 7, .tsq 6 3 15 false 7, .tsq 6 3 0 true 7],
      Lone (tS tT tW) 0 0 tT tW i) ∧ (tShape false).length = 64 ∧ shapeOk (tShape false) = true ∧ shapeOk (tShape true) = true
    ∧ after (.tsld 6 2 .scratch 7) (tG [(2, 0x40)] id { tW with scratch := writeBytes [] 0x40 (tShape false) })
        (fun u => mget (u.core 0).shapes 6 == some ⟨1, tShape false⟩) = true
    ∧ traps (.tsld 6 2 .scratch 7) (tG [(2, 0x40)]) .illegalOp = true
    ∧ after (.tsld 6 4 .global 7) (tG [(4, 0x20000)] (tAnswers [(0x20000, tShape true)]))
        (fun u => (mget (u.core 0).shapes 6).isSome) = true
    ∧ traps (.tsev 6 7) (tG [] (tSlot 2 false)) .perm = true
    ∧ leaves (.tsq 6 3 0 false 7) (tG [] (tSlot 1 false)) (fun t => t.inflight.map (·.result) == [some [.g 3 0x20000]]) = true
    ∧ leaves (.tsq 6 3 0 true 7) (tG []) (fun t => t.inflight.map (·.result) == [some [.g 3 0]]) = true := by
  refine ⟨lone_of tT tW _ rfl (by decide +kernel), ?_⟩
  decide +kernel

/-- JobIssue: CPY within scratchpad, a misaligned source, a reserved bit, and a full table. -/
def tCpy (src ctl : Word) : State := tG [(8, ctl), (9, 128), (12, src), (14, 0x80)]
theorem meets_CopyIssue : Lone (tS tT tW) 0 0 tT tW (.cpy 8 1 .workgroup 7) ∧ Quiet (tS tT tW) 0 tT
    ∧ spaceAt 1 = some .scratch ∧ rangeOk (tS tT tW) (localCtx tT tW) ⟨.scratch, 0xF80⟩ 128 true = true
    ∧ freeJobNum tW = some 0 ∧ freeJobEntry tCore = some 0
    ∧ leaves (.cpy 8 1 .workgroup 7) (tCpy 0 0x120) (fun t => t.rdH 1 == 4) = true
    ∧ traps (.cpy 8 1 .workgroup 7) (tCpy 2 0x120) .align = true
    ∧ traps (.cpy 8 1 .workgroup 7) (tCpy 0 0x80120) .illegalOp = true
    ∧ waits (.cpy 8 1 .workgroup 7) (tG [(8, 0x120), (9, 128), (14, 0x80)] id { tW with
        jobNums := (List.range 64).map fun n => (n, ⟨1, .pending, none, false, 0, 0, 0⟩) }) .jobTable = true := by
  refine ⟨lone_of tT tW [.cpy 8 1 .workgroup 7] rfl (by decide +kernel) _ (by simp), ⟨rfl, by decide +kernel, rfl⟩, ?_⟩
  decide +kernel
theorem meets_ShapeCopyIssue : (∀ i ∈ [Instr.cpyt 5 8 1 .module 7, .cpys 5 8 1 .module 7, .cpyo 5 8 1 .module 7, .cpyr 5 8 1 .module 7],
      Lone (tS tT tW) 0 0 tT tW i)
    ∧ ([(Instr.cpyt 5 8 1 .module 7, false, BufState.free), (.cpys 5 8 1 .module 7, true, .free), (.cpyr 5 8 1 .module 7, false, .free)]
        : List (Instr × Bool × BufState)).all (fun x => after x.1 (tG [(8, 6), (9, 0x40), (11, 4)] fun s => tSlot 1 x.2.1 s) fun u =>
          ((u.core 0).buf 5).st == .filling && ((u.core 0).buf 5).base == 0x40 && ((u.core 0).buf 5).extent == 16) = true
    ∧ after (.cpyr 5 8 1 .module 7) (tG [(8, 6), (9, 0x40)] fun s => tEntry .full 1 0 (tSlot 1 false s)) (fun u => ((u.core 0).buf 5).st == .filling) = true
    ∧ after (.cpyo 5 8 1 .module 7) (tG [(8, 6), (9, 0)] fun s => tEntry .full 1 0 (tSlot 1 false s))
        (fun u => ((u.core 0).buf 5).st == .draining && ((u.core 0).buf 5).cpyos == 1) = true := by
  refine ⟨lone_of tT tW _ rfl (by decide +kernel), ?_⟩
  decide +kernel
/-- Cards: a COPY of 64 bytes, an ARM of 64 bytes at 0x400 of wafer scratchpad with its flag at 0x200, and none. -/
def tCard (c dst loc : Nat) : List Byte := natBytes 4 c ++ natBytes 4 64 ++ List.replicate 16 0 ++ natBytes 8 dst ++ natBytes 4 loc ++ List.replicate 92 0
def tArm : List Byte := tCard (3 + 3 * 2 ^ 14 + 4 * 2 ^ 17) 0x400 0x200
theorem meets_CardIssue : Lone (tS tT tW) 0 0 tT tW (.job 2 1 .module 7) ∧ (card? (tCard 0x4100 0x80 0)).isSome = true
    ∧ (card? tArm).isSome = true ∧ (card? (List.replicate 128 0)).isNone = true
    ∧ leaves (.job 2 1 .module 7) (tG [(2, 0x100)] id { tW with scratch := writeBytes [] 0x100 (tCard 0x4100 0x80 0) }) (fun t => t.rdH 1 == 4) = true
    ∧ after (.job 2 1 .module 7) (tG [(2, 0x100)] id { tW with scratch := writeBytes [] 0x100 tArm })
        (fun u => u.chunks.map (·.parts) == [[(0x400, 64)]] && (u.core 0).jobs.length == 1) = true
    ∧ after (.job 2 1 .module 7) (tG [(2, 0x100)] (fun s => { s with chunks := List.replicate 1024 ⟨none, .wafer, [], 4, 4, .none, none⟩ })
          { tW with scratch := writeBytes [] 0x100 tArm })
        (fun u => u.chunks.length == 1024 && (u.wg? 1).any fun w => (mget w.jobNums 0).map (·.status) == some .refused) = true
    ∧ traps (.job 2 1 .module 7) (tG [(2, 0x100)]) .illegalOp = true := by
  refine ⟨lone_of tT tW [.job 2 1 .module 7] rfl (by decide +kernel) _ (by simp), ?_⟩
  decide +kernel

/-- Handles: job number 5 of generation 3 in each status; the null token; another generation. -/
def tToken (st : JobStatus) (tr : Option TrapInfo) (tok : Word) : State :=
  tS (tT.wrH 1 tok) { tW with jobNums := [(5, ⟨3, st, tr, false, 0, 0, 1⟩)] }
theorem meets_HandleResults : (∀ i ∈ [Instr.waith 3 1 7, .testh 2 1 .ref 7, .movh 2 1 7, .cancel 1 7], Lone (tS tT tW) 0 0 tT tW i)
    ∧ ([(JobStatus.done, 0), (.cancelled, 1), (.refused, 3), (.denied, 4)] : List (JobStatus × Word)).all (fun x =>
        leaves (.waith 3 1 7) (tToken x.1 none (5 * 2 ^ 26 + 12)) fun t => t.rdG 3 == x.2) = true
    ∧ waits (.waith 3 1 7) (tToken .pending none (5 * 2 ^ 26 + 12)) .handle = true
    ∧ traps (.waith 3 1 7) (tToken .faulted (some { cause := .eccUncorr, defer := true }) (5 * 2 ^ 26 + 12)) .eccUncorr = true
    ∧ leaves (.testh 2 1 .ref 7) (tToken .refused none (5 * 2 ^ 26 + 12)) (fun t => t.rdP 2) = true
    ∧ leaves (.testh 2 1 .done 7) (tToken .pending none 0) (fun t => t.rdP 2) = true
    ∧ traps (.cancel 1 7) (tToken .done none (5 * 2 ^ 26 + 16)) .handleBad = true
    ∧ traps (.testh 2 1 .ok 7) (tToken .done none (5 * 2 ^ 26 + 15)) .handleBad = true
    ∧ leaves (.movh 1 2 7) (tToken .done none 77) (fun t => t.rdH 2 == 77) = true := by
  refine ⟨lone_of tT tW _ rfl (by decide +kernel), ?_⟩
  decide +kernel
theorem meets_SavedHandles : (∀ i ∈ [Instr.hsave 2 1 .scratch 7, .hrest 2 1 .wafer 7, .hsave 4 1 .global 7, .hrest 4 1 .global 7],
      Lone (tS tT tW) 0 0 tT tW i)
    ∧ after (.hsave 2 1 .scratch 7) (tS ((regs tT [(2, 0xFF8)]).wrH 1 0x14000030) tW) (fun u => (u.wg? 1).any fun w =>
        w.scratch == [(0xFF8, 0x30), (0xFFB, 0x14), (0xFFC, 1)]) = true
    ∧ leaves (.hrest 2 1 .scratch 7) (tG [(2, 0xFF8)] id { tW with scratch := [(0xFF8, 0x30), (0xFFB, 0x14), (0xFFC, 1)] })
        (fun t => t.rdH 1 == 0x14000030) = true
    ∧ traps (.hrest 2 1 .scratch 7) (tG [(2, 0xFF8)] id { tW with scratch := [(0xFF8, 0x30), (0xFFC, 2)] }) .handleBad = true
    ∧ leaves (.hrest 4 1 .global 7) (tG [(4, 0x20000)] (tAnswers [(0x20000, natBytes 4 4 ++ natBytes 4 1)])) (fun t => t.rdH 1 == 4) = true
    ∧ after (.hsave 4 1 .global 7) (tG [(4, 0x20000)] tHit) (fun u => (u.l1? 0 0x400).any (·.st == .m)) = true := by
  refine ⟨lone_of tT tW _ rfl (by decide +kernel), ?_⟩
  decide +kernel

/-- PageAndMaintenance: a page that is there, one that is not, an address beyond the space; a full page-request table;
selectors at their limits, a full record queue, and CCTL of a line not held. -/
def tReqs (n : Nat) (s : State) : State := s.modCore 0 fun c => { c with
  pageReqs := (List.range n).map fun e => (e, ⟨1, 0, 0x40000000 + 2 ^ 14 * e, [], none, false, 0, none⟩) }
def tDone (st : JobStatus) (u : State) : Bool := (u.wg? 1).any fun w => (mget w.jobNums 0).map (·.status) == some st
theorem meets_PageRequests : (∀ i ∈ [Instr.pgqry 4 2 7, .pgreq 4 1 7], Lone (tS tT tW) 0 0 tT tW i)
    ∧ leaves (.pgqry 4 2 7) (tG [(4, 0x20000)]) (fun t => t.inflight.map (·.result) == [some [.p 2 true]]) = true
    ∧ leaves (.pgqry 4 2 7) (tG [(4, 0x30000)] tAnswered) (fun t => t.inflight.map (·.result) == [some [.p 2 false]]) = true
    ∧ leaves (.pgqry 4 2 7) (tG [(5, 0x100000)]) (fun t => t.inflight.map (·.result) == [some [.p 2 false]]) = true
    ∧ after (.pgreq 4 1 7) (tG [(5, 0x100000)]) (tDone .denied) = true ∧ after (.pgreq 4 1 7) (tG [(4, 0x20000)]) (tDone .done) = true
    ∧ after (.pgreq 4 1 7) (tG [(4, 0x30000)] fun s => tAnswered (tReqs 16 s)) (tDone .refused) = true
    ∧ after (.pgreq 4 1 7) (tG [(4, 0x30000)] tAnswered) (fun u => tDone .pending u && (u.core 0).pageReqs.length == 1) = true := by
  refine ⟨lone_of tT tW _ rfl (by decide +kernel), ?_⟩
  decide +kernel
theorem meets_Maintenance : (∀ i ∈ [Instr.tlbi 2 4 7, .sweep 2 1 7, .cctlL1flush 1 7, .cctlL1evict 4 1 7, .cctlL2clean 4 1 7, .cctlL2evict 4 1 7],
      Lone (tS tT tU) 0 0 tT tU i)
    ∧ after (.tlbi 2 4 7) (tG [(2, 0x2FF), (4, 0x30000)] id tU) (fun u => (u.queue (queueKey 0 0)).map (fun r => (r.kind, r.line, r.arg)) == [(.tlbi, 0x30000, 0x2FF)]) = true
    ∧ after (.sweep 2 1 7) (tG [(2, 1)] id tU) (fun u => (u.queue (queueKey 0 0)).map (·.kind) == [.sweep] && tDone .pending u) = true
    ∧ traps (.tlbi 2 4 7) (tG [(2, 0x300)] id tU) .illegalOp = true ∧ traps (.sweep 2 1 7) (tG [(2, 0x400)] id tU) .illegalOp = true
    ∧ waits (.tlbi 2 4 7) (tG [] (fun s => s.setQueue (queueKey 0 0) (List.replicate 64 (recOf .gets 0 0))) tU) .recordQueue = true
    ∧ waits (.sweep 2 1 7) (tG [] (fun s => s.setQueue (queueKey 0 0) [recOf .tlbi 0 8]) tU) .order = true
    ∧ after (.cctlL1flush 1 7) (tG [] id tU) (tDone .done) = true ∧ after (.cctlL1evict 4 1 7) (tG [(4, 0x20000)]) (tDone .done) = true
    ∧ after (.cctlL2clean 4 1 7) (tG [(4, 0x20080)]) (fun u => (u.queue (queueKey 0 1)).map (·.kind) == [.bypr] && tDone .pending u) = true
    ∧ after (.cctlL2evict 4 1 7) (tG [(4, 0x20080)]) (fun u => (u.queue (queueKey 0 1)).map (·.kind) == [.inv] && tDone .pending u) = true
    ∧ traps (.cctlL2clean 4 1 7) (tG [(4, 0x30000)] tAnswered) .pageAbsent = true := by
  refine ⟨lone_of tT tU _ rfl (by decide +kernel), ?_⟩
  decide +kernel

/-- Barriers: an object of two at scratch offset 0x20, named by the pair g4; at its last arrival, full, not initialised,
and its counters at their limits. -/
def tBar (b : Bar) (l : List (Reg × Word)) (f : Thread → Thread := id) : State :=
  tS (f (regs tT ([(4, 0x20), (5, 0x10000000)] ++ l))) { tW with scratch := writeBytes [] 0x20 (b.toBytes (List.replicate 32 0)) }
def tBarAfter (i : Instr) (s : State) (b : Bar) : Bool :=
  after i s fun u => Bar.ofBytes (readLocal u (.scratch 1 0x20) 32) == b && (u.thread? 0).any fun t => t.pc == 0x10008
theorem meets_Barriers : (∀ i ∈ [Instr.barinit 2 4 7, .bararv 4 3 7, .barexp 2 4 7, .barwait 2 4 7, .bartest 2 4 1 7, .bardrop 4 7],
      Lone (tS tT tW) 0 0 tT tW i) ∧ Settled (tS tT tW) 0 tT
    ∧ tBarAfter (.barinit 2 4 7) (tBar ⟨2, 0, 0, 0, 0⟩ [(2, 3)]) ⟨3, 0, 0, 2, 0⟩ = true
    ∧ tBarAfter (.barinit 2 4 7) (tBar ⟨2, 0, 0, 2, 0⟩ [(2, 3)]) ⟨2, 0, 0, 2, 0⟩ = true
    ∧ tBarAfter (.barinit 2 4 7) (tBar ⟨2, 1, 9, 2, 5⟩ [(2, 0x80000001)]) ⟨1, 0, 0, 2, 0⟩ = true
    ∧ tBarAfter (.bararv 4 3 7) (tBar ⟨2, 1, 255, 2, 0⟩ []) ⟨2, 0, 0, 2, 0⟩ = true
    ∧ tBarAfter (.bararv 4 3 7) (tBar ⟨2, 1, 255, 2, 1⟩ []) ⟨2, 2, 255, 2, 1⟩ = true
    ∧ traps (.bararv 4 3 7) (tBar ⟨2, 2, 0, 2, 1⟩ []) .barOverflow = true
    ∧ tBarAfter (.barexp 2 4 7) (tBar ⟨2, 0, 0, 2, 2 ^ 56 - 2⟩ [(2, 1)]) ⟨2, 0, 0, 2, 2 ^ 56 - 1⟩ = true
    ∧ traps (.barexp 2 4 7) (tBar ⟨2, 0, 0, 2, 2 ^ 56 - 2⟩ [(2, 2)]) .barOverflow = true
    ∧ tBarAfter (.bardrop 4 7) (tBar ⟨1, 0, 0, 2, 0⟩ []) ⟨0, 0, 1, 2, 0⟩ = true ∧ traps (.bardrop 4 7) (tBar ⟨0, 0, 0, 2, 0⟩ []) .barOverflow = true
    ∧ leaves (.bartest 2 4 1 7) (tBar ⟨2, 0, 1, 2, 0⟩ [(2, 0x100)]) (fun t => t.rdP 1) = true
    ∧ waits (.barwait 2 4 7) (tBar ⟨2, 0, 1, 2, 0⟩ [(2, 0x101)]) .barrier = true
    ∧ waits (.barwait 2 4 7) (tBar ⟨2, 0, 2, 2, 0⟩ [(2, 1)] fun t => { t with woken := some (.scratch 1 0x20, false) }) .barrier = true
    ∧ leaves (.barwait 2 4 7) (tBar ⟨2, 0, 1, 2, 0⟩ [(2, 1)] fun t => { t with woken := some (.scratch 1 0x20, true) }) (fun t => t.woken.isNone) = true
    ∧ traps (.barwait 2 4 7) (tBar ⟨2, 0, 1, 0, 0⟩ []) .barOverflow = true
    ∧ traps (.bararv 4 3 7) (tG [(4, 0x21), (5, 0x10000000)]) .align = true ∧ traps (.bararv 4 3 7) (tG [(4, 0x20)]) .perm = true := by
  refine ⟨lone_of tT tW _ rfl (by decide +kernel), tT_settled, ?_⟩
  decide +kernel

/-- Meeting: an SSTEP that returns and one that waits, on the first issue and on a later one; each outcome of RDV; LAUNCH
into an open queue, a full one, and from a misaligned address. -/
def tStep (lead n : Nat) (f : Thread → Thread) : State := tS (f { tT with sstep := n }) { tW with lead := lead }
def tMeet (v : Thread → Thread) : State := { tS (regs tT [(1, 0xAA), (2, 1)]) tW with
  threads := [(0, regs tT [(1, 0xAA), (2, 1)]), (1, v { tT with lin := 1 })] }
def tQueue (head : Nat) (s : State) : State := { tAnswers [(0x20000, List.replicate 0x29 0 ++ [9] ++ List.replicate 86 0),
    (0x20080, List.replicate 128 0)] s with launch := { LaunchUnit.reset with
    queues := [(1, { LaunchQueue.reset with base := 0x1000, head := head, en := true, dev := true })]
    launches := [(7, ⟨tW.sizes, 0, 0xFF, 0, false, false, 4, [], none, [], 0, 0, tBinding, 0, 0, [0], 0, 0, none, none, none, 0, 0, .active, none, []⟩)] } }
theorem meets_Meeting : (∀ i ∈ [Instr.sstep 3 7, .rdv 2 1 3 7, .launch 4 3 7], Lone (tS tT tW) 0 0 tT tW i) ∧ Settled (tS tT tW) 0 tT
    ∧ leaves (.sstep 3 7) (tStep 2 1 id) (fun t => t.sstep == 2 && t.rdG 3 == 1) = true
    ∧ waits (.sstep 3 7) (tQueue 0 (tS tT { tW with lead := 0, sizes := { tW.sizes with gridX := 2 } })) .superstep = true
    ∧ leaves (.sstep 3 7) (tStep 2 2 fun t => { t with wait := some (.superstep, 0) }) (fun t => t.sstep == 2 && t.rdG 3 == 1) = true
    ∧ waits (.sstep 3 7) (tQueue 0 (tS { tT with sstep := 1, wait := some (.superstep, 0) } { tW with lead := 0, sizes := { tW.sizes with gridX := 2 } })) .superstep = true
    ∧ traps (.rdv 2 1 3 7) (tG [(2, 4)]) .perm = true ∧ traps (.rdv 2 1 3 7) (tG [(2, 0)]) .perm = true
    ∧ leaves (.rdv 2 1 3 7) (tG [(2, 1)] id { tW with exited := [1] }) (fun t => t.inflight.map (·.result) == [some [.g 3 0]]) = true
    ∧ waits (.rdv 2 1 3 7) (tMeet id) .rendezvous = true
    ∧ after (.rdv 2 1 3 7) (tMeet fun t => { t with rdv := some (0, 0xBB, 9), wait := some (.rendezvous, 0) }) (fun u =>
        (u.thread? 0).any (fun t => t.inflight.map (·.result) == [some [.g 3 0xBB]]) && (u.thread? 1).any fun t =>
          t.inflight.map (·.result) == [some [.g 9 0xAA]] && t.pc == 0x10008) = true
    ∧ traps (.launch 4 3 7) (tG [(4, 0x20080)]) .align = true
    ∧ after (.launch 4 3 7) (tG [(4, 0x20000), (3, 9)] (tQueue 0)) (fun u => (u.lqueue 1).tail == 1 && (u.thread? 0).any (·.rdG 3 == 0)
        && readBytes u.wmem 0x1029 1 == [4] && readBytes u.wmem 0x10F0 5 == [0, 1, 0, 0, 1]) = true
    ∧ leaves (.launch 4 3 7) (tG [(4, 0x20000)] (tQueue 1)) (fun t => t.rdG 3 == 1) = true := by
  refine ⟨lone_of tT tW _ rfl (by decide +kernel), tT_settled, ?_⟩
  decide +kernel

/-- MatrixIssue: an engine that is free, the workgroup's, another's, and one being released; a full queue; operands in wafer
scratchpad, a bad descriptor; a pass opened and a pass joined. -/
def tEngine (owner : Option Nat) (q : List Item) (s : State) : State := s.modEngine 0 fun e => { e with owner := owner, queue := q }
def tItem (kind : ItemKind) (members : List Member) : Item :=
  { itemOf 1 kind tT 0 2 1 1 with mma := .bf16, bKey := (3, 0x2000), members := members, closed := false }
def tMma : List (Reg × Word) := [(2, 0x1000), (3, 0x30000000)]
def tB : Workgroup := { tW with sregs := (tW.sregs.set 4 0x2000).set 5 0x30000000 }
theorem meets_EngineControl : (∀ i ∈ [Instr.mrsv 1 7, .mrel 7, .mzero true 7 15 7, .mstat 0 3 7, .mstat 5 3 7], Lone (tS tT tW) 0 0 tT tW i)
    ∧ leaves (.mrsv 1 7) (tG [] (tEngine none [])) (·.rdP 1) = true ∧ leaves (.mrsv 1 7) (tG [] (tEngine (some 1) [])) (·.rdP 1) = true
    ∧ leaves (.mrsv 1 7) (tG [] (tEngine (some 2) [])) (!·.rdP 1) = true
    ∧ after (.mrel 7) (tG [] (tEngine (some 1) [])) (fun u => (u.engine 0).releasing) = true
    ∧ after (.mzero false 1 2 7) (tG [] (tEngine (some 1) [])) (fun u => (u.engine 0).queue.map (fun x => (x.kind, x.tile, x.band)) == [(.zero, 2, 1)]) = true
    ∧ waits (.mzero true 1 2 7) (tG [] (tEngine (some 1) (List.replicate 8 (tItem .zero [])))) .engineQueue = true
    ∧ traps (.mzero true 1 2 7) (tG []) .mrsvNone = true := by
  refine ⟨lone_of tT tW _ rfl (by decide +kernel), ?_⟩
  decide +kernel
theorem meets_MatrixResults : (∀ i ∈ [Instr.mmaHBf16 4 2 0 2 7, .mmaHF16 4 2 0 2 7, .mmaQE4m3 4 2 true 0 2 7, .mmaQE5m2 4 2 true 0 2 7,
      .mmaNRb4 4 2 0 2 7, .mmaNI8 4 2 true 0 2 7, .mld 2 0 2 7, .mst 2 .f32 0 2 7], Lone (tS tT tW) 0 0 tT tW i) ∧ Quiet (tS tT tW) 0 tT
    ∧ descriptor? 0x3000000000001000 = some ⟨.wafer, 0, 0x1000⟩ ∧ descriptor? 0x3000000000002000 = some ⟨.wafer, 0, 0x2000⟩ ∧ descriptor? 0 = none
    ∧ after (.mmaHBf16 4 2 1 2 7) (tG tMma (tEngine (some 1) []) tB) (fun u => (u.engine 0).queue.map (fun x => x.members.map (·.band)) == [[1]]
        && (u.thread? 0).any fun t => t.rdF 3 == 1 && t.pc == 0x10008) = true
    ∧ after (.mmaHBf16 4 2 0 2 7) (tG tMma (tEngine (some 1) [tItem .pass [⟨0, 0, 3, 2, 1, [], [], none, [], 0⟩]]) tB)
        (fun u => (u.engine 0).queue.map (fun x => x.members.map (·.band)) == [[1, 0]]) = true
    ∧ traps (.mmaNRb4 4 2 0 2 7) (tG [] (tEngine (some 1) []) tB) .perm = true ∧ traps (.mld 2 0 2 7) (tG tMma) .mrsvNone = true
    ∧ after (.mld 2 7 2 7) (tG tMma (tEngine (some 1) [])) (fun u => (u.engine 0).queue.map (fun x => (x.kind, x.band, x.mem.length)) == [(.load, 7, 16)]) = true
    ∧ after (.mst 2 .e5m2 7 2 7) (tG tMma (tEngine (some 1) [])) (fun u => (u.engine 0).queue.map (fun x => (x.kind, x.mem.length)) == [(.store, 4)]) = true := by
  refine ⟨lone_of tT tW _ rfl (by decide +kernel), ⟨rfl, by decide +kernel, rfl⟩, ?_⟩
  decide +kernel

/-! Events. -/

/-- R208's example: an accumulator of 0.5 and the block value −24. -/
theorem test_rb4_step : stepElem .rb4 false ([3, 13, 1] ++ List.replicate 189 0) ([2, 3, 15] ++ List.replicate 189 0)
    0xE0 [0x61, 0, 0, 0] 0x3F000000 = 0xC1BC0000 := by decide +kernel

/-- The small state later, running, with its engine owned and these items queued. -/
def tEng (now : Nat) (q : List Item) (f : State → State := id) : State := f { tEngine (some 1) q (tS tT tW) with now := now }
/-- A queue of one pass, started at tick 0, that multiplies a first row of ones by a first column of twos. -/
def tPass : Item := { tItem .pass [⟨0, 0, 3, 2, 1, [], [], none, [0x80, 0x3F], 0⟩] with started := some 0, closed := true, bData := [0, 0x40] }

/-- MatrixEvents: a forming pass at its 32nd cycle; a pass at its 96th; an engine being released. -/
theorem meets_PassEvents :
    after (.passCloseTimeout 0) (tEng 160 [{ tItem .pass [] with opened := 0 }]) (fun u => (u.engine 0).queue.map (·.closed) == [true]) = true
    ∧ after (.passCloseTimeout 0) (tEng 159 [{ tItem .pass [] with opened := 0 }]) (fun u => (u.engine 0).queue.map (·.closed) == [false]) = true
    ∧ (let e := (tEng 480 [tPass]).engine 0
       e.owner = some 1 ∧ e.queue.find? (fun y => y.started.isSome) = some tPass ∧ 0 + 96 * Config.cycle ≤ 480
        ∧ (tPass.members.map fun m => (m.tile, m.band)).Nodup ∧ ∀ m ∈ tPass.members, m.band < 8)
    ∧ after (.passCompletion 0) (tEng 479 [tPass]) (fun u => (u.engine 0).queue.length == 1) = true
    ∧ after (.engineClearComplete 0) ((tEng 0 []).modEngine 0 fun e => { e with releasing := true, tiles := [(0, 1)] })
        (fun u => (u.engine 0).owner.isNone && (u.engine 0).tiles.isEmpty) = true := by decide +kernel

/-- PassStart: each check failing in its order, then all passing; and the 8 cycles between tests. -/
def tReady : Item := { tPass with started := none, staged := true }
def tToks (tok cnt until_ : Nat) (s : State) : State := { s with
  columns := [(0, { Column.reset with tok := tok })], regions := [(0, { PowerRegion.reset with cnt := cnt, rise := 1, until_ := some until_ })] }
theorem meets_PassStart :
    ([(4, 0, 0, 4), (3, 0, 0, 1), (4, 1, 0, 4)] : List (Nat × Nat × Nat × Nat)).all (fun x =>
      after (.passStartTest 0) (tEng 100 [tReady] (tToks x.1 x.2.1 x.2.2.1)) fun u => (u.wg? 1).any fun w => w.mstat.toList.getD x.2.2.2 0 == 1) = true
    ∧ after (.passStartTest 0) (tEng 100 [tReady] fun s => (tToks 4 0 0 s).modRegion 0 fun r => { r with now := 1 })
        (fun u => (u.wg? 1).any (fun w => w.mstat.toList.getD 2 0 == 1) && (u.region 0).bub == 1) = true
    ∧ after (.passStartTest 0) (tEng 100 [tReady] fun s => (tToks 4 0 101 s).modEngine 0 fun e => { e with lastStart := some 0 })
        (fun u => (u.wg? 1).any fun w => w.mstat.toList.getD 3 0 == 1) = true
    ∧ after (.passStartTest 0) (tEng 100 [{ tReady with ready := some 13, tests := 1 }] (tToks 4 0 0)) (fun u => (u.engine 0).lastStart.isNone) = true
    ∧ after (.passStartTest 0) (tEng 105 [{ tReady with ready := some 13, tests := 1 }] (tToks 4 0 0)) (fun u => (u.engine 0).lastStart == some 21
        && (u.column 0).tok == 0 && (u.region 0).now == 1) = true
    ∧ lowerDue (tEng 100 [tReady]) 1 = true ∧ lowerDue (tEng 100 [tReady]) 0 = false := by decide +kernel

/-- TileFetch and ItemEvents: operands in wafer scratchpad staged; MZERO, MLD and MST at the head. -/
theorem meets_TileFetch : after (.tileFetchStaged 0) (tEng 0 [{ tReady with staged := false, b := (List.range 48).map fun j => .wafer (0x2000 + 128 * j), members := [⟨0, 0, 3, 2, 1, (List.range 6).map fun j => .wafer (0x1000 + 128 * j), [], none, [], 0⟩] }]
      fun s => { s with wmem := [(0x1000, 9)] }) (fun u => (u.engine 0).queue.map (fun x => (x.staged, x.bData.length, x.members.map fun m => m.aData.take 2)) == [(true, 6144, [[9, 0]])]) = true
    ∧ after (.tileFetchStaged 0) (tEng 0 [tReady, tReady, { tReady with staged := false }]) (fun u => (u.engine 0).queue.map (·.staged) == [true, true, false]) = true := by
  decide +kernel
def tBand (kind : ItemKind) : Item :=
  { tItem kind [] with flag := some 11, mem := (List.range 16).map fun j => .wafer (0x1000 + 128 * j) }
theorem meets_ItemEvents :
    after (.engineItemCompletion 0) (tEng 0 [{ tItem .zero [] with tile := 2, band := 1 }] fun s =>
      s.modEngine 0 fun e => { e with tiles := [(tileKey 2 8 0, 5), (tileKey 2 16 0, 6)] })
        (fun u => (u.engine 0).tiles == [(tileKey 2 16 0, 6)] && (u.engine 0).queue.isEmpty) = true
    ∧ ((tEng 0 [tBand .load]).engine 0).queue = [tBand .load] ∧ ((tEng 0 [tBand .store]).engine 0).queue = [tBand .store]
    ∧ (tBand .load).band < 8 ∧ (tBand .store).fmt = .f32 ∧ coreRuns (tEng 0 []) 0 = true := by decide +kernel

/-- ColumnsAndVaults: the first tick at which each is due, and the one before. -/
theorem meets_GovernorEvents :
    after .heatRefill { tS tT tW with
        now := 800, columns := [(0, { Column.reset with tok := 5, rate := 7 })], vaults := [(0, { Vault.reset with closed := true })] } (fun u => u.refills == 1 && (u.column 0).tok == 8) = true
    ∧ after .heatRefill { tS tT tW with now := 799 } (fun u => u.refills == 0) = true
    ∧ after .currentLimitStep { tS tT tW with now := 1600, regions := [(0, { PowerRegion.reset with now := 3, cnt := 1 })] } (fun u =>
        (u.region 0).cnt == 3 && (u.region 0).now == 0) = true
    ∧ after (.curlimStep 15 0x10000) (tS tT tW) (fun u => (u.region 15).rise == 256) = true
    ∧ after (.droopAlarm 15) { tS tT tW with now := 8 } (fun u => (u.region 15).until_ == some 16008 && (u.region 15).count == 1 && (u.region 15).evt) = true
    ∧ after (.droopExpiry 15) { tS tT tW with now := 5, regions := [(15, { PowerRegion.reset with until_ := some 5 })] } (fun u => (u.region 15).until_.isNone) = true := by
  decide +kernel
def tVault (f : Vault → Vault) : State := { State.reset with
  vaults := [(3, f { Vault.reset with map := 0xF, cap := 4, copies := List.replicate 3 ⟨0xF, 4, 0, true⟩ })] }
theorem meets_RemapEvents : after (.patrolScrub 3 [(1, 65)] []) (tVault id) (fun u => (u.vault 3).pend == 2) = true
    ∧ after (.patrolScrub 3 [(1, 64)] []) (tVault id) (fun u => (u.vault 3).pend == 0) = true
    ∧ after (.patrolScrub 3 [] [5]) (tVault id) (fun u => (u.vault 3).bad == [3 * 2 ^ 28 + 5]) = true
    ∧ after (.vaultRemapGo 3 1) (tVault fun v => { v with busy := true }) (fun u => (u.vault 3).goRej) = true
    ∧ after (.vaultRemapGo 3 1) (tVault fun v => { v with pend := 2 }) (fun u => (u.vault 3).busy && (u.vault 3).retire == 2) = true
    ∧ after (.vaultRemapGo 3 1) (tVault fun v => { v with copies := (List.range 3).map fun n => ⟨0xF, 4, n, true⟩ }) (fun u => (u.vault 3).fenced && !(u.vault 3).busy) = true
    ∧ after (.remapStepCompletion 3) { tVault (fun v => { v with busy := true, retire := 2, pend := 6, gen := 255 }) with
        vmem := [(3 * 2 ^ 35 + 3 * 2 ^ 26 - 1, 1), (3 * 2 ^ 35 + 3 * 2 ^ 26, 1)] } (fun u => (u.vault 3).map == 0xD && (u.vault 3).cap == 3
          && (u.vault 3).pend == 4 && (u.vault 3).gen == 0 && u.vmem == [(3 * 2 ^ 35 + 3 * 2 ^ 26 - 1, 1)]) = true
    ∧ after (.heldRequestRelease 3) (tVault fun v => { v with heldNow := [recOf .gets 0 (3 * 2 ^ 28)] }) (fun u => (u.vault 3).heldNow.isEmpty
        && (u.tag? (3 * 2 ^ 28)).any fun t => t.awaits == some .fill && t.held.length == 1) = true
    ∧ after (.vaultFloor 100) State.reset (fun u => u.vaultFloor == 100) = true ∧ after (.vaultFloor 101) State.reset (fun u => u.vaultFloor == 80) = true := by
  decide +kernel
theorem meets_TemperatureSample : after (.vaultTempSample 0 [1839, 1840]) { tS tT tW with now := 80000, columns := [(0, { Column.reset with tok := 9 })] }
      (fun u => (u.vault 0).temp == 1840 && (u.vault 0).closed && (u.vault 0).mult == 3 && (u.column 0).tok == 4
        && (u.wg? 1).any fun w => w.refcost == 3 * 8 * 100) = true
    ∧ after (.vaultTempSample 0 [1808]) { tS tT tW with now := 80000, vaults := [(0, { Vault.reset with closed := true, mult := 3 })] } (fun u => (u.vault 0).closed) = true
    ∧ after (.vaultTempSample 0 [1807]) { tS tT tW with now := 80000, vaults := [(0, { Vault.reset with closed := true, mult := 3 })] } (fun u => !(u.vault 0).closed) = true := by
  decide +kernel

/-- ThreadAndLaneEvents: a counted result, a shift into m7, a trap in its place, and an order among non-faulting loads. -/
def tFlight (l : List Flight) : State := tS { tT with inflight := l, f := tT.f.set 2 2 } tW
theorem meets_CountedCompletion : after (.countedOperationCompletion 0 0 0) (tFlight [{ flag := 2, result := some [.g 3 7] }]) (fun u =>
      (u.thread? 0).any fun t => t.rdG 3 == 7 && t.rdF 2 == 1 && t.inflight.isEmpty) = true
    ∧ after (.countedOperationCompletion 0 0 0) (tFlight [{ flag := 2, result := some [], nf := true, shift := some true }]) (fun u =>
      (u.thread? 0).any fun t => t.rdM 7 == 1) = true
    ∧ after (.countedOperationCompletion 0 0 1) (tFlight [{ flag := 2, result := none, nf := true }, { flag := 2, result := some [], nf := true, shift := some true }])
        (fun u => (u.thread? 0).any fun t => t.inflight.length == 2) = true
    ∧ after (.countedOperationCompletion 0 0 0) (tFlight [{ flag := 2, result := none, trap := some { cause := .remoteTimeout }, pc := 0x10008 }]) (fun u =>
      (u.thread? 0).any fun t => t.ta && t.trapAddr == 0x10008 && t.rdF 2 == 1) = true := by decide +kernel
theorem meets_HoldEvents :
    let t : Thread := { tT with held := some 0, meet := some 0x10004, clause := none }
    after (.meetHoldRelease 1 0x10004) (tS t tW) (fun u => (u.thread? 0).any fun x => x.held.isNone && x.meet.isNone) = true
    ∧ after (.meetHoldRelease 1 0x10004) (tPair t { tT with meet := some 0x10004 } tW) (fun u => (u.thread? 0).any fun x => x.held.isSome) = true
    ∧ after (.mholdExpiry 1 0x10004) { tPair t { tT with meet := some 0x10004 } tW with now := 320 } (fun u =>
        (u.thread? 0).any (fun x => x.held.isNone) && (u.core 0).counters.meetExpire == 1) = true := by decide +kernel
theorem meets_ThreadEvents :
    after (.ageRuleWin 0 0) { tS tT tW with now := 20485 } (fun u => mget (u.core 0).ageWin 0 == some 0 && (u.core 0).counters.ageWins == 1) = true
    ∧ after (.ageRuleWin 0 0) { tS tT tW with now := 20484 } (fun u => (u.core 0).ageWin.isEmpty) = true
    ∧ after (.backoffExpiry 0 0) { tS { tT with backoff := some 9 } tW with now := 45 } (fun u => (u.thread? 0).any (·.backoff.isNone)) = true
    ∧ after (.yieldWaitExpiry 0 0) { tS { tT with yielded := some 1 } tW with now := 325 } (fun u => (u.thread? 0).any (·.yielded.isNone)) = true
    ∧ after (.watchdog 0 0) { tS { tT with wait := some (.handle, 0), ready := none } tW with now := 8000, launch := { LaunchUnit.reset with wdog := 1 } }
        (fun u => (u.thread? 0).any fun t => t.ta && t.trapCause.toNat % 32 == Cause.watchdog.code) = true
    ∧ after (.phaseExchange 1) (tS { tT with sstep := 4 } tW) (fun u => (u.wg? 1).any (·.phasePub == some 4)) = true
    ∧ after (.phaseExchange 1) { tS tT tW with threads := [] } (fun u => (u.wg? 1).any (·.phasePub == none)) = true
    ∧ after (.thrClr 0 1) ((tS tT tW).modCore 0 fun c => { c with counters := { c.counters with divHint := 9, bytes := 8 } })
        (fun u => (u.core 0).counters.divHint == 0 && (u.core 0).counters.bytes == 8) = true := by decide +kernel
theorem meets_LaneEvents :
    let row : State → Row := fun u => (u.core 0).rows.toList.getD 3 Row.fresh
    let with_ : Row → State := fun r => (tS tT tW).modCore 0 fun c => { c with rows := c.rows.set 3 r }
    after (.laneFailure 0 3 7) (tS tT tW) (fun u => row u == ⟨none, some 7, false⟩) = true
    ∧ after (.laneRemap 0 3) (with_ ⟨none, some 7, false⟩) (fun u => row u == ⟨some 7, none, false⟩ && (u.core 0).laneGen == 1) = true
    ∧ after (.laneFailure 0 3 8) (with_ ⟨some 7, none, false⟩) (fun u => (row u).stopped) = true := by decide +kernel

/-- TransferEvents: requests in, before and after their turn; an answer and the lack of one at FAB_TMO; a copy of 128 bytes; a
job that ends, is cancelled, faults, raises a flag and counts bytes. -/
def tReq (n : Nat) : RemoteReq := ⟨5, 1, n, 0x20004, .write [1, 2, 3, 4], false⟩
def tRemote (op : AccessOp) (now : Nat) : State := { (tS { tT with inflight := [{ flag := 2, result := none, access := [9] }], f := tT.f.set 2 1 } tW).modCore 0
  fun c => { c with acks := 1 } with now := now, accs := [(9, { tAccess op with remote := true })] }
theorem meets_RemoteEvents : after (.remoteRequest (tReq 0)) (tS tT tW) (fun u => rxNext u 5 1 0x400 == 1
      && (u.queue (queueKey 0 0)).map (fun r => (r.kind, r.line)) == [(.bypw, 0x400)]) = true
    ∧ after (.remoteRequest { tReq 0 with device := true }) (tS tT tW) (fun u => rxNext u 5 1 0x400 == 1
      && u.vmem == [(0x20004, 1), (0x20005, 2), (0x20006, 3), (0x20007, 4)]) = true
    ∧ after (.remoteRequest (tReq 0)) { tS tT tW with boot := { BootUnit.reset with frames := [8] } } (fun u => u.accs.isEmpty
      && u.link.answers.map (·.err) == [some (.perm, 0)]) = true
    ∧ remoteFits (tReq 0) = true ∧ remoteFits { tReq 0 with addr := 0x2007E } = false
    ∧ after (.remoteRequest (tReq 1)) (tS tT tW) (fun u => u.rxEarly == [tReq 1]) = true
    ∧ after (.remoteAck 9 [1, 2, 3, 4]) (tRemote (.load .b32 3) 0) (fun u => u.accs.isEmpty && (u.thread? 0).any fun t =>
        t.inflight.map (·.result) == [some [.g 3 0x04030201]]) = true
    ∧ after (.remoteTimeout 9) (tRemote (.load .b32 3) 1600000) (fun u => (u.thread? 0).any fun t => t.inflight.map (·.trap.isSome) == [true]) = true
    ∧ after (.remoteTimeout 9) (tRemote (.load .b32 3) 1599999) (fun u => u.accs.length == 1) = true
    ∧ after (.remoteAck 9 []) (tRemote (.store [1, 2, 3, 4]) 0) (fun u => (u.core 0).acks == 0) = true
    ∧ after (.remoteTimeout 9) (tRemote (.store [1, 2, 3, 4]) 1600000) (fun u => (u.core 0).acks == 0 && (u.thread? 0).any fun t =>
        t.deferred.map (·.due) == [.counter]) = true := by decide +kernel
def tJob (f : Job → Job) : Job := f { jobOf tT tW (.copy ⟨.scratch, 0⟩ ⟨.scratch, 0x80⟩ 128) with num := 5, pieces := 16 }
def tJobs (j : Job) : State := (tS tT { tW with jobNums := [(5, ⟨3, .pending, none, false, 0, 0, 0⟩)], scratch := [(0, 7), (127, 8), (256, 9)] }).modCore 0
  fun c => { c with jobs := [(2, j)] }
def tEnds (st : JobStatus) (u : State) : Bool := (u.core 0).jobs.isEmpty && (u.wg? 1).any fun w => (mget w.jobNums 5).map (·.status) == some st
theorem meets_CopyCycle : after (.copyEngineCycle 0) (tJobs (tJob id)) (fun u => (u.wg? 1).any (fun w =>
      w.scratch == [(0, 7), (127, 8), (0x80, 7), (0xFF, 8), (0x100, 9)]) && (u.core 0).counters.bytes == 128) = true := by decide +kernel
theorem meets_JobEvents : after (.jobCompletion 0 2) (tJobs (tJob fun j => { j with done := 16 })) (tEnds .done) = true
    ∧ after (.jobCompletion 0 2) (tJobs (tJob fun j => { j with done := 15 })) (fun u => (u.core 0).jobs.length == 1) = true
    ∧ after (.jobCompletion 0 2) (tJobs (tJob fun j => { j with done := 16, sync := .flag 0x200 })) (fun u => tEnds .done u && u.wmem == [(0x200, 1)]) = true
    ∧ after (.jobCompletion 0 2) (tJobs (tJob fun j => { j with fault := some { cause := .perm } })) (tEnds .faulted) = true
    ∧ after (.jobCompletion 0 2) (tJobs (tJob fun j => { j with done := 15, cancel := true })) (tEnds .cancelled) = true
    ∧ after (.barrierByteCount 0 2 8) ((tJobs (tJob fun j => { j with toCount := 16, sync := .barrier ⟨.scratch, 0x20⟩ })).modWg 1 fun w => { w with
        scratch := writeBytes [] 0x20 ((⟨1, 1, 0, 2, 8⟩ : Bar).toBytes (List.replicate 32 0)) }) (fun u =>
          Bar.ofBytes (readLocal u (.scratch 1 0x20) 32) == ⟨1, 0, 1, 2, 0⟩ && (mget (u.core 0).jobs 2).any (·.toCount == 8)) = true
    ∧ after (.jobDrainTimeout 1) { tJobs (tJob id) with now := 16000, launch := { LaunchUnit.reset with saving := [(7, 0, some 0)] } }
        (fun u => (mget (u.core 0).jobs 2).any (·.saved)) = true := by decide +kernel

/-- PageEvents: the first record of a queue of two, an answer and an unknown one; each outcome of the engine. -/
def tPages (va : Nat) (f : State → State) : State := f { (tS tT { tW with jobNums := [(5, ⟨3, .pending, none, false, 0, 0, 0⟩)] }).modCore 0
    (fun c => { c with pageReqs := [(2, ⟨1, 0, va, [(1, 5)], none, false, 0x77, none⟩)] }) with
  vmem := writeBytes [] 0 [0x01, 0x40, 0, 0], page := { PageUnit.reset with en := true, sizeExp := 4, prqBase := 0x1000 } }
/-- The engine's reads of three tables of one entry each, at pages 1 to 3, and of a leaf for virtual page 0. -/
def tTables (leaf : Nat) (s : State) : State := { s with
  replies := [(0, 0x4001), (0x4000, 0x8001), (0x8000, 0xC001), (0xC000, leaf)].map fun x => ⟨.request 0 2, 1, x.1, 8, false, none, natBytes 8 x.2⟩ }
def tWalk (leaf : Nat) : Found := (walkFrom (tPages 0 (tTables leaf)) (.request 0 2) 1 0 0 [] 4).1
/-- The engine installs the backing page at 0x24000 in the frame at 0x40000, as far as its answers go: the page read, the
frame written, and what the leaf was. -/
def tInstall (n m : Nat) (old : Option Nat) : State := tPages 0 fun s => { s.modCore 0 (fun c => { c with
    pageReqs := [(2, ⟨1, 0, 0, [(1, 5)], none, false, 0, some ⟨0x2400A, 0xC000, 0x24000, 1, 0x40000⟩⟩)] }) with
  replies := (List.range n).map (fun i => ⟨.request 0 2, 256, 0x24000 + 128 * i, 128, false, none, List.replicate 128 0⟩)
    ++ (List.range m).map (fun i => ⟨.request 0 2, 256, 0x40000 + 128 * i, 128, true, none, []⟩)
    ++ match old with
      | some v => [⟨.request 0 2, 256, 0xC000, 8, true, none, natBytes 8 v⟩]
      | none => [] }
def tEnded (st : JobStatus) (u : State) : Bool := (u.core 0).pageReqs.isEmpty && (u.wg? 1).any fun w => (mget w.jobNums 5).map (·.status) == some st
theorem meets_PageQueue : after (.prqRecordWrite 0 2) (tPages 0 fun s => (s.modCore 0 fun c => { c with pageReqs := [(2, ⟨1, 0, 0x4000, [(1, 5)], none, true, 0x77, none⟩)] }))
      (fun u => u.page.head == 1 && readBytes u.wmem 0x1000 16 == [0, 0x40, 0, 0, 0, 0, 0, 0, 1, 0, 0, 0, 0, 0, 0, 0] && u.page.open_ == [(0, (0, 2))]) = true
    ∧ after (.prqRespDone 9) (tPages 0 id) (fun u => u.page.badResp) = true
    ∧ after (.prqRespDone 9) (tPages 0 fun s => s.modPage fun p => { p with open_ := [(9, (0, 2))] }) (fun u => tEnded .done u && u.page.open_.isEmpty) = true
    ∧ after (.prqRespDenied 9) (tPages 0 fun s => s.modPage fun p => { p with open_ := [(9, (0, 2))] }) (tEnded .denied) = true := by decide +kernel
theorem meets_PageEngine : tWalk 0x20001 = .page ⟨1, 0, 0, 8, false, false, false, false⟩ ∧ tWalk (2 ^ 58 + 1) = .malformed
    ∧ tWalk 0x2400A = .absent 0x2400A 0xC000 ∧ tWalk 0 = .absent 0 0xC000 ∧ backing? 0x2400A = some (0x24000, 1) ∧ backing? 0 = none
    ∧ after (.pageRequestEngine 0 2) (tPages 0 (tTables 0x20001)) (tEnded .done) = true
    ∧ after (.pageRequestEngine 0 2) (tPages 0 (tTables (2 ^ 58 + 1))) (tEnded .denied) = true
    ∧ after (.pageRequestEngine 0 2) (tPages 0 (tTables 0)) (fun u => (mget (u.core 0).pageReqs 2).any (·.forward)) = true
    ∧ after (.pageRequestEngine 0 2) (tPages 0 (tTables 0x2400A)) (fun u => (mget (u.core 0).pageReqs 2).any fun r => r.forward && r.leaf == 0x2400A) = true
    ∧ after (.pageRequestEngine 0 2) (tInstall 0 0 none) (fun u => !u.accs.isEmpty && (mget (u.core 0).pageReqs 2).any (·.install.isSome)) = true
    ∧ after (.pageRequestEngine 0 2) (tInstall 128 128 (some 0x2400A)) (fun u => tEnded .done u && u.page.log == [⟨0xC000, 0x24000, 0x40000, 1, 0⟩]) = true
    ∧ after (.pageRequestEngine 0 2) (tInstall 128 128 (some 0)) (fun u => u.page.frameCount == 1 && (mget (u.core 0).pageReqs 2).any (·.install.isNone)) = true
    ∧ (let s := tPages 0 fun s => { (tTables 0x2400A s).modPage (fun p => { p with frameBase := 0x2000, frameCount := 1 }) with wmem := writeBytes [] 0x2000 (natBytes 8 0x40000) }
       stackFrame s 0 = 0x40000 ∧ frameOk s 0x40000 = true) := by decide +kernel
def tFrame (r : Rec) (f : State → State := id) : State := f { tS tT tW with time := { TimeUnit.reset with slot := 12, fields := (tS tT tW).time.fields }, frames := [⟨0, 0, 0, 0, r⟩] }
theorem meets_InvalidationEvents :
    after .tlbiRecord (tFrame { recOf .tlbi 0 0x20000 with arg := 1 }) (fun u => (u.core 0).tlb.map (·.vpn) == [4, 9, 10, 11] && u.frames.isEmpty) = true
    ∧ after .tlbiRecord (tFrame { recOf .tlbi 0 0 with arg := 0x200 }) (fun u => (u.core 0).tlb.isEmpty) = true
    ∧ after .sweepRecord (tFrame { recOf .sweep 0 0 with arg := 0x101, service := some 3 } fun s => { s.modCore 0 (fun c => { c with lanes := [(0, tPage 8 8 false true), (1, { tPage 8 8 false true with asid := 2 })] }) with
        services := [(3, ⟨.sweep, 0, some (1, 5), [], 1, 1, false, false, none⟩)] }) (fun u => (u.core 0).lanes.map (·.1) == [1] && (mget u.services 3).any (·.visible)) = true
    ∧ after (.sweepCompletion 3) { tS tT { tW with jobNums := [(5, ⟨3, .pending, none, false, 0, 0, 0⟩)] } with services := [(3, ⟨.sweep, 0, some (1, 5), [], 1, 1, true, false, none⟩)] }
        (fun u => u.services.isEmpty && (u.wg? 1).any fun w => (mget w.jobNums 5).map (·.status) == some .done) = true
    ∧ after .xinvDone { tS tT tW with services := [(3, ⟨.sweep, 0, none, [], 1, 1, true, false, none⟩)], page := { PageUnit.reset with xinvBusy := true, xinvSweep := some 3 } }
        (fun u => u.page.xinvDone && !u.page.xinvBusy) = true
    ∧ after (.xinvGo 0x80000401) (tS tT tW) (fun u => u.page.xinvBusy && (u.queue 0).map (·.kind) == [.tlbi]) = true
    ∧ after .tlbiRecord (tFrame { recOf .tlbi 0 0 with arg := 1, service := some 3 } fun s => { s with
        services := [(3, ⟨.sweep, 0, none, [], 1, 0, false, true, none⟩)] }) (fun u => (u.queue 0).map (·.kind) == [.sweep]) = true
    ∧ after (.xinvGo 0x80000001) { tS tT tW with page := { PageUnit.reset with xinvBusy := true } } (fun u => u.page.xinvRej && (u.queue 0).isEmpty) = true
    ∧ after (.hwPageRetirement 3) { tVault (fun v => { v with pend := 2 }) with
        services := [(4, ⟨.sweep, 0, none, [], 0, 2, true, false, none⟩)], page := { PageUnit.reset with retiring := [(3, 4)], emptied := [(3, 4095)] } } (fun u => (u.vault 3).busy && u.page.retiring.isEmpty) = true
    ∧ after (.hwPageRetirement 3) (tVault fun v => { v with pend := 2 }) (fun u => u.page.left == [3]) = true := by decide +kernel

/-- CoherenceEvents: each kind of record at an idle tag, its slot and the messages that follow. -/
def tTag (owner : Option Nat) (gen : Nat) : Tag := ⟨false, owner, if owner.isSome then 1 else 0, gen, 0, some 8, none, [], none, [], false, false⟩
def tHome (r : Rec) (t : Tag) (l : Option L1Line) (f : State → State := id) : State := tFrame r fun s => f { s.modCore 0 (fun c => { c with
  l1 := (match l with
    | some l => [(0x400, l)]
    | none => []) }) with tags := [(0x400, t)], entries := [(8, ⟨0, bytesLine (List.replicate 128 0x33), 0, 0, false, 1, 0, false⟩)], nextNum := 20 }
def tWant (k : RecKind) : L1Line := ⟨.i, 0, tLine.data, some k, false, [], false, false, []⟩
def tHeldBy (st : Moesi) (gen : Nat) : L1Line := ⟨st, gen, tLine.data, none, false, [], false, false, []⟩
theorem meets_RecordEvents :
    after (.gets 0) (tHome (recOf .gets 0 0x400) (tTag none 4) (some (tWant .gets))) (fun u => (u.tag? 0x400).any (fun t => t.owner == some 0 && t.gen == 4) && u.mesh.length == 1) = true
    ∧ after (.getm 0) (tHome (recOf .getm 0 0x400) (tTag none 65535) (some (tWant .getm))) (fun u => (u.tag? 0x400).any fun t => t.owner == some 0 && t.gen == 0) = true
    ∧ after (.upg 0) (tHome { recOf .upg 0 0x400 with arg := 4 } { tTag none 4 with holders := 1 } (some { tHeldBy .s 4 with wants := some .upg }))
        (fun u => (u.l1? 0 0x400).any fun l => l.st == .m && l.gen == 5 && l.wants.isNone) = true
    ∧ after (.putm 0) (tHome { recOf .putm 0 0x400 with arg := 4 } (tTag (some 0) 4) (some { tHeldBy .m 4 with leaving := true }))
        (fun u => (u.l1? 0 0x400).isNone && (u.tag? 0x400).any (·.awaits == some .writeback)) = true
    ∧ after (.puts 0) (tHome { recOf .puts 0 0x400 with arg := 4 } (tTag (some 0) 4) (some { tHeldBy .e 4 with leaving := true }))
        (fun u => (u.l1? 0 0x400).isNone && (u.tag? 0x400).any (·.owner.isNone)) = true
    ∧ after (.bypr 0) (tHome { recOf .bypr 0 0x400 with access := some 9 } (tTag none 4) none fun s => { s with
        accs := [(9, { tAccess (.load .b32 3) with pa := 0x20004 })], threads := [(0, { tT with inflight := [{ flag := 2, result := none, access := [9] }] })] })
        (fun u => u.accs.isEmpty && (u.thread? 0).any fun t => t.inflight.map (·.result) == [some [.g 3 0x33333333]]) = true
    ∧ after (.bypw 0) (tHome { recOf .bypw 0 0x400 with access := some 9 } (tTag none 4) none fun s => { s with
        accs := [(9, { tAccess (.store [1, 2, 3, 4]) with pa := 0x20004 })] }) (fun u => (u.tag? 0x400).any fun t => t.dirty && t.gen == 5 && (match (tagData u t).1 with
          | .ok d => (lineBytes d).take 9 == [0x33, 0x33, 0x33, 0x33, 1, 2, 3, 4, 0x33]
          | .error _ => false)) = true
    ∧ after (.inv 0) (tHome (recOf .inv 0 0x400) { tTag none 4 with holders := 1 } (some (tHeldBy .s 4))) (fun u => u.tags.isEmpty && (u.l1? 0 0x400).isNone) = true := by
  decide +kernel
theorem meets_SlotAndMessages :
    after .carouselSlot { tS tT tW with now := 32, queues := [(1, List.replicate 9 (recOf .gets 0 1))] } (fun u => u.time.slot == 1 && (u.queue 1).length == 1
      && u.frames.length == 8) = true
    ∧ after .carouselSlot { tS tT tW with now := 31 } (fun u => u.time.slot == 0) = true
    ∧ after (.supplyArrival 9) (tHome (recOf .bad 0 0) (tTag none 4) (some { tWant .gets with holder := true }) fun s => { s with mesh := [(9, .supply 0x400 tLine.data 0 7 true none 0)] })
        (fun u => (u.l1? 0 0x400).any fun l => l.st == .e && l.gen == 7 && l.wants.isNone) = true
    ∧ after (.ownerNotice 9) (tHome (recOf .bad 0 0) { tTag (some 0) 4 with awaits := some .notice } none fun s => { s with mesh := [(9, .notice 0x400 false 0)] })
        (fun u => (u.tag? 0x400).any fun t => t.owner.isNone && t.awaits.isNone) = true
    ∧ after (.writebackArrival 9) (tHome (recOf .bad 0 0) { tTag (some 0) 4 with awaits := some .writeback } none fun s => { s with mesh := [(9, .writeback 0x400 tLine.data 0)] })
        (fun u => (u.tag? 0x400).any fun t => t.dirty && t.awaits.isNone) = true
    ∧ after (.l2Fill 0x400) { tHome (recOf .bad 0 0) { tTag none 4 with awaits := some .fill, entry := none } none with entries := [] } (fun u => (u.tag? 0x400).any (·.awaits.isNone)) = true
    ∧ after (.vaultWritePerformed 0x400) (tHome (recOf .bad 0 0) { tTag none 4 with dirty := true, writing := true } none) (fun u => (u.tag? 0x400).any (fun t => !t.dirty)
        && memRead u.vmem 0x2007F == 0x33) = true
    ∧ after (.badrec 3 10) (tS tT tW) (fun u => (u.slice 3).badrec) = true ∧ after (.badrec 3 9) (tS tT tW) (fun u => !(u.slice 3).badrec) = true
    ∧ after (.dedupClr 3 1) { tS tT tW with slices := [(3, { Slice.reset with coll := 9 })] } (fun u => (u.slice 3).coll == 0) = true
    ∧ after (.hdKey3 5) { tS tT tW with hdSel := 7, hdLatch := 3 } (fun u => u.hdKey 7 == (5 : Word) ++ (3 : BitVec 96)) = true := by decide +kernel

/-- LaunchEvents: a record that is accepted, refused with no completion, and one too many; a group placed, waiting, and
started; a group saved and resumed; a workgroup and a launch that end. -/
def tRecord (completion : Nat) : List Byte := natBytes 8 0x10000 ++ natBytes 4 1 ++ natBytes 4 1 ++ natBytes 4 1 ++ natBytes 2 1 ++ natBytes 2 1 ++ natBytes 2 1
  ++ [3, 1] ++ natBytes 4 0 ++ natBytes 4 256 ++ natBytes 4 0 ++ [1, 9, 0, 0xFF, 0, 0] ++ natBytes 18 0 ++ natBytes 8 completion ++ natBytes 56 0 ++ natBytes 4 0xAB ++ natBytes 124 0
def tTake (completion : Nat) (f : State → State := id) : State := f { tS tT tW with
  wmem := writeBytes [] 0x1000 (tRecord completion), launch := { LaunchUnit.reset with
    cores := List.range 32, queues := [(1, { LaunchQueue.reset with base := 0x1000, tail := 1, en := true, prioMax := 5, asid := 1 })] } }
theorem meets_LaunchTake : (tRecord 64).length = 256 ∧ nextQueue (tTake 64) = some 1 ∧ checkRecord (tTake 64) (tRecord 64) [] [] false = none
    ∧ after (.launchRecordTake 1) (tTake 64) (fun u => (mget u.launch.launches 0).any (fun l => l.priority == 5 && l.args.head? == some 0xAB && l.sizes.scratch == 256)
        && (u.lqueue 1).head == 1) = true
    ∧ after (.launchRecordTake 1) (tTake 0) (fun u => u.launch.crfault && u.launch.launches.isEmpty && (u.lqueue 1).head == 1) = true := by decide +kernel
def tOne : Sizes := ⟨1, 1, 1, 1, 1, 1, 1, 64, 0, 256, 0, 1, 0⟩
def tLaunch (l : Launch → Launch) : Launch := l ⟨tOne, 0x10000, 0xFF, 0, false, true, 4, [0xAB], none, [], 0x20000, 0, tBinding, 0, 0, [], 0, 0, none, none, none, 0, 0, .active, none, []⟩
def tUnit (cores : List Nat) (l : Launch → Launch) (wgs : SMap Workgroup) : State := { tS tT tW with
  threads := [], wgs := wgs, launch := { LaunchUnit.reset with cores := cores, launches := [(7, tLaunch l)] } }
theorem meets_LaunchPlace : readyGroups (tUnit [5] id []) 7 (tLaunch id) = [0] ∧ servedFirst (tUnit [5] id []) 7 (tLaunch id) = true
    ∧ after (.workgroupPlacement 7) (tUnit [5] id []) (fun u => (u.wg? 1).any fun w => w.core == 5 && w.phase == .placed && w.slots == [0]
        && w.sregs.toList.take 2 == [0xAB, 0]) = true
    ∧ after (.workgroupPlacement 7) { tUnit [5] id [] with vaults := [(0, { Vault.reset with closed := true })] } (fun u => u.wgs.isEmpty && u.launch.refuse == 1) = true
    ∧ after (.workgroupStart 1) (tUnit [5] (fun l => { l with firstAt := some 0, placed := [0] }) [(1, { tW with phase := .placed, core := 5, slots := [0], sizes := tOne })])
        (fun u => (u.wg? 1).any (·.phase == .running) && (u.thread? (tkey 5 0)).any fun t => t.pc == 0x10000 && t.rdP 7 && !t.rdP 0) = true := by decide +kernel
theorem meets_SaveAndResume :
    after (.contextSaveComplete 1) { tUnit [0] (fun l => { l with placed := [0] }) [(1, { tW with phase := .saving, slots := [0], sizes := tOne })] with threads := [(0, tAt 0x10000)] }
      (fun u => (u.wg? 1).any (fun w => w.phase == .saved && w.image.isSome) && u.threads.isEmpty) = true
    ∧ after (.groupResume 1) (tUnit [5] (fun l => { l with placed := [0], firstAt := some 0 }) [(1, { tW with phase := .saved, sizes := tOne, image := some ⟨[regs (tAt 0x10000) [(3, 9)]], [], [], [], none, none⟩ })])
      (fun u => (u.wg? 1).any (fun w => w.core == 5 && w.migr == 1 && w.phase == .running) && (u.thread? (tkey 5 0)).any fun t => t.rdG 3 == 9 && t.pc == 0x10000) = true := by
  decide +kernel
theorem meets_LaunchEnds :
    let w : Workgroup := { tW with exited := [0, 1, 2, 3] }
    let go : (Launch → Launch) → SMap Workgroup → State := fun f ws => tUnit [0] (fun l => f { l with placed := [0], firstAt := some 0, completion := 0 }) ws
    wgDone (tS tT tW) 1 tW = false ∧ wgDone (go id [(1, w)]) 1 w = true ∧ unseenFault w = none ∧ toFire (go id [(1, w)]) w = none
    ∧ after (.workgroupExit 1) (go id [(1, w)]) (fun u => u.wgs.isEmpty && (mget u.launch.launches 7).any (·.exited == 1)) = true
    ∧ after (.workgroupExit 1) (go id [(1, w), (2, { w with coords := { w.coords with rank := 1 } })]) (fun u =>
        (u.wg? 1).any (·.phase == .gone) && (mget u.launch.launches 7).any (·.exited == 1)) = true
    ∧ after (.workgroupExit 1) (go (fun l => { l with completion := 0x20000 }) [(1, w)]) (fun u => u.wgs.isEmpty && !u.accs.isEmpty) = true
    ∧ after (.launchEnd 7) (go (fun l => { l with exited := 1 }) []) (fun u => u.launch.launches.isEmpty && u.link.msgs.length == 1) = true
    ∧ after (.launchEnd 7) (go (fun l => { l with exited := 1, completion := 0x20000 }) []) (fun u => u.launch.launches.length == 1 && !u.accs.isEmpty) = true
    ∧ after (.launchEnd 7) (go id []) (fun u => u.launch.launches.length == 1) = true := by decide +kernel

/-- FieldAndLinkEvents, each at its first slot or tick and, for those that wait, just before. -/
def tF : Field := { Field.reset with running := true }
def tField (x : Field) (slot now : Nat) (f : TimeUnit → TimeUnit := id) : State := { tS tT tW with
  now := now, time := f { TimeUnit.reset with slot := slot, fields := [(3, x), (9, { tF with st := .master })], master := some 9 } }
def tSt (u : State) (st : FieldState) : Bool := (u.field 3).st == st
theorem meets_ElectionEvents :
    after (.beacon 3 51) (tField tF 5 0) (fun u => (u.field 3).ofs == 51 && (u.field 3).mark == 5) = true
    ∧ after (.beacon 3 51) (tField { tF with mark := 5 } 5 0) (fun u => (u.field 3).ofs == 0) = true
    ∧ after (.beaconLoss 3) (tField tF 9 0) (tSt · .frozen) = true ∧ after (.beaconLoss 3) (tField tF 8 0) (tSt · .follow) = true
    ∧ rankOf (tField tF 0 0) 3 = none ∧ fieldActs (tField tF 0 0) 3 = true ∧ fieldActs (tField Field.reset 0 0) 3 = false
    ∧ after (.bid 3) (tField { tF with st := .frozen } 0 128000) (fun u => u.time.bids == [3]) = true
    ∧ after (.bid 3) (tField { tF with st := .frozen } 0 127999) (fun u => u.time.bids == []) = true
    ∧ after (.claim 3) (tField { tF with st := .frozen } 0 144000 fun t => { t with bids := [3, 4] }) (fun u => tSt u .claim && u.time.claims.length == 1) = true
    ∧ after (.claim 3) (tField { tF with st := .frozen } 0 144000 fun t => { t with bids := [2, 3] }) (tSt · .frozen) = true
    ∧ after (.claim 3) (tField { tF with st := .frozen } 0 32000 fun t => { t with rmRank := 9 + 64 * 3 }) (tSt · .claim) = true
    ∧ after (.claim 3) (tField { tF with st := .frozen } 0 31999 fun t => { t with rmRank := 9 + 64 * 3 }) (tSt · .frozen) = true
    ∧ after (.rmForce 0x80000003) (tField { tF with st := .stall } 0 0) (tSt · .claim) = true
    ∧ after .claimRecord (tField { tF with st := .claim } 12 0 fun t => { t with claims := [(0, 3)] }) (fun u => u.time.won == some (3, 12)) = true
    ∧ after .claimRecord (tField { tF with st := .claim } 11 0 fun t => { t with claims := [(0, 3)] }) (fun u => u.time.won.isNone) = true
    ∧ after (.masterTakeover 3) (tField { tF with st := .claim } 28 0 fun t => { t with won := some (3, 12) })
        (fun u => u.time.master == some 3 && u.time.epoch == 1 && (u.field 9).st == .follow) = true
    ∧ after (.masterTakeover 3) (tField { tF with st := .claim } 27 0 fun t => { t with won := some (3, 12) }) (tSt · .claim) = true
    ∧ after (.newMasterBeacon 3) (tField { tF with st := .master } 28 0 fun t => { t with fresh := true, master := some 3 }) (fun u => u.time.slot == 92) = true
    ∧ after (.driftCheck 3 [501]) (tField { tF with st := .frozen } 256 0) (tSt · .stall) = true
    ∧ after (.driftCheck 3 [500]) (tField { tF with st := .frozen } 256 0) (tSt · .frozen) = true
    ∧ after (.stallNotice 3) (tField tF 0 0 fun t => { t with fields := [(3, tF), (4, { tF with st := .stall })] }) (fun u => (u.field 3).notice && tSt u .follow) = true := by
  decide +kernel
def tUp (s : State) : State := { s with link := { LinkUnit.reset with ports := [(0, { Port.reset with up := true })] } }
theorem meets_ClockEvents :
    after (.ptpSync (-400)) (tUp (tField tF 5 0 fun t => { t with ptpCtl := 2 ^ 31 })) (fun u => u.time.slot == 105 && u.time.shift == 3200 && u.time.ptpLocked
      && (u.field 3).mark == 100) = true
    ∧ after (.ptpSync 400) (tUp (tField tF 5 0 fun t => { t with ptpCtl := 2 ^ 31 })) (fun u => u.time.slot == 5 && u.time.ptpLocked) = true
    ∧ after (.ptpSync 400) (tField tF 5 0 fun t => { t with ptpCtl := 2 ^ 31 }) (fun u => !u.time.ptpLocked) = true
    ∧ after (.clockSourceLoss 3 1) (tField { tF with source := some 1, live := [1, 2] } 0 0) (fun u => !(u.field 3).running && (u.field 3).live == [2]) = true
    ∧ after (.clockSwitchComplete 3 [1, 0, 0, 0]) { tField { Field.reset with source := some 1, live := [4, 1] } 0 0 with
        columns := [(6, { Column.reset with tok := 5, owed := 3 })] } (fun u => (u.field 3).source == some 1 && (u.field 3).running
        && (u.field 3).switches == 1 && (u.field 3).xlatGen == 1 && (u.column (6)).tok == 8) = true
    ∧ after (.clockSourceReturn 3 1) (tField { tF with source := some 2, live := [2] } 0 0) (fun u => (u.field 3).live.contains 1 && (u.field 3).running) = true
    ∧ after (.frameCrcFailure 0 4) (tField tF 5 0 fun t => { t with replayAt := [(0, 6)] }) (fun u => mget u.time.replayAt 0 == some 4) = true
    ∧ serving (tField tF 5 0) = true ∧ ringsReady (tField tF 5 0) 0 = true
    ∧ after (.carouselReplay 0) { tField tF 5 0 (fun t => { t with replayAt := [(0, 4)] }) with frames := [⟨0, 3, 0, 0, recOf .gets 0 1⟩, ⟨0, 4, 0, 0, recOf .gets 0 2⟩] }
        (fun u => u.frames.map (·.slot) == [3, 6] && mget u.time.replays 0 == some 1) = true := by decide +kernel
def tRing (x : Ring) (mode : Nat) : State := { tS tT tW with link := { LinkUnit.reset with rings := [(6, x)], ringSel := 6, mode := mode } }
def tRingIs (st : RingState) (u : State) : Bool := (u.ring 6).st == st
def tPort (p : Port) : State := { tS tT tW with link := { LinkUnit.reset with ports := [(2, p)] } }
theorem meets_RingAndPortEvents :
    after (.ringSweepEnd 6 (some 1)) (tRing { Ring.reset with st := .sweep } 0) (tRingIs .acq) = true ∧ after (.ringSweepEnd 6 (some 65535)) (tRing { Ring.reset with st := .sweep } 0) (tRingIs .masked) = true
    ∧ after (.ringLock 6 3276) (tRing { Ring.reset with st := .acq } 0) (fun u => tRingIs .lock u && (u.ring 6).low) = true
    ∧ after (.ringLock 6 62258) (tRing { Ring.reset with st := .acq } 0) (fun u => tRingIs .lock u && !(u.ring 6).high) = true
    ∧ after (.ringLockLoss 6) (tRing { Ring.reset with st := .lock } 4) (tRingIs .lost) = true ∧ after (.ringLockLoss 6) (tRing { Ring.reset with st := .lock } 0) (fun u => tRingIs .sweep u && u.link.ringLoss == 1) = true
    ∧ after .ringRetune (tRing { Ring.reset with st := .lost } 0) (tRingIs .sweep) = true ∧ after .ringMask (tRing { Ring.reset with st := .lost } 0) (tRingIs .masked) = true
    ∧ after .ringUnmask (tRing { Ring.reset with st := .masked } 0) (tRingIs .sweep) = true
    ∧ after (.codewordReplay 2 1) (tPort { Port.reset with lanes := [0, 1] }) (fun u => (u.port 2).fecu == 1 && (u.port 2).rply == 1) = true
    ∧ after (.codewordReplay 2 3) (tPort { Port.reset with lanes := [0, 1] }) (fun u => (u.port 2).fecu == 0) = true
    ∧ after (.laneFailover 2 1) { tPort { Port.reset with lanes := [0, 1], bad := [(1, 0), (1, 0), (0, 0), (1, 0)] } with boot := { BootUnit.reset with step := 6 } } (fun u => (u.port 2).failed == []) = true
    ∧ after (.laneFailover 2 1) { tPort { Port.reset with lanes := [0, 1], bad := [(1, 0), (1, 0), (1, 0), (1, 0)] } with boot := { BootUnit.reset with step := 6 } } (fun u => (u.port 2).failed == [1]) = true
    ∧ after (.laneFailover 2 1) (tPort { Port.reset with lanes := [0, 1] }) (fun u => (u.port 2).failed == [1] && !(u.port 2).lanes.contains 1) = true
    ∧ after (.laserAgeReport 4 0x12345 2 3 4) (tS tT tW) (fun u => mget u.link.laser 4 == some (0x2345, 2, 3, 4)) = true := by decide +kernel

/-- HostAndBootEvents. -/
def tLink : State := { tS tT tW with
  link := { LinkUnit.reset with linkUp := [0, 1] }, time := { TimeUnit.reset with fields := [(63, { Field.reset with running := true })] } }
theorem meets_HostEvents : after (.hostWrite 0 .wafer 0xFFFFFFFC [1, 2, 3, 4]) tLink (fun u => u.wmem == [(0xFFFFFFFC, 1), (0xFFFFFFFD, 2), (0xFFFFFFFE, 3), (0xFFFFFFFF, 4)]) = true
    ∧ after (.hostRead 1 .wafer 0xFFFFFFFC 4) { tLink with wmem := [(0xFFFFFFFF, 9)] } (fun u => u.link.answers == [⟨.host 1, 256, 0xFFFFFFFC, 4, false, none, [0, 0, 0, 9]⟩]) = true
    ∧ after (.hostRead 0 .device (tLink.page.moduleId * 2 ^ 48 + 0xFF0000860004) 4) tLink (fun u => u.link.answers.map (·.bytes) == [[200, 0, 0, 0]]) = true
    ∧ after (.hostRead 0 .vault (tLink.page.moduleId * 2 ^ 48 + 0x7E) 4) tLink (fun u => u.link.answers.isEmpty && u.accs.length == 2 && hostBusy u 0) = true
    ∧ after (.hostLinkDown 0) tLink (fun u => u.link.linkUp == [1] && after (.hostWrite 0 .wafer 0 [1]) u fun v => v.wmem.isEmpty) = true
    ∧ after (.registerWrite 0xFF0000100000 0x1FF) tLink (fun u => u.heatCoef == 0xFF) = true
    ∧ after (.registerWrite 0xFF0000720010 5) tLink (fun u => u.launch.wdog == 5) = true
    ∧ after (.registerWrite (0xFF0000510F00) 7) tLink (fun u => (u.region 15).rise == 7) = true := by decide +kernel
def tReport : BootReport := ⟨0, 5, [], [], [], [], [], [], [], [], [], 0, [], [], [], []⟩
def tBoot (b : BootUnit → BootUnit) : State := { tS tT tW with boot := b BootUnit.reset }
theorem meets_BootEvents : after .powerLoss (tS tT tW) (fun u => u.threads.isEmpty && u.vmem.isEmpty && u.boot.step == 0) = true
    ∧ after (.powerGood { tReport with failStep := 3 }) State.reset (fun u => u.boot.step == 3 && u.boot.err == 3) = true
    ∧ after (.loaderGo 0x80000000) (tBoot id) (fun u => u.boot.loadBusy.isSome && u.boot.loadStat == 2 ^ 31) = true
    ∧ after .loaderComplete (tBoot fun b => { b with loadBusy := some ⟨2 ^ 48, 0, 0, none, 0, [], none, [], 0, 0⟩ }) (fun u => u.boot.loadStat == 0x207FF && u.boot.loadBusy.isNone) = true
    ∧ after (.loadUnmark 2) (tBoot fun b => { b with frames := [3, 4, 5, 6], loadAddr := 4 * 2 ^ 14 }) (fun u => u.boot.frames == [3, 6]) = true
    ∧ after .quoteGo (tBoot id) (fun u => u.boot.quoteBusy) = true
    ∧ after (.lifetimeRecord true) (tBoot id) (fun u => u.life.busy) = true ∧ after (.lifetimeRecord false) (tBoot id) (fun u => !u.life.busy) = true
    ∧ after (.lifetimeRecord false) { tBoot id with now := Config.nano * 24 * hourNs } (fun u => u.life.busy && u.life.last == 24 * hourNs) = true
    ∧ after (.lifetimeRecordComplete true) { tBoot id with life := { LifeUnit.reset with busy := true, seq := 65535 } } (fun u => u.life.seq == 0 && u.life.flash.length == 1) = true
    ∧ after (.lifetimeRecordComplete false) { tBoot id with life := { LifeUnit.reset with busy := true } } (fun u => u.life.werr && u.life.flash.isEmpty) = true := by decide +kernel

/-! More clauses of the statements. -/

/-- QuotientsAndRoots and SpecialValues: finite operands of both signs, subnormal, and zero. -/
theorem meets_QuotientsAndRoots : fval 0x3F800000 = .fin false 0x800000 (-23) ∧ fval 0x80000001 = .fin true 1 (-149)
    ∧ (∃ e, fval 0 = .fin false 0 e) ∧ (∃ e, fval 0x80000000 = .fin true 0 e) ∧ (0x800000 : Nat) ≠ 0 :=
  ⟨by decide +kernel, by decide +kernel, ⟨_, rfl⟩, ⟨_, rfl⟩, by decide⟩

/-- R427: the bank of cluster 0 runs, that of cluster 64 is stopped: W accesses to it are pending, or wait. -/
def tFar (f : Thread → Thread := id) : State := tS (f (regs tT [(2, 0x40000000), (4, 0x40000020), (5, 0x30000000)])) tU
theorem meets_StoppedBanks : (tS tT tW).clusterRuns 0 = true ∧ tFar.clusterRuns 64 = false
    ∧ localLate tFar (.wafer 0x40000000) = true ∧ localLate (tS tT tW) (.wafer 0xFFFFFC) = false ∧ localLate tFar (.scratch 1 0) = false
    ∧ waferRuns (tS tT tW) 0xFFFFFE 2 = true ∧ waferRuns tFar 0x0FFFFFFF 0x30000002 = false
    ∧ [Instr.ldW .plain .b32 2 3 7, .stW .plain .b32 2 3 7, .red 2 3 .plain .wafer .addI32 7, .atom 2 3 .plain .wafer .addI32 7].all
        (fun i => after i tFar fun u => u.accs.length == 1 && u.wmem.isEmpty && (u.thread? 0).any (·.pc == 0x10008)) = true
    ∧ waits (.hrest 2 1 .wafer 7) tFar .order = true ∧ waits (.bardrop 4 7) tFar .order = true := by decide +kernel

/-- GlobalTraps: a non-faulting load in a page that its run has found absent, and one in another page. -/
theorem meets_FoundAbsent : foundAbsent { tT with absents := [12] } 0x33FFC 4 = true ∧ foundAbsent { tT with absents := [12] } 0x34000 4 = false
    ∧ after (.ldG .plain .dflt .b32 4 3 true 7) (tS { regs tT [(4, 0x33FFC)] with absents := [12] } tW) (fun u => (u.thread? 0).any fun t =>
        t.inflight.map (fun x => (x.result, x.shift)) == [(some [.g 3 0], some true)] && t.absents == [12, 12]) = true := by decide +kernel

/-- CopyIssue: a misaligned destination and length, a source and a destination out of bounds, a bad flag. -/
theorem meets_CopyTraps : traps (.cpy 8 1 .workgroup 7) (tG [(8, 0x120), (9, 128), (14, 0x82)]) .align = true
    ∧ traps (.cpy 8 1 .workgroup 7) (tG [(8, 0x120), (9, 126), (14, 0x80)]) .align = true
    ∧ traps (.cpy 8 1 .workgroup 7) (tG [(8, 0x120), (9, 128), (12, 0xF84), (14, 0x80)]) .perm = true
    ∧ traps (.cpy 8 1 .workgroup 7) (tG [(8, 0x120), (9, 128), (14, 0xF84)]) .perm = true
    ∧ (match syncOf (tS tT tW) (localCtx tT tW) 4 0x8000 with
      | .error ti => ti.cause == .perm
      | .ok _ => false) = true
    ∧ traps (.cpy 8 1 .workgroup 7) (tG [(8, 0x2120), (9, 128), (10, 0x8000), (14, 0x80)]) .perm = true := by decide +kernel

/-- CardIssue: an ARM whose range meets an armed one in its last bytes, and one beside it. -/
theorem meets_ArmedChunks : [(0x43C, JobStatus.refused), (0x440, .pending)].all (fun x =>
    after (.job 2 1 .module 7) (tG [(2, 0x100)] (fun s => { s with chunks := [⟨none, .wafer, [(x.1, 4)], 4, 4, .none, none⟩] })
      { tW with scratch := writeBytes [] 0x100 tArm }) (tDone x.2)) = true := by decide +kernel

/-- ShapeCopyIssue: another thread waits to load slot 6, and slot 7. -/
theorem meets_SlotLoading : [(0x06, BufState.free), (0x07, .filling)].all (fun x =>
    let loads : Thread := { tT with lin := 1, wait := some (.busy, 0), clause := some { tClause with body := encode (.tsld (BitVec.ofNat 5 x.1) 4 .global 7) ++ List.replicate 56 0 } }
    let s : State := { tG [(8, 6), (9, 0x40)] (tSlot 1 false) with threads := [(0, regs tT [(8, 6), (9, 0x40)]), (1, loads)] }
    slotLoading s 0 6 == (x.1 == 6) && after (.cpyt 5 8 1 .module 7) s fun u => ((u.core 0).buf 5).st == x.2) = true := by decide +kernel

/-- PageRequests: an entry of the same page is there. -/
theorem meets_JoinedRequest : after (.pgreq 4 1 7) (tG [(4, 0x30008)] fun s => tAnswered (s.modCore 0 fun c => { c with
    pageReqs := [(9, ⟨1, 0, 0x30000, [(1, 5)], none, false, 0, none⟩)] })) (fun u => tDone .pending u
      && (mget (u.core 0).pageReqs 9).any (·.handles == [(1, 5), (1, 0)])) = true := by decide +kernel

/-- BarrierPlaces: no descriptor, one of space G, a misaligned address, the last object of each space and the first beyond. -/
theorem meets_BarrierPlaces : descriptor? 0 = none ∧ (descriptor? 0x4000000000000000).map (·.space) = some .global
    ∧ ([(0x4000000000000000, some Cause.perm), (0x1000000000000010, some .align), (0x1000000000000FE0, none), (0x1000000000001000, some .perm),
        (0x20000000000007E0, none), (0x2000000000000800, some .perm), (0x2000000002000000, some .perm), (0x3000000000007FE0, none),
        (0x3000000000008000, some .perm), (0x30000000000000E0, some .perm)] : List (DWord × Option Cause)).all (fun x =>
      match resolveBar (tS tT tW) tT tW x.1 true with
      | .ok _ => x.2.isNone
      | .error ti => x.2 == some ti.cause) = true := by decide +kernel

/-- SuperstepResults: an access of the thread is pending, or the counter is up; DeviceLaunch: a host queue. -/
theorem meets_SuperstepWaits : waits (.sstep 3 7) { tStep 2 1 id with accs := [(9, tAccess (.load .b32 3))] } .step = true
    ∧ waits (.sstep 3 7) ((tStep 2 1 id).modCore 0 fun c => { c with acks := 1 }) .step = true
    ∧ leaves (.launch 4 3 7) (tG [(4, 0x20000)] fun s => (tQueue 0 s).modLaunch fun l => { l with
        queues := l.queues.map fun x => (x.1, { x.2 with dev := false }) }) (fun t => t.rdG 3 == 1) = true := by decide +kernel

/-- TileFetch: a vault operand that the home lacks. -/
theorem meets_FetchRecord : after (.tileFetchStaged 0) (tEng 0 [{ tReady with staged := false, b := [.vault 0x20080 0x20080], members := [] }])
    (fun u => (u.queue (queueKey 0 1)).map (fun r => (r.kind, r.line)) == [(.bypr, 0x401)]) = true
    ∧ lacks (tEng 0 []) tReady (.vault 0x20080 0) = true := by decide +kernel

/-- GovernorEvents: a column whose clock is stopped; CycleTraps; CountedCompletion of a trap at its instruction. -/
theorem meets_OwedTokens : after .heatRefill { tS tT tW with now := 800, columns := [(64, { Column.reset with tok := 5, rate := 7 })] }
    (fun u => (u.column 64).tok == 5 && (u.column 64).owed == 7) = true := by decide +kernel
theorem meets_CycleTraps : (tS tT tW).gather = none ∧ ({ tS tT tW with gather := some [] } : State).gather = some []
    ∧ (inSlotOrder [⟨12, { cause := .perm }, blockedAt tT, 4⟩, ⟨8, { cause := .align }, blockedAt tT, 8⟩, ⟨12, { cause := .priv }, blockedAt tT, 4⟩]).map
        (fun x => (x.key, x.trap.cause)) = [(8, .align), (12, .perm), (12, .priv)] := by decide +kernel
theorem meets_TrapAtInstruction : after (.countedOperationCompletion 0 0 0) (tFlight [{ flag := 2, result := none, trap := some { cause := .eccUncorr }, pc := 0x10008, resume := some (blockedAt tT) }])
    (fun u => (u.thread? 0).any fun t => t.ta && t.trapAddr == 0x10008 && t.rdF 2 == 1) = true := by decide +kernel

/-- HoldEvents: a thread that held M has exited: the group stays until MHOLD is over. -/
theorem meets_HoldGone :
    let s : State := tS { tT with held := some 0, meet := some 0x10004, clause := none } { tW with metGone := [0x10004] }
    after (.meetHoldRelease 1 0x10004) s (fun u => (u.thread? 0).any fun x => x.held.isSome) = true
    ∧ after (.mholdExpiry 1 0x10004) { s with now := 319 } (fun u => (u.thread? 0).any fun x => x.held.isSome) = true
    ∧ after (.mholdExpiry 1 0x10004) { s with now := 320 } (fun u => (u.thread? 0).any (fun x => x.held.isNone)
        && (u.core 0).counters.meetExpire == 1 && (u.wg? 1).any (·.metGone.isEmpty)) = true
    ∧ after (.mholdExpiry 1 0x10004) { tS { tT with held := some 0, meet := some 0x10004, clause := none } tW with now := 320 }
        (fun u => (u.thread? 0).any fun x => x.held.isSome) = true := by decide +kernel

/-- ThreadEvents: two blocked threads, the lower slot first. -/
theorem meets_WatchdogOrder : [(0, true), (1, false)].all (fun x =>
    let b : Thread := { tT with wait := some (.handle, 0), ready := none }
    after (.watchdog 0 x.1) { tPair b b tW with now := 8000, launch := { LaunchUnit.reset with wdog := 1 } } fun u =>
      (u.thread? x.1).any fun t => t.ta == x.2) = true := by decide +kernel

/-- PageEngine: an error in reading the backing page, in writing the frame, and in the compare. -/
def tFails (n m : Nat) : State := { tInstall n m none with replies := (tInstall n m none).replies ++ [if n < 128
  then ⟨.request 0 2, 256, 0x24000 + 128 * n, 128, false, some (.eccUncorr, 0), []⟩ else if m < 128
  then ⟨.request 0 2, 256, 0x40000 + 128 * m, 128, true, some (.eccUncorr, 2), []⟩
  else ⟨.request 0 2, 256, 0xC000, 8, true, some (.eccUncorr, 2), []⟩] }
theorem meets_PageErrors : after (.pageRequestEngine 0 2) (tFails 127 0) (fun u => u.page.frameCount == 1 && (mget (u.core 0).pageReqs 2).any (·.forward)) = true
    ∧ after (.pageRequestEngine 0 2) (tFails 128 127) (fun u => u.page.frameBad && u.page.frameCount == 0 && (mget (u.core 0).pageReqs 2).any (·.forward)) = true
    ∧ after (.pageRequestEngine 0 2) (tFails 128 128) (fun u => u.page.frameCount == 1 && tEnded .denied u) = true := by decide +kernel

/-- LaunchPlace, SaveAndResume and LaunchEnds: nothing owed, the core that is found, and a record that is written. -/
theorem meets_LaunchTimes :
    (mget (firstDispatch (tUnit [5] id []) 7).launch.launches 7).map (fun l => (l.firstAt.isSome, l.owes)) = some (true, some 0)
    ∧ (allowedCores (tUnit [5] (fun l => { l with placed := [0], firstAt := some 0 }) []) (tLaunch id) 0).contains 5 = true
    ∧ after (.launchEnd 7) (tUnit [0] (fun l => { l with placed := [0], firstAt := some 0, completion := 0, exited := 1, notify := false, killed := some (1, 0, 0) }) [])
        (fun u => u.launch.launches.isEmpty && u.link.msgs.length == 1) = true := by decide +kernel

/-- ElectionEvents: a skew in FOLLOW, and a slot before the next check; ClockEvents: a frame at the end of its 8 slots. -/
theorem meets_DriftAndFrames : after (.driftCheck 3 [501]) (tField tF 256 0) (tSt · .stall) = true
    ∧ after (.driftCheck 3 [501]) (tField { tF with checked := 1 } 256 0) (tSt · .follow) = true
    ∧ after (.frameCrcFailure 0 4) (tField tF 12 0) (fun u => mget u.time.replayAt 0 == some 4) = true
    ∧ after (.frameCrcFailure 0 4) (tField tF 13 0) (fun u => u.time.replayAt.isEmpty) = true := by decide +kernel

/-- RingAndPortEvents: a receive ring of carousel 3 is lost; a lane of a port leaves. -/
theorem meets_CarouselRing : after (.ringLockLoss (2 ^ 26 + 3 * 2 ^ 23)) { tS tT tW with link := { LinkUnit.reset with rings := [(2 ^ 26 + 3 * 2 ^ 23, { Ring.reset with st := .lock })] } }
      (fun u => (mget u.time.replayAt 3).isSome && u.link.lossEvt) = true
    ∧ after (.laneFailover 2 1) (tPort { Port.reset with lanes := [0, 1], up := true }) (fun u => (u.port 2).evt.testBit 0 && (u.port 2).evt.testBit 1
        && (u.port 2).evt.testBit 2) = true := by decide +kernel

/-- HostEvents: a request behind another, one to a bank whose clock is stopped, the flash, the registers of a halted thread,
and BOOT_STAT before the link is up. -/
theorem meets_HostWaits : hostBusy tLink 0 = false
    ∧ after (.hostWrite 0 .wafer 4 [1]) { tLink with hostReqs := [⟨0, .vault, false, 0, [0]⟩] } (fun u => u.hostReqs.length == 2 && u.wmem.isEmpty) = true
    ∧ after (.hostWrite 0 .wafer 4 [1]) tLink (fun u => u.hostReqs.length == 1 && u.wmem.isEmpty) = true
    ∧ after (.hostRead 0 .flash 0x3FFFFFC 4) tLink (fun u => u.link.answers.map (·.bytes) == [[0, 0, 0, 0]]) = true
    ∧ after (.hostRead 0 (.regs 0 0) 12 4) { tLink with threads := [(0, { regs tT [(3, 9)] with run := .halted })] } (fun u => u.link.answers.map (·.bytes) == [[9, 0, 0, 0]]) = true
    ∧ after (.hostRead 1 .device (tLink.page.moduleId * 2 ^ 48 + 0xFF0000870000) 4) (tBoot fun b => { b with step := 1 }) (fun u => u.link.answers.length == 1) = true := by
  decide +kernel

/-- BootEvents: the last segment is done; the frames of a code segment are marked; a container that is read to its end. -/
theorem meets_LoaderGoes : after .loaderComplete (tBoot fun b => { b with loadBusy := some ⟨0, 0, 0, some [], 1, [], none, [], 0, 0⟩ })
      (fun u => u.boot.loadStat == 0x10000 && u.boot.loadBusy.isNone) = true
    ∧ after .loaderComplete (tBoot fun b => { b with loadBusy := some ⟨0, 0, 0, some (List.replicate 128 0), 1, [], some [], [5], 0, 0⟩, frames := [3] })
      (fun u => u.boot.frames.contains 5 && u.boot.frames.contains 3 && u.boot.loadBusy.any fun j => j.seg == 2 && j.descs == some [] && j.pages.isNone) = true
    ∧ (segment? (natBytes 16 0 ++ natBytes 8 192 ++ natBytes 8 192 ++ natBytes 48 (sha3 []).toNat ++ natBytes 48 0) 3501).any
        (fun g => g.hash == sha3 [] && g.kind == 0 && g.size == 0) = true
    ∧ (segment? (natBytes 84 0 ++ natBytes 44 0) 3308).isNone = true := by decide +kernel

/-! Numbers, codes and blocks of the statements at the ends of their ranges. -/

/-- FormatValues: the smallest subnormal, the largest number, the infinities and the NaNs of the formats. -/
theorem meets_FormatValues : f16Fmt.value 0x8001 = .fin true 1 (-24) ∧ f16Fmt.value 0x7BFF = .fin false 2047 5 ∧ f16Fmt.value 0xFC00 = .inf true
    ∧ f16Fmt.value 0x7C01 = .nan ∧ bf16Fmt.value 0x7F80 = .inf false ∧ e5m2Fmt.value 0x7B = .fin false 7 13 ∧ e5m2Fmt.value 0x7D = .nan
    ∧ e4m3Fmt.value 0x7E = .fin false 14 5 ∧ e4m3Fmt.value 0xFF = .nan ∧ e4m3Fmt.value 0x01 = .fin false 1 (-9) := by decide +kernel

/-- PackedOrder: unlike numbers, both zeros in both orders, and a NaN. -/
theorem meets_PackedOrder : minMaxBits f16Fmt false 0x3C00 0xBC00 = 0xBC00 ∧ minMaxBits f16Fmt true 0x3C00 0xFC00 = 0x3C00
    ∧ minMaxBits f16Fmt false 0x8000 0 = 0x8000 ∧ minMaxBits f16Fmt true 0 0x8000 = 0 ∧ minMaxBits f16Fmt true 0x7C01 0 = 0x7E00
    ∧ (f16Fmt.value 0x3C00).cmp (f16Fmt.value 0xBC00) = 1 ∧ (f16Fmt.value 0x8000).cmp (f16Fmt.value 0) = 0 := by decide +kernel

/-- R202, R203, Rb4Codes: codes of each type at scale 0; a tie, beyond the largest, a NaN, an infinity, and what becomes a
zero. -/
theorem meets_Rb4Codes : rb4Value 0x20 0x9 = 0xC0E00000 ∧ rb4Value 0x20 0x8 = 0 ∧ rb4Value 0x60 0x9 = 0xBF000000 ∧ rb4Value 0xA0 7 = 0x41000000
    ∧ rb4Value 0xE0 0xF = 0xC1400000 ∧ rb4Encode 0x60 0x40200000 = 4 ∧ rb4Encode 0x60 0xC47A0000 = 0xF ∧ rb4Encode 0x20 0xFF800000 = 9
    ∧ rb4Encode 0xE0 0x7FC00000 = 0 ∧ rb4Encode 0x60 0xBE800000 = 0 := by decide +kernel

/-- IntegerRounding: −2.5 in each mode; Conversions: an infinity and a number out of range to an integer. -/
theorem meets_IntegerRounding : [(Rounding.rne, (-2 : Int)), (.rtz, -2), (.rdn, -3), (.rup, -2)].all (fun x => toIntegral x.1 true 5 (-1) == x.2) = true := by
  decide +kernel
theorem meets_Conversions : gives [(.cvt true .rne .i8 .f32 1 3 7, 0x43160000, 0, 0, 0x7F), (.cvt false .rne .i8 .f32 1 3 7, 0x43160000, 0, 0, 0x80),
    (.cvt true .rne .i32 .f32 1 3 7, 0xFF800000, 0, 0, 0x80000000), (.cvt false .rne .n32 .f32 1 3 7, 0x7F800000, 0, 0, 0xFFFFFFFF),
    (.cvt false .rne .f32 .i8 1 3 7, 0x80, 0, 0, 0xC3000000), (.cvt false .rne .f32 .n32 1 3 7, 0xFFFFFFFF, 0, 0, 0x4F800000),
    (.cvt true .rne .i32 .n32 1 3 7, 0x80000000, 0, 0, 0x7FFFFFFF), (.cvt true .rne .n32 .i32 1 3 7, 0x80000000, 0, 0, 0),
    (.cvt false .rne .i32 .i8 1 3 7, 0x80, 0, 0, 0xFFFFFF80)] = true := by decide +kernel

/-- RowElements and BlockValues: R206's zeros, a NaN, an infinity of each sign, and INT8 and RB4 with their scales. -/
def tOnes (a b : Nat) (ca cb : Nat) (k : MmaKind) : Word := blockValue k (a :: List.replicate 47 0) (b :: List.replicate 47 0) ca cb
theorem meets_BlockValues : (rowElems .rb4 (0x21 :: List.replicate 95 0)).take 2 = [1, 2] ∧ (rowElems .f16 (1 :: 2 :: List.replicate 94 0)).head? = some 0x201
    ∧ blockValue .bf16 (List.replicate 48 0x8000) (List.replicate 48 0) 0 0 = 0x80000000 ∧ tOnes 0x3F80 0x4000 0 0 .bf16 = 0x40000000
    ∧ tOnes 0x7F80 0 0 0 .bf16 = 0x7FC00000 ∧ tOnes 0xFF80 0x3F80 0 0 .bf16 = 0xFF800000
    ∧ blockValue .bf16 (0x7F80 :: 0xFF80 :: List.replicate 46 0) (0x3F80 :: 0x3F80 :: List.replicate 46 0) 0 0 = 0x7FC00000
    ∧ tOnes 0x80 2 32 33 .i8 = 0xC4000000 ∧ tOnes 0 2 0 0 .i8 = 0 ∧ tOnes 0xD 1 0x60 0x20 .rb4 = 0xC0400000
    ∧ tOnes 0x38 0x38 33 32 .e4m3 = 0x40000000 := by decide +kernel

/-! Checks and scopes of the statements, at their limits. -/

/-- IssueChecks: the premises of the checks that hold, and of those that fail. -/
theorem meets_IssueChecks : (Claims.registersNamed (.mmaNI8 0 2 false 0 0 7) = 64 ∧ Claims.registersNamed (.ldG .plain .dflt .b256 2 56 false 7) = 64
      ∧ Claims.registersNamed (.nop 7) = 0 ∧ Claims.registersNamed (.sread 16 62 7) = 64 ∧ Claims.registersNamed (.add16 true 31 3) = 4)
    ∧ Claims.Transfers (.exit 7) ∧ Claims.CountsOnA (.div 2 1 3 7) ∧ Claims.CountsOnB (.mld 2 0 0 7) ∧ ¬ Claims.Transfers (.meet 2 7)
    ∧ (tS tT tW).gather = none ∧ tT.clause = some tClause ∧ tW.sizes.regs = 64
    ∧ (∃ n b, (tT.pc - tClause.header).toNat - 4 + 4 ≤ n ∧ (List.replicate 59 (0 : Byte) ++ [1])[n]? = some b ∧ b ≠ 0) :=
  ⟨by decide +kernel, trivial, trivial, trivial, id, rfl, rfl, rfl, 59, 1, by decide +kernel, by decide +kernel, by decide⟩

/-- ReservedWords and UndecodedTraps: a reserved sub, a header within a body, and none left. -/
theorem meets_ReservedWords : [0x3C05, 0x7F, 0x04002C09, 0x00020049].all (fun w : Nat => (decode (natBytes 4 w ++ [0])).toOption.isNone && w % 2 == 1) = true
    ∧ (match decode (encode (.clauseHeader 1 15 15 0)) with
      | .ok (.clauseHeader _ _ _ _, _) => true
      | _ => false) = true := by decide +kernel

/-- FenceScopes: an access of its own thread, of another of its workgroup and of another cluster; one that keeps the rest of
its workgroup still. -/
theorem meets_FenceScopes :
    let s := fun (a b : Access) => { tS tT tW with accs := [(9, a), (10, b)] }
    let own := tAccess (.load .b32 3)
    (fenceAccs (s own { own with op := .store [1, 2, 3, 4] }) 0 (.module, .acquire)).map (·.1) = [9]
    ∧ (fenceAccs (s own { own with remote := true }) 0 (.module, .full)).map (·.1) = [9] ∧ (fenceAccs (s own { own with remote := true }) 0 (.pod, .full)).map (·.1) = [9, 10]
    ∧ mayPass (s own { own with thread := 1, lin := 1 }) 0 tT .workgroup = false
    ∧ mayPass (s own { own with thread := 65536, lin := 1, wg := 2, core := 32 }) 0 tT .cluster = true
    ∧ mayPass (s own { own with thread := 65536, lin := 1, wg := 2, core := 32 }) 0 tT .module = false
    ∧ (orderAt (s own own) 0 tT .workgroup [(9, own)]).isSome = true ∧ orderAt (s own own) 0 tT .pod [(9, own)] = none
    ∧ guardedOff (s own { own with thread := 1, lin := 1, guard := some .workgroup }) 0 tT = true
    ∧ guardedOff (s own { own with guard := some .workgroup }) 0 tT = false := by decide +kernel

/-- AtomicsOutsideVault: translations to the window's and to the device region's first byte. -/
theorem meets_AtomicsOutsideVault : [(0x28000, 0x080000000000), (0x24000, 0xFF0000000000)].all (fun x =>
      (translate (tGlobal (BitVec.ofNat 32 x.1) tW id) (ctxOf 0 (laneOf 0) tT tW) x.1 true true).1 == .pa x.2
        && traps (.atom 4 3 .plain .global .addI32 7) (tGlobal (BitVec.ofNat 32 x.1) tW id) .perm) = true
    ∧ after (.atom 4 3 .plain .global .addI32 7) (tGlobal 0x20080 tW tHit) (fun u => (u.queue (queueKey 0 1)).map (·.kind) == [.getm]
        && u.accs.length == 1 && (u.thread? 0).any fun t => t.inflight.map (·.result) == [none]) = true := by decide +kernel

/-- CopyLimits: the last bytes of each space and one beyond; the four sync locations. -/
theorem meets_CopyLimits :
    let s := tS tT tW
    let x := localCtx tT tW
    let fits : Space → Nat → Bool := fun sp a => rangeOk s x ⟨sp, a⟩ 8 true
    (fits .slice 0x3F8 = true ∧ fits .slice 0x3F9 = false ∧ fits .scratch 0xFF8 = true ∧ fits .scratch 0xFFC = false ∧ fits .window 0x7F8 = true
      ∧ fits .window 0x7FC = false ∧ fits .window 0x02000000 = false ∧ fits .wafer 0x7FF8 = true ∧ fits .wafer 0x7FFC = false ∧ fits .wafer 0xFF = false)
    ∧ [(1, Space.scratch), (2, .window), (3, .wafer)].all (fun y => (syncOf s x y.1 0x120).toOption == some (.barrier ⟨y.2, 0x120⟩)
        && (syncOf s x y.1 0x110).toOption.isNone) = true
    ∧ (syncOf s x 4 0x104).toOption = some (.flag 0x104) ∧ (syncOf s x 4 0x102).toOption = none ∧ (syncOf s x 0 1).toOption = some .none := by
  decide +kernel

/-- CardFields: a COPY, an ARM and a REDUCE of FP32 to wafer scratchpad are accepted; a length of 2, a REDUCE by no operation,
an ARM with no flag or count, and a reserved bit are not. -/
theorem meets_CardFields : (tCard 0x4100 0x80 0).length = 128
    ∧ [tCard 0x4100 0x80 0, tArm, tCard (1 + 3 * 2 ^ 14) 0x80 0].all (fun b => b.length == 128 && (card? b).isSome) = true
    ∧ [natBytes 4 0x4100 ++ natBytes 4 2 ++ List.replicate 120 0, tCard (1 + 3 * 2 ^ 4) 0 0, tCard (3 + 3 * 2 ^ 14) 0x400 0, tCard (2 ^ 21) 0 0].all
        (fun b => b.length == 128 && (card? b).isNone) = true := by decide +kernel

/-- StepPhases: LEAD 0 and the only workgroup; a stage whose neighbour has reached a phase, and has not; one not yet there. -/
def tStages (n : Option Nat) (lead : Nat) : State × Workgroup :=
  let w := { tW with lead := lead, sizes := { tW.sizes with stages := 2 } }
  ({ tQueue 0 (tS { tT with sstep := 3 } w) with
      wgs := [(1, w), (2, { w with coords := { w.coords with stage := 1, linear := 1 }, phasePub := n })] }, w)
theorem meets_StepPhases :
    (let w := { tW with lead := 0 }
     stepMayReturn (tS { tT with sstep := 3 } w) 1 w 2 = true ∧ stepMayReturn (tS { tT with sstep := 3 } w) 1 w 3 = false)
    ∧ [(some 3, 2, true), (some 2, 2, false), (none, 9, true)].all (fun x => stepMayReturn (tStages x.1 2).1 1 (tStages x.1 2).2 (x.2.1 + 2) == x.2.2) = true
    ∧ stepMayReturn (tStages (some 0) 2).1 1 (tStages (some 0) 2).2 1 = true
    ∧ reached (tQueue 0 (tS tT tW)) 1 7 1 0 = false := by decide +kernel

/-- TableVote: two copies that agree, one of them in a fenced vault, one that fails its check. -/
theorem meets_TableVote :
    let m : MapCopy := ⟨0xF, 4, 0, true⟩
    let other : MapCopy := ⟨0xF, 4, 1, true⟩
    [([m, other, m], some m), ([m, other, { m with good := false }], none), ([other, m, m], some m)].all (fun x =>
      votedTable (countedCopies (tVault fun v => { v with copies := x.1 }) 3) == x.2) = true
    ∧ votedTable (countedCopies ((tVault fun v => { v with copies := [m, m, other] }).modVault 88 fun v => { v with fenced := true }) 3) = none := by
  decide +kernel

/-- ByteCounts: an object that is not initialised, one whose last bytes come, and one too many. -/
theorem meets_ByteCounts : (countBytes (tBar ⟨2, 0, 0, 0, 5⟩ []) (.scratch 1 0x20) 1).2 = true ∧ (countBytes (tBar ⟨2, 0, 0, 2, 5⟩ []) (.scratch 1 0x20) 5).2 = false
    ∧ Bar.count ⟨2, 2, 0, 2, 5⟩ 5 = (⟨2, 0, 1, 2, 0⟩, true) ∧ (Bar.count ⟨2, 1, 0, 2, 5⟩ 6).1.flags % 2 = 1 ∧ (Bar.count ⟨2, 1, 0, 2, 0⟩ 1).1.flags % 2 = 1 := by
  decide +kernel

/-! Events of the statements, at their limits. -/

/-- RecordEvents: a BYPR at the home of a stopped field, and an INV that finds a store under way; ClockEvents: it is paid out. -/
theorem meets_Buffered :
    let r : Rec := { recOf .bypr 0 0x400 with access := some 9 }
    let s := tHome r (tTag none 4) none fun s => { s with accs := [(9, { tAccess (.load .b32 3) with pa := 0x20004 })]
                                                          time := { s.time with fields := s.time.fields.map fun f => (f.1, { f.2 with running := f.1 != 0 }) } }
    s.clusterRuns (vaultOf 0x400) = false ∧ holdersOf s 0x400 = []
    ∧ after (.bypr 0) s (fun u => (u.slice 0).buffered == [r] && u.accs.length == 1) = true
    ∧ after (.clockSwitchComplete 0 []) { s with slices := [(0, { Slice.reset with buffered := [r] })], frames := [] }
        (fun u => (u.slice 0).buffered.isEmpty && u.accs.isEmpty) = true := by decide +kernel
/-- SlotAndMessages: write-back data of a line whose owner a BYPR has made a sharer. -/
theorem meets_SharedWriteback : after (.writebackArrival 9) (tHome (recOf .bad 0 0) { tTag none 4 with awaits := some .writeback } none
    fun s => { s with mesh := [(9, .writeback 0x400 tLine.data 0)] }) (fun u => (u.tag? 0x400).any fun t => t.dirty && t.awaits.isNone) = true := by decide +kernel
/-- ThreadEvents: a winner that is not ready, one whose mate lags, and a WATCHDOG already raised; RendezvousResults: a partner
that has exited while an access is pending. -/
theorem meets_Raised :
    after (.ageRuleWin 0 0) ({ tS tT tW with now := 20485 }.modCore 0 fun c => { c with ageWin := [(0, 4)] }) (fun u => mget (u.core 0).ageWin 0 == some 0) = true
    ∧ after (.ageRuleWin 0 0) { tPair { tT with troupe := some 1 } { tT with troupe := some 1, pc := 0x10000, wait := some (.busy, 0), ready := none } tW with now := 20485 }
        (fun u => (u.core 0).ageWin.isEmpty) = true
    ∧ (let b : Thread := { tT with wait := some (.handle, 0), ready := none }
       after (.watchdog 0 0) { tS b tW with now := 8000, launch := { LaunchUnit.reset with wdog := 1 }, gather := some [⟨0, { cause := .watchdog }, blockedAt b, 0⟩] }
        (fun u => (u.gather.getD []).length == 1) = true)
    ∧ leaves (.rdv 2 1 3 7) (tG [(2, 1)] (fun s => { s with accs := [(9, tAccess (.load .b32 3))] }) { tW with exited := [1] })
        (fun t => t.inflight.map (·.result) == [some [.g 3 0]]) = true := by decide +kernel

/-- SharedEntries: a fill of bytes that an entry of the domain holds, one that only collides, one at its limit of tags, and a
write to a shared entry. -/
theorem meets_SharedEntries :
    let d := tLine.data
    let h := sipHashLine 0 d
    let s : Entry → State := fun e => tHome (recOf .bad 0 0) { tTag none 4 with dom := 3, entry := none } none fun s => { s with hdKeys := [(3, 0)], entries := [(8, e)] }
    let e : Entry := ⟨0, d, h, 3, true, 1, 0, false⟩
    let entries := fun (e : Entry) => (fillTag (s e) 0x400 d).entries.map fun x => (x.1, x.2.refs, x.2.indexed)
    entries e = [(8, 2, true)] ∧ entries { e with refs := 255 } = [(8, 255, false), (20, 1, true)]
    ∧ entries { e with data := bytesLine (List.replicate 128 0) } = [(8, 1, true), (20, 1, false)] ∧ entries { e with dom := 4 } = [(8, 1, true), (20, 1, true)]
    ∧ ((partTag ((s { e with refs := 2 }).setTag 0x400 { tTag none 4 with dom := 3 }) 0x400 0 [1]).entries.map fun x => (x.1, x.2.refs, x.2.indexed))
      = [(8, 1, true), (20, 1, false)] := by decide +kernel

/-- RecordChecks: a field beyond its limit, a window above the scratchpad, too many bytes for a core, a group that no cluster
holds, no table though the host asks for one, and a table that names no core. -/
theorem meets_RecordChecks :
    let b := tRecord 64
    let put := fun (o : Nat) (x : List Byte) => b.take o ++ x ++ b.drop (o + x.length)
    let check := fun (x : List Byte) => checkRecord (tTake 64) x [] [] false
    (recordSizes b).count = 1 ∧ (recordSizes b).footprint = 256 ∧ check b = none
    ∧ check (put 40 [33]) = some .malformed ∧ check (put 28 [0xFF, 0xFF]) = some .malformed ∧ check (put 36 (natBytes 4 257)) = some .footprint
    ∧ check (put 28 (natBytes 2 2048 ++ [0, 0] ++ natBytes 4 1048576)) = some .residency ∧ check (put 40 [2]) = some .cluster
    ∧ checkRecord (tTake 64 fun s => { s with link := { s.link with mode := 16 } }) b [] [] false = some .placement
    ∧ checkRecord (tTake 64) (put 56 (natBytes 8 16)) [] [] false = some .placement := by decide +kernel

/-- QueueOrder: the queue after the last one served, and the same one again when it alone holds a record. -/
theorem meets_QueueOrder :
    let q : LaunchQueue := { LaunchQueue.reset with base := 0x1000, tail := 1, en := true }
    let at_ := fun (turn : Nat) (l : List Nat) => nextQueue { tS tT tW with launch := { LaunchUnit.reset with turn := turn, queues := l.map fun n => (n, q) } }
    at_ 0 [0, 1, 63] = some 1 ∧ at_ 1 [0, 1, 63] = some 63 ∧ at_ 63 [0, 1, 63] = some 0 ∧ at_ 5 [5] = some 5 ∧ at_ 5 [] = none := by decide +kernel

/-- CoreChoice: the first core whose vault accepts, a closed vault counted, a core that is full, and a placement entry. -/
theorem meets_CoreChoice :
    let s := tUnit [0, 32, 33] id []
    let hot : State := { s with vaults := [(0, { Vault.reset with closed := true })] }
    pickCores s tOne 1 [0, 32, 33] = (some [0], 0) ∧ pickCores hot tOne 1 [0, 32, 33] = (some [32], 1)
    ∧ vaultAccepts { s with vaults := [(0, { Vault.reset with temp := 1839 })], vaultFloor := 76, heatCoef := 0 } 0 0 3 = true
    ∧ vaultAccepts { s with vaults := [(0, { Vault.reset with temp := 1839 })], vaultFloor := 76, heatCoef := 1 } 0 0 1 = false
    ∧ coreFits s 0 { tOne with slice := 0, scratch := 1048576 } = true ∧ coreFits s 0 { tOne with slice := 1, scratch := 1048576 } = false
    ∧ openCores s (tLaunch id) 0 = [0, 32, 33] ∧ openCores s (tLaunch fun l => { l with accepted := 1 }) 0 = []
    ∧ allowedCores s (tLaunch fun l => { l with table := [⟨0, 1, 1, 2⟩] }) 0 = [32, 33] := by decide +kernel

/-- PageQueue: an entry that the engine installs is not written; BootEvents: a segment whose signature is zero. -/
theorem meets_Installing : after (.prqRecordWrite 0 2) (tInstall 0 0 none) (fun u => u.page.head == 0 && u.page.open_.isEmpty) = true
    ∧ signedBy [] [] ((segment? (natBytes 84 0 ++ natBytes 44 0) 4096).getD ⟨0, 0, 0, 0, 0, 0, 0, []⟩) (List.replicate 3309 0) = false := by decide +kernel
end Sys2Proof.Tests
end

/-!
Every step keeps the memories canonical (O3, `MemoryKept`).

Each function of the model that answers with a state either leaves both memories as they are or replaces one of them by
what `writeBytes`, `memWrite` or a filter makes of it, and `writeBytes_wf` and `memWrite_wf` say that those keep the
form. So there is one lemma `memOk_f` for each such function `f`, in the model's order: it says that `f` keeps the form
and its proof cites the lemmas of the functions `f` calls. A function that answers with more than a state has a predicate
below, which says that every state the answer holds has the form.
-/

section

-- One theorem after another: the threads of the elaborator each take a stack of their own.
set_option Elab.async false

namespace Sys2Proof.Machine

/-- The form of the state an outcome leaves; a fault or a refusal leaves none. -/
def Out.memOk : Out → Prop
  | .next u => u.memOk
  | .fault _ | .refused _ => True

/-- The form for a step of the page engine's jobs: the state it leaves, or whatever it later asks of a good state. -/
def JobStep.memOk : JobStep → Prop
  | .ok _ u => u.memOk
  | .later ask => ∀ s, s.memOk → (ask s).memOk
  | .wait | .fault _ => True

/-- The form of the state a unit's step over global memory leaves. -/
def UnitStep.memOk {α : Type} : UnitStep α → Prop
  | .ok _ u | .busy u => u.memOk
  | .bad => True

/-- The form of the state an L1 leaves that could not answer at once. -/
def L1Try.memOk : L1Try → Prop
  | .hit _ => True
  | .miss u | .stall u => u.memOk

/-- The form of the state a global read leaves. -/
def GlobalRead.memOk : GlobalRead → Prop
  | .ok _ u | .wait u _ | .trap u _ => u.memOk

/-- The form of the state the search for operand lines leaves. -/
def Lines.memOk : Lines → Prop
  | .ok _ u | .wait u | .trap u _ => u.memOk

/-- The form of the state the return of a page leaves. -/
def Returned.memOk : Returned → Prop
  | .ok u | .wait u | .bad u => u.memOk

theorem memOk_foldl {α : Type} {f : State → α → State} (hf : ∀ s x, s.memOk → (f s x).memOk) {l : List α}
    {s : State} (hs : s.memOk) : (l.foldl f s).memOk := by
  induction l generalizing s with
  | nil => exact hs
  | cons x r ih => exact ih (hf s x hs)

theorem memOk_getD {o : Option State} {s : State} (ho : ∀ u, o = some u → u.memOk) (hs : s.memOk) :
    (o.getD s).memOk := by
  cases o with
  | none => exact hs
  | some u => exact ho u rfl

theorem foldl_wf {α : Type} {f : Memory → α → Memory} (hf : ∀ m x, m.wf = true → (f m x).wf = true) {l : List α}
    {m : Memory} (h : m.wf = true) : (l.foldl f m).wf = true := by
  induction l generalizing m with
  | nil => exact h
  | cons x r ih => exact ih (hf m x h)

section

variable {s : State}

/-! ### The functions of `State` -/

theorem memOk_reset : State.reset.memOk := ⟨rfl, rfl⟩

/-! ### The functions of `Ops` -/

theorem memOk_setCore {c : Nat} {x : Core} (hs : s.memOk) : (s.setCore c x).memOk := hs

theorem memOk_modCore {c : Nat} {f : Core → Core} (hs : s.memOk) : (s.modCore c f).memOk := hs

theorem memOk_setThread {k : Nat} {t : Thread} (hs : s.memOk) : (s.setThread k t).memOk := hs

theorem memOk_modThread {k : Nat} {f : Thread → Thread} (hs : s.memOk) : (s.modThread k f).memOk := by
  grind [State.modThread, memOk_setThread]

theorem memOk_setWg {w : Nat} {x : Workgroup} (hs : s.memOk) : (s.setWg w x).memOk := hs

theorem memOk_modWg {w : Nat} {f : Workgroup → Workgroup} (hs : s.memOk) : (s.modWg w f).memOk := by
  grind [State.modWg, memOk_setWg]

theorem memOk_modVault {v : Nat} {f : Vault → Vault} (hs : s.memOk) : (s.modVault v f).memOk := hs

theorem memOk_modSlice {v : Nat} {f : Slice → Slice} (hs : s.memOk) : (s.modSlice v f).memOk := hs

theorem memOk_modColumn {c : Nat} {f : Column → Column} (hs : s.memOk) : (s.modColumn c f).memOk := hs

theorem memOk_modRegion {n : Nat} {f : PowerRegion → PowerRegion} (hs : s.memOk) : (s.modRegion n f).memOk := hs

theorem memOk_modField {f : Nat} {g : Field → Field} (hs : s.memOk) : (s.modField f g).memOk := hs

theorem memOk_modPage {f : PageUnit → PageUnit} (hs : s.memOk) : (s.modPage f).memOk := hs

theorem memOk_modLaunch {f : LaunchUnit → LaunchUnit} (hs : s.memOk) : (s.modLaunch f).memOk := hs

theorem memOk_modLink {f : LinkUnit → LinkUnit} (hs : s.memOk) : (s.modLink f).memOk := hs

theorem memOk_modTime {f : TimeUnit → TimeUnit} (hs : s.memOk) : (s.modTime f).memOk := hs

theorem memOk_modBoot {f : BootUnit → BootUnit} (hs : s.memOk) : (s.modBoot f).memOk := hs

theorem memOk_modLqueue {q : Nat} {f : LaunchQueue → LaunchQueue} (hs : s.memOk) : (s.modLqueue q f).memOk := hs

theorem memOk_modRun {l : Nat} {f : Launch → Launch} (hs : s.memOk) : (s.modRun l f).memOk := by
  grind [State.modRun, memOk_modLaunch]

theorem memOk_pick {α : Type} {l : List α} {x : α} {u : State} (hs : s.memOk) (e : State.pick s l = some (x, u)) :
    u.memOk := by
  unfold State.pick at e
  split at e
  · simp at e
  · grind
  · cases e
    exact hs

theorem memOk_pickOr {α : Type} {l : List α} {d : α} (hs : s.memOk) : ((s.pick l).getD (d, s)).2.memOk := by
  cases e : s.pick l with
  | none => exact hs
  | some r => exact memOk_pick hs e

theorem memOk_fresh (hs : s.memOk) : (s.fresh).2.memOk := hs

theorem memOk_notify {source unit data : Nat} (hs : s.memOk) : (notify s source unit data).memOk := hs

theorem memOk_atBoundary {k : Nat} (hs : s.memOk) : (atBoundary s k).memOk := by
  grind [atBoundary, memOk_modWg]

theorem memOk_goHeader {k : Nat} {pc : DWord} (hs : s.memOk) : (goHeader s k pc).memOk := by
  grind [goHeader, memOk_modThread, memOk_atBoundary]

theorem memOk_goBody {k : Nat} {c : Option Clause} {pc : DWord} (hs : s.memOk) : (goBody s k c pc).memOk := by
  unfold goBody
  grind [memOk_modThread, memOk_goHeader]

theorem memOk_advance {k len : Nat} (hs : s.memOk) : (advance s k len).memOk := by
  grind [advance, memOk_goBody, memOk_setThread]

theorem memOk_transferTo {k : Nat} {pc : DWord} (hs : s.memOk) : (transferTo s k pc).memOk := by
  grind [transferTo, memOk_modThread, memOk_goHeader]

theorem memOk_resumeAt {k : Nat} {r : Resume} {skip : Bool} (hs : s.memOk) : (resumeAt s k r skip).memOk := by
  grind [resumeAt, memOk_modThread, memOk_goBody, memOk_goHeader]

theorem memOk_modBuf {core e : Nat} {f : BufEntry → BufEntry} (hs : s.memOk) : (s.modBuf core e f).memOk := hs

theorem memOk_dropEntryReads {core : Nat} {t : Thread} (hs : s.memOk) : (dropEntryReads s core t).memOk := by
  grind [dropEntryReads, memOk_modBuf, memOk_foldl]

theorem memOk_endThread {k : Nat} (hs : s.memOk) : (endThread s k).memOk := by
  grind [endThread, State.memOk, memOk_dropEntryReads, memOk_modWg]

theorem memOk_unpin {pins : List Nat} (hs : s.memOk) : (unpin s pins).memOk := by
  grind [unpin, State.memOk, memOk_foldl]

theorem memOk_killWg {w : Nat} (hs : s.memOk) : (killWg s w).memOk := by
  grind [killWg, State.memOk, memOk_unpin, memOk_modCore, memOk_modWg]

theorem memOk_killUnit {level k w : Nat} {ti : TrapInfo} {pc : DWord} (hs : s.memOk) :
    (killUnit s level k w ti pc).memOk := by
  grind [killUnit, memOk_endThread, memOk_modRun, memOk_killWg, memOk_foldl]

theorem memOk_killLaunch {launch : Nat} (hs : s.memOk) : (killLaunch s launch).memOk := by
  grind [killLaunch, State.memOk, memOk_modRun, memOk_killWg, memOk_foldl]

theorem memOk_containment {k : Nat} {ti : TrapInfo} {r : Resume} {pc : DWord} (hs : s.memOk) :
    (containment s k ti r pc).memOk := by
  grind [containment, memOk_resumeAt, memOk_modThread, memOk_killUnit]

theorem memOk_takeTrap {k : Nat} {ti : TrapInfo} {r : Resume} {pc : DWord} (hs : s.memOk) :
    (takeTrap s k ti r pc).memOk := by
  grind [takeTrap, memOk_containment, memOk_setThread, memOk_goHeader]

theorem memOk_holdThread {k : Nat} {r : WaitReason} (hs : s.memOk) : (holdThread s k r).memOk := by
  grind [holdThread, memOk_modThread]

theorem memOk_takeTraps {traps : List Raised} (hs : s.memOk) : (takeTraps s traps).memOk := by
  grind [takeTraps, memOk_takeTrap, memOk_foldl]

theorem memOk_raiseTraps {traps : List Raised} (hs : s.memOk) : (raiseTraps s traps).memOk := by
  grind [raiseTraps, State.memOk, memOk_takeTraps]

theorem memOk_perThread {i : Instr} {p : PReg} {body : State → Nat → Nat → Effect}
    (hb : ∀ s k l, s.memOk → (body s k l).state.memOk) (hs : s.memOk) : Out.memOk (perThread i p body s) :=
  runThreads_memOk i p body hb s hs

theorem memOk_onThread {i : Instr} {p : PReg} {f : Thread → Thread} (hs : s.memOk) : Out.memOk (onThread i p f s) :=
  memOk_perThread (fun _ _ _ hs => memOk_modThread hs) hs

theorem memOk_onThreadCounted {i : Instr} {p : PReg} {f : Thread → List RegWrite} (hs : s.memOk) :
    Out.memOk (onThreadCounted i p f s) := by
  grind [onThreadCounted, memOk_onThread]

theorem memOk_whenCan {c : Bool} {u : State} (hu : u.memOk) (hs : s.memOk) : Out.memOk (whenCan c u s) := by
  grind [whenCan, Out.memOk]

/-! ### The functions of `Operands` -/

theorem memOk_writeLocal {l : Local} {b : List Byte} (hs : s.memOk) : (writeLocal s l b).memOk := by
  unfold writeLocal
  grind [State.memOk, writeBytes_wf, memOk_modWg]

/-! ### The functions of `Home` -/

theorem memOk_setQueue {q : Nat} {l : List Rec} (hs : s.memOk) : (s.setQueue q l).memOk := hs

theorem memOk_enqueue {cluster carousel : Nat} {r : Rec} (hs : s.memOk) : (enqueue s cluster carousel r).memOk := hs

theorem memOk_post {cluster carousel : Nat} {r : Rec} (hs : s.memOk) : (post s cluster carousel r).memOk := by
  grind [post, State.memOk, memOk_enqueue]

theorem memOk_pumpOutbox (hs : s.memOk) : (pumpOutbox s).memOk := by
  grind [pumpOutbox, State.memOk, memOk_post, memOk_foldl]

theorem memOk_vaultStore {line : Nat} {d : Line} (hs : s.memOk) : (vaultStore s line d).memOk := by
  grind [vaultStore, State.memOk, writeBytes_wf, memOk_modVault]

theorem memOk_setEntry {e : Nat} {x : Entry} (hs : s.memOk) : (s.setEntry e x).memOk := hs

theorem memOk_modEntry {e : Nat} {f : Entry → Entry} (hs : s.memOk) : (s.modEntry e f).memOk := by
  grind [State.modEntry, memOk_setEntry]

theorem memOk_setTag {line : Nat} {t : Tag} (hs : s.memOk) : (s.setTag line t).memOk := hs

theorem memOk_modTag {line : Nat} {f : Tag → Tag} (hs : s.memOk) : (s.modTag line f).memOk := by
  grind [State.modTag, memOk_setTag]

theorem memOk_freeEntry {e : Nat} (hs : s.memOk) : (freeEntry s e).memOk := by
  grind [freeEntry, State.memOk]

theorem memOk_releaseEntry {e : Option Nat} (hs : s.memOk) : (releaseEntry s e).memOk := by
  unfold releaseEntry
  grind [memOk_freeEntry, memOk_modEntry]

theorem memOk_newEntry {slice dom : Nat} {d : Line} {mark : BitVec 64} {indexed : Bool} (hs : s.memOk) :
    (newEntry s slice dom d mark indexed).2.memOk := hs

theorem memOk_fillTag {line : Nat} {d : Line} (hs : s.memOk) : (fillTag s line d).memOk := by
  grind [fillTag, memOk_releaseEntry, memOk_setEntry, memOk_modSlice, memOk_newEntry, memOk_modTag]

theorem memOk_partTag {line off : Nat} {b : List Byte} (hs : s.memOk) : (partTag s line off b).memOk := by
  grind [partTag, memOk_releaseEntry, memOk_setEntry, memOk_newEntry, memOk_modTag]

theorem memOk_tagWrite {line off : Nat} {b : List Byte} (hs : s.memOk) : (tagWrite s line off b).memOk := by
  grind [tagWrite, memOk_fillTag, memOk_partTag, memOk_modTag]

theorem memOk_tagData {t : Tag} (hs : s.memOk) : (tagData s t).2.memOk := by
  grind [tagData, memOk_setEntry]

theorem memOk_dropTag {line : Nat} (hs : s.memOk) : (dropTag s line).memOk := by
  grind [dropTag, State.memOk, memOk_releaseEntry, memOk_tagData, memOk_vaultStore]

theorem memOk_evictUntil {room : State → Bool} {slice keep n : Nat} {u : State} (hs : s.memOk)
    (e : evictUntil room slice keep s n = some u) : u.memOk := by
  induction n generalizing s with
  | zero => grind [evictUntil]
  | succ n ih => grind [evictUntil, memOk_pick, memOk_dropTag]

theorem memOk_newTag {line dom : Nat} {u : State} (hs : s.memOk) (e : newTag s line dom = some u) : u.memOk := by
  obtain ⟨v, hv, rfl⟩ := Option.map_eq_some_iff.mp e
  exact memOk_setTag (memOk_evictUntil hs hv)

theorem memOk_entryRoom {line : Nat} {u : State} (hs : s.memOk) (e : entryRoom s line = some u) : u.memOk := by
  grind [entryRoom, memOk_evictUntil]

theorem memOk_setL1 {c line : Nat} {x : L1Line} (hs : s.memOk) : (s.setL1 c line x).memOk := hs

theorem memOk_delL1 {c line : Nat} (hs : s.memOk) : (s.delL1 c line).memOk := hs

theorem memOk_dropPuts {c line : Nat} (hs : s.memOk) : (dropPuts s c line).memOk := hs

theorem memOk_loseL1 {c line : Nat} (hs : s.memOk) : (loseL1 s c line).memOk := by
  grind [loseL1, memOk_setL1, memOk_dropPuts, memOk_delL1]

theorem memOk_ownerData {line : Nat} {d : Line} {dirty : Bool} (hs : s.memOk) : (ownerData s line d dirty).memOk := by
  grind [ownerData, memOk_fillTag, memOk_modTag]

theorem memOk_homeRead {line : Nat} {x : Except Nat Line} {u : State} (hs : s.memOk)
    (e : homeRead s line = some (x, u)) :
    u.memOk := by
  unfold homeRead at e
  split at e
  · cases e
  · split at e
    · cases e
      exact hs
    · obtain ⟨t, -, ht⟩ := Option.map_eq_some_iff.mp e
      have hu : (tagData s t).2.memOk := memOk_tagData hs
      rwa [ht] at hu

theorem memOk_pend {a : Access} (hs : s.memOk) : (pend s a).2.memOk := hs

theorem memOk_pendRecord {a : Access} {r : Rec} (hs : s.memOk) : (pendRecord s a r).2.memOk := hs

theorem memOk_pendRemote {a : Access} (hs : s.memOk) : (pendRemote s a).2.memOk := hs

theorem memOk_giveReply {a : Access} {err : Option (Cause × Nat)} {b : List Byte} (hs : s.memOk) :
    (giveReply s a err b).memOk := by
  grind [giveReply, State.memOk, memOk_modLink, memOk_modLaunch]

theorem memOk_forget {who : Asker} (hs : s.memOk) : (forget s who).memOk := hs

theorem memOk_askSend {a : Access} (hs : s.memOk) : (askSend s a).memOk := by
  grind [askSend, memOk_pendRecord, memOk_pendRemote, memOk_giveReply]

theorem memOk_postAccess {a : Access} (hs : s.memOk) : (postAccess s a).memOk := by
  grind [postAccess, memOk_pend, memOk_post]

theorem memOk_postWrite {a : Access} (hs : s.memOk) : (postWrite s a).memOk := by
  grind [postWrite, memOk_pendRemote, memOk_giveReply, memOk_postAccess]

theorem memOk_askOne {a : Access} (hs : s.memOk) : (askOne s a).2.memOk := by
  grind [askOne, memOk_askSend]

theorem memOk_askRead {who : Asker} {asid dom pa n m : Nat} (hs : s.memOk) :
    (askRead s who asid dom pa n m).2.memOk := by
  fun_induction askRead s who asid dom pa n m <;> grind [memOk_askOne]

theorem memOk_askWrite {who : Asker} {asid dom pa : Nat} {b : List Byte} {n : Nat} (hs : s.memOk) :
    (askWrite s who asid dom pa b n).2.memOk := by
  fun_induction askWrite s who asid dom pa b n <;> grind [memOk_askOne]

/-! ### The functions of `Translate` -/

theorem memOk_entryAt {who : Asker} {asid a : Nat} (hs : s.memOk) : (entryAt s who asid a).2.memOk := by
  grind [entryAt, memOk_askRead]

theorem memOk_tableEntry {who : Asker} {asid a : Nat} (hs : s.memOk) : (tableEntry s who asid a).2.memOk := by
  grind [tableEntry, memOk_entryAt]

theorem memOk_walkFrom {who : Asker} {asid va base : Nat} {reads : List (Nat × Nat × Nat)} {n : Nat} (hs : s.memOk) :
    (walkFrom s who asid va base reads n).2.2.memOk := by
  fun_induction walkFrom s who asid va base reads n <;> grind [memOk_tableEntry, memOk_entryAt]

theorem memOk_walkAndHold {who : Asker} {asid ptbase va : Nat} (hs : s.memOk) :
    (walkAndHold s who asid ptbase va).2.memOk := by
  grind [walkAndHold, memOk_modCore, memOk_walkFrom]

theorem memOk_lookup {who : Asker} {asid ptbase va : Nat} (hs : s.memOk) : (lookup s who asid ptbase va).2.memOk := by
  grind [lookup, memOk_walkAndHold]

theorem memOk_laneLookup {who : Asker} {core lane asid ptbase va : Nat} {super needR needW : Bool} (hs : s.memOk) :
    (laneLookup s who core lane asid ptbase va super needR needW).2.memOk := by
  grind [laneLookup, memOk_modCore, memOk_lookup]

theorem memOk_translate {x : Ctx} {va : Nat} {needR needW : Bool} (hs : s.memOk) :
    (translate s x va needR needW).2.memOk := by
  grind [translate, memOk_lookup, memOk_laneLookup]

theorem memOk_resolveG {x : Ctx} {va size : Nat} {pol : Pol} {needR needW atomic : Bool} (hs : s.memOk) :
    (resolveG s x va size pol needR needW atomic).2.memOk := by
  grind [resolveG, memOk_translate]

theorem memOk_newest {line : Nat} (hs : s.memOk) : (newest s line).2.memOk := by
  grind [newest, memOk_tagData]

theorem memOk_newestBytes {a n : Nat} (hs : s.memOk) : (newestBytes s a n).2.memOk := by
  grind [newestBytes, memOk_newest]

theorem memOk_holdFetch {who : Asker} {line : Nat} (hs : s.memOk) : (holdFetch s who line).memOk := by
  grind [holdFetch, memOk_pend, memOk_modVault]

theorem memOk_fetchPage {who : Asker} {asid ptbase : Nat} {super : Bool} {va n : Nat} (hs : s.memOk) :
    (fetchPage s who asid ptbase super va n).2.memOk := by
  grind [fetchPage, memOk_lookup, memOk_holdFetch, memOk_newestBytes]

theorem memOk_fetchCode {who : Asker} {asid ptbase : Nat} {super : Bool} {va n : Nat} (hs : s.memOk) :
    (fetchCode s who asid ptbase super va n).2.memOk := by
  grind [fetchCode, memOk_fetchPage]

/-! ### The functions of `Ctl` -/

theorem memOk_fetchFor {k : Nat} {t : Thread} {w : Workgroup} {va n : Nat} (hs : s.memOk) :
    (fetchFor s k t w va n).2.memOk := by
  grind [fetchFor, memOk_fetchCode]

theorem memOk_dropDeferred {k : Nat} {d : Deferred} (hs : s.memOk) : (dropDeferred s k d).memOk := by
  grind [dropDeferred, memOk_modThread]

theorem memOk_execClauseHeader {l : BitVec 5} {b a : HReg} {mask : BitVec 12} (hs : s.memOk) :
    Out.memOk (execClauseHeader l b a mask s) := by
  grind (splits := 40) (gen := 20) (ematch := 20) [execClauseHeader, Effect.state, memOk_fetchFor, memOk_perThread,
    memOk_dropDeferred, memOk_setThread]

theorem memOk_execImmx {x : BitVec 22} (hs : s.memOk) : Out.memOk (execImmx x s) := by
  grind [execImmx, Effect.state, memOk_perThread, memOk_setThread]

theorem memOk_withThread {k : Nat} {f : Thread → Effect} (hf : ∀ t, (f t).state.memOk) (hs : s.memOk) :
    (withThread s k f).state.memOk := by
  unfold withThread
  split
  · exact hf _
  · exact hs

theorem memOk_withWg {k : Nat} {f : Thread → Workgroup → Effect} (hf : ∀ t w, (f t w).state.memOk) (hs : s.memOk) :
    (withWg s k f).state.memOk := by
  refine memOk_withThread (fun t => ?_) hs
  split
  · exact hf _ _
  · exact hs

theorem memOk_execBra {o : BitVec 22} {p : PReg} (hs : s.memOk) : Out.memOk (execBra o p s) := by
  grind [execBra, Effect.state, memOk_withThread, memOk_perThread]

theorem memOk_execBraU {o : BitVec 22} {p : PReg} (hs : s.memOk) : Out.memOk (execBraU o p s) := by
  grind [execBraU, Effect.state, memOk_withThread, memOk_modCore, memOk_perThread, memOk_transferTo]

theorem memOk_execCall {o : BitVec 16} {d : Reg} {p : PReg} (hs : s.memOk) : Out.memOk (execCall o d p s) := by
  grind [execCall, Effect.state, memOk_withThread, memOk_perThread, memOk_setThread]

theorem memOk_jumpPair {k : Nat} {a : Reg} (hs : s.memOk) : (jumpPair s k a).state.memOk := by
  grind [jumpPair, Effect.state, memOk_withThread]

theorem memOk_execJmpr {a : Reg} {p : PReg} (hs : s.memOk) : Out.memOk (execJmpr a p s) := by
  grind [execJmpr, memOk_perThread, memOk_jumpPair]

theorem memOk_execCallr {a d : Reg} {p : PReg} (hs : s.memOk) : Out.memOk (execCallr a d p s) := by
  grind [execCallr, Effect.state, memOk_withThread, memOk_perThread, memOk_setThread]

theorem memOk_execRet {a : Reg} {p : PReg} (hs : s.memOk) : Out.memOk (execRet a p s) := by
  grind [execRet, memOk_perThread, memOk_jumpPair]

theorem memOk_execMeet {a : Reg} {p : PReg} (hs : s.memOk) : Out.memOk (execMeet a p s) := by
  grind [execMeet, Effect.state, memOk_withThread, memOk_perThread, memOk_setThread]

/-! ### The functions of `Jobs` -/

theorem memOk_openJob {k : Nat} {t : Thread} {w : Workgroup} {h : HReg} {j : Job} {x y} {u : State} (hs : s.memOk)
    (e : openJob s k t w h j = some (x, y, u)) : u.memOk := by
  grind [openJob, memOk_setWg, memOk_modCore, memOk_setThread]

theorem memOk_settle {wg num : Nat} {st : JobStatus} {trap : Option TrapInfo} (hs : s.memOk) :
    (settle s wg num st trap).memOk := by
  grind [settle, memOk_modWg]

theorem memOk_closeJob {core entry : Nat} {st : JobStatus} {trap : Option TrapInfo} (hs : s.memOk) :
    (closeJob s core entry st trap).memOk := by
  grind [closeJob, memOk_settle, memOk_modCore]

theorem memOk_closeHandle {h : Nat × Nat} {st : JobStatus} {trap : Option TrapInfo} (hs : s.memOk) :
    (closeHandle s h st trap).memOk := by
  grind [closeHandle, memOk_settle, memOk_modCore, memOk_modWg]

theorem memOk_instantJob {k : Nat} {t : Thread} {w : Workgroup} {h : HReg} {work : JobWork} {st : JobStatus}
    (hs : s.memOk) : (instantJob s k t w h work st).state.memOk := by
  grind [instantJob, Effect.state, memOk_closeJob, memOk_openJob]

/-! ### The functions of `Barrier` -/

theorem memOk_wakeBar {l : Local} (hs : s.memOk) : (wakeBar s l).memOk := hs

theorem memOk_storeBar {l : Local} {b : Bar × Bool} (hs : s.memOk) : (storeBar s l b).memOk := by
  grind [storeBar, memOk_writeLocal, memOk_wakeBar]

theorem memOk_countBytes {l : Local} {n : Nat} (hs : s.memOk) : (countBytes s l n).1.memOk := by
  grind [countBytes, memOk_storeBar]

theorem memOk_addFlag {off : Nat} (hs : s.memOk) : (addFlag s off).memOk := by
  grind [addFlag, State.memOk, writeBytes_wf]

theorem memOk_chunkCount {c : Chunk} (hs : s.memOk) : (chunkCount s c).1.memOk := by
  grind [chunkCount, memOk_countBytes, memOk_addFlag]

theorem memOk_endChunk {c : Chunk} (hs : s.memOk) : (endChunk s c).memOk := by
  grind [endChunk, memOk_closeHandle, memOk_chunkCount]

theorem memOk_countArrival {a n : Nat} (hs : s.memOk) : (countArrival s a n).memOk := by
  grind [countArrival, State.memOk, memOk_endChunk, memOk_foldl]

theorem memOk_arrived {a : Access} {n : Nat} (hs : s.memOk) : (arrived s a n).memOk := by
  grind [arrived, memOk_countArrival]

/-! ### The functions of `Coherence` -/

theorem memOk_send {m : Msg} (hs : s.memOk) : (send s m).memOk := hs

theorem memOk_dropAcc {id : Nat} (hs : s.memOk) : (dropAcc s id).memOk := hs

theorem memOk_withFlight {k id : Nat} {f : Flight → Flight} (hs : s.memOk) : (withFlight s k id f).memOk := by
  grind [withFlight, memOk_modThread]

theorem memOk_withJob {a : Access} {f : Job → Job} {g : Item → Item} (hs : s.memOk) : (withJob s a f g).memOk := by
  grind [withJob, memOk_modCore]

theorem memOk_accResult {id : Nat} {a : Access} {b : List Byte} (hs : s.memOk) : (accResult s id a b).memOk := by
  grind [accResult, memOk_withJob, memOk_giveReply, memOk_withFlight]

theorem memOk_failAcc {id : Nat} {a : Access} {info : Nat} (hs : s.memOk) : (failAcc s id a info).memOk := by
  grind [failAcc, memOk_raiseTraps, memOk_dropAcc, memOk_withJob, memOk_giveReply, memOk_setThread, memOk_withFlight]

theorem memOk_performOn {id : Nat} {a : Access} {d : Line} (hs : s.memOk) : (performOn s id a d).1.memOk := by
  grind [performOn, memOk_dropAcc, memOk_accResult]

theorem memOk_settleLine {c line : Nat} (hs : s.memOk) : (settleLine s c line).memOk := by
  grind [settleLine, memOk_setL1, memOk_failAcc, memOk_performOn, memOk_foldl]

theorem memOk_endService {id : Nat} (hs : s.memOk) : (endService s id).memOk := by
  grind [endService, State.memOk, memOk_modLink, memOk_closeHandle]

theorem memOk_lineLeft {c line : Nat} (hs : s.memOk) : (lineLeft s c line).memOk := by
  grind [lineLeft, State.memOk, memOk_endService, memOk_foldl]

theorem memOk_evictLine {c line : Nat} {u : State} (hs : s.memOk) (e : evictLine s c line = some u) : u.memOk := by
  grind [evictLine, memOk_enqueue, memOk_setL1]

theorem memOk_pumpFlush {c : Nat} (hs : s.memOk) : (pumpFlush s c).memOk := by
  grind [pumpFlush, memOk_getD, memOk_evictLine, memOk_foldl]

theorem memOk_takeLine {c line : Nat} (hs : s.memOk) : (takeLine s c line).memOk := by
  grind [takeLine, memOk_loseL1, memOk_lineLeft]

theorem memOk_yieldLine {c : Nat} {l : L1Line} {r : Rec} (hs : s.memOk) : (yieldLine s c l r).memOk := by
  grind [yieldLine, memOk_send, memOk_takeLine]

theorem memOk_supplyHome {c line : Nat} {l : L1Line} (hs : s.memOk) : (supplyHome s c line l).memOk := by
  grind [supplyHome, memOk_send]

theorem memOk_snoopNow {c : Nat} {r : Rec} (hs : s.memOk) : (snoopNow s c r).memOk := by
  grind [snoopNow, memOk_send, memOk_setL1, memOk_yieldLine, memOk_supplyHome, memOk_takeLine]

theorem memOk_countHold {slice : Nat} (hs : s.memOk) : (countHold s slice).memOk := hs

theorem memOk_snoop {c : Nat} {r : Rec} (hs : s.memOk) : (snoop s c r).memOk := by
  grind [snoop, memOk_snoopNow, memOk_setL1, memOk_countHold]

theorem memOk_serveHeld {c line : Nat} (hs : s.memOk) : (serveHeld s c line).memOk := by
  grind [serveHeld, memOk_snoopNow, memOk_setL1, memOk_pumpFlush, memOk_foldl]

theorem memOk_claimLine {r : Rec} (hs : s.memOk) : (claimLine s r).memOk := by
  grind [claimLine, memOk_settleLine, memOk_setL1, memOk_serveHeld]

theorem memOk_departLine {r : Rec} (hs : s.memOk) : (departLine s r).memOk := by
  grind [departLine, memOk_send, memOk_lineLeft, memOk_delL1]

theorem memOk_performTag {r : Rec} (hs : s.memOk) : (performTag s r).memOk := by
  grind (splits := 40) (gen := 20) (ematch := 20) [performTag, memOk_dropAcc, memOk_tagWrite, memOk_tagData,
    memOk_accResult, memOk_arrived, memOk_failAcc]

theorem memOk_vaultPerform {r : Rec} (hs : s.memOk) : (vaultPerform s r).memOk := by
  grind [vaultPerform, memOk_arrived, memOk_vaultStore, memOk_failAcc, memOk_performOn]

theorem memOk_serviceDone {r : Rec} (hs : s.memOk) : (serviceDone s r).memOk := by
  grind [serviceDone, memOk_endService]

theorem memOk_forceEvict {slice : Nat} (hs : s.memOk) : (forceEvict s slice).memOk := by
  grind [forceEvict, memOk_pick, memOk_post, memOk_modTag]

theorem memOk_park {r : Rec} (hs : s.memOk) : (park s r).memOk := hs

theorem memOk_startFill {r : Rec} {held : List Rec} (hs : s.memOk) : (startFill s r held).memOk := by
  grind [startFill, memOk_newTag, memOk_park, memOk_forceEvict, memOk_modTag]

theorem memOk_homeNew {r : Rec} (hs : s.memOk) : (homeNew s r).memOk := by
  grind [homeNew, memOk_startFill, memOk_serviceDone, memOk_endService, memOk_vaultPerform]

theorem memOk_holdLast {r : Rec} (hs : s.memOk) : (holdLast s r).memOk := hs

theorem memOk_holdOlder {line : Nat} {l : List Rec} (hs : s.memOk) : (holdOlder s line l).memOk := hs

theorem memOk_homeEnter {r : Rec} (hs : s.memOk) : (homeEnter s r).memOk := by
  grind [homeEnter, memOk_holdLast, memOk_homeNew, memOk_park]

theorem memOk_countHeld {line : Nat} (hs : s.memOk) : (countHeld s line).memOk := by
  grind [countHeld, memOk_setTag, memOk_modSlice]

theorem memOk_homeHold {r : Rec} (hs : s.memOk) : (homeHold s r).memOk := by
  grind [homeHold, memOk_countHeld, memOk_setTag, memOk_homeEnter]

theorem memOk_unpark {slice : Nat} (hs : s.memOk) : (unpark s slice).memOk := by
  grind [unpark, memOk_modSlice, memOk_homeHold, memOk_foldl]

theorem memOk_freeTag {line : Nat} (hs : s.memOk) : (freeTag s line).memOk := by
  grind [freeTag, memOk_dropTag, memOk_homeHold, memOk_holdOlder, memOk_foldl]

theorem memOk_failRec {e : Nat} {r : Rec} (hs : s.memOk) : (failRec e s r).memOk := by
  grind [failRec, memOk_send, memOk_serviceDone, memOk_failAcc]

theorem memOk_homeData {line : Nat} {t : Tag} (hs : s.memOk) : (homeData s line t).2.memOk := by
  grind [homeData, memOk_tagData]

theorem memOk_grantM {r : Rec} {t : Tag} (hs : s.memOk) : (grantM s r t).memOk := by
  grind [grantM, memOk_send, memOk_setTag, memOk_homeData]

theorem memOk_finishInv {r : Rec} (hs : s.memOk) : (finishInv s r).memOk := by
  grind [finishInv, memOk_freeTag, memOk_serviceDone, memOk_setTag]

theorem memOk_homePerform {r : Rec} (hs : s.memOk) : (homePerform s r).memOk := by
  grind [homePerform, memOk_performTag, memOk_forceEvict, memOk_entryRoom, memOk_modTag]

theorem memOk_finishBypr {r : Rec} (hs : s.memOk) : (finishBypr s r).memOk := by
  grind [finishBypr, memOk_setTag, memOk_homePerform, memOk_endService]

theorem memOk_homeDo {r : Rec} {t : Tag} (hs : s.memOk) : (homeDo s r t).memOk := by
  grind [homeDo, memOk_send, memOk_finishInv, memOk_finishBypr, memOk_grantM, memOk_setTag, memOk_homePerform,
    memOk_homeData]

theorem memOk_homeApply {r : Rec} (hs : s.memOk) : (homeApply s r).memOk := by
  grind [homeApply, memOk_holdLast, memOk_homeHold, memOk_homeEnter, memOk_homeDo]

theorem memOk_serveTag {line n : Nat} (hs : s.memOk) : (serveTag s line n).memOk := by
  fun_induction serveTag s line n <;> grind [memOk_countHeld, memOk_setTag, memOk_homeDo]

theorem memOk_goOn {line : Nat} (hs : s.memOk) : (goOn s line).memOk := by
  grind [goOn, memOk_serveTag]

theorem memOk_homeReceive {r : Rec} (hs : s.memOk) : (homeReceive s r).memOk := by
  grind [homeReceive, memOk_homeApply, memOk_modSlice]

theorem memOk_applyBuffered {slice : Nat} (hs : s.memOk) : (applyBuffered s slice).memOk := by
  grind [applyBuffered, memOk_homeApply, memOk_modSlice, memOk_foldl]

theorem memOk_applyRecord {r : Rec} (hs : s.memOk) : (applyRecord s r).memOk := by
  grind [applyRecord, memOk_snoop, memOk_claimLine, memOk_departLine, memOk_homeReceive, memOk_foldl]

theorem memOk_fillLine {line : Nat} (hs : s.memOk) : (fillLine s line).memOk := by
  unfold fillLine
  grind [memOk_fillTag, memOk_dropTag, memOk_setTag, memOk_forceEvict, memOk_entryRoom, memOk_goOn, memOk_failRec,
    memOk_modTag, memOk_foldl]

theorem memOk_serveRoom {line : Nat} (hs : s.memOk) : (serveRoom s line).memOk := by
  grind [serveRoom, memOk_forceEvict, memOk_entryRoom, memOk_goOn, memOk_modTag]

theorem memOk_requestLine {c line dom : Nat} {k : RecKind} (hs : s.memOk) : (requestLine s c line dom k).memOk := by
  unfold requestLine
  dsimp only
  split
  · split
    · exact hs
    · split
      case h_1 v s' e => exact memOk_getD (fun u => memOk_evictLine (memOk_pick hs e)) hs
      case h_2 => exact hs
  · split
    · exact hs
    · exact memOk_setL1 (memOk_enqueue (memOk_modCore hs))

theorem memOk_l1Try {c line dom : Nat} {write : Bool} (hs : s.memOk) : (l1Try s c line dom write).memOk := by
  grind [l1Try, L1Try.memOk, memOk_requestLine, memOk_enqueue, memOk_setL1]

/-! ### The functions of `Carousel` -/

theorem memOk_writeFrame {q : Nat} (hs : s.memOk) : (writeFrame s q).memOk := by
  grind [writeFrame, State.memOk, memOk_setQueue]

theorem memOk_pumpWaiting (hs : s.memOk) : (pumpWaiting s).memOk := by
  grind [pumpWaiting, memOk_pumpOutbox, memOk_serveRoom, memOk_unpark, memOk_serveHeld, memOk_foldl]

theorem memOk_execCarouselSlot (hs : s.memOk) : Out.memOk (execCarouselSlot s) := by
  grind [execCarouselSlot, memOk_writeFrame, memOk_pumpWaiting, memOk_modSlice, memOk_pumpFlush, memOk_modTime,
    memOk_whenCan, memOk_foldl]

theorem memOk_applyNext {k : Nat} {kind : RecKind} {f : State → Rec → State}
    (hf : ∀ s r, s.memOk → (f s r).memOk) (hs : s.memOk) : Out.memOk (applyNext k kind f s) := by
  unfold applyNext
  split
  · exact hs
  · exact memOk_whenCan (hf _ _ hs) hs

theorem memOk_execGets {k : Nat} (hs : s.memOk) : Out.memOk (execGets k s) := by
  grind [execGets, memOk_applyNext, memOk_applyRecord]

theorem memOk_execGetm {k : Nat} (hs : s.memOk) : Out.memOk (execGetm k s) := by
  grind [execGetm, memOk_applyNext, memOk_applyRecord]

theorem memOk_execUpg {k : Nat} (hs : s.memOk) : Out.memOk (execUpg k s) := by
  grind [execUpg, memOk_applyNext, memOk_applyRecord]

theorem memOk_execPutm {k : Nat} (hs : s.memOk) : Out.memOk (execPutm k s) := by
  grind [execPutm, memOk_applyNext, memOk_applyRecord]

theorem memOk_execPuts {k : Nat} (hs : s.memOk) : Out.memOk (execPuts k s) := by
  grind [execPuts, memOk_applyNext, memOk_applyRecord]

theorem memOk_execBypr {k : Nat} (hs : s.memOk) : Out.memOk (execBypr k s) := by
  grind [execBypr, memOk_applyNext, memOk_applyRecord]

theorem memOk_execBypw {k : Nat} (hs : s.memOk) : Out.memOk (execBypw k s) := by
  grind [execBypw, memOk_applyNext, memOk_applyRecord]

theorem memOk_execInv {k : Nat} (hs : s.memOk) : Out.memOk (execInv k s) := by
  grind [execInv, memOk_applyNext, memOk_applyRecord]

theorem memOk_serviceVisible {r : Rec} {waiting : List Nat} (hs : s.memOk) : (serviceVisible s r waiting).memOk := by
  grind [serviceVisible, State.memOk]

theorem memOk_sweepAfter {r : Rec} (hs : s.memOk) : (sweepAfter s r).memOk := by
  grind [sweepAfter, State.memOk, memOk_serviceVisible, memOk_post]

theorem memOk_dropWalks {sel : Nat} (hs : s.memOk) : (dropWalks s sel).memOk := hs

theorem memOk_execTlbiRecord (hs : s.memOk) : Out.memOk (execTlbiRecord s) := by
  grind [execTlbiRecord, State.memOk, memOk_dropWalks, memOk_applyNext, memOk_sweepAfter]

theorem memOk_execSweepRecord (hs : s.memOk) : Out.memOk (execSweepRecord s) := by
  grind [execSweepRecord, State.memOk, memOk_serviceVisible, memOk_applyNext]

theorem memOk_execSweepCompletion {id : Nat} (hs : s.memOk) : Out.memOk (execSweepCompletion id s) := by
  grind [execSweepCompletion, Out.memOk, memOk_endService, memOk_whenCan]

theorem memOk_execXinvGo {value : Word} (hs : s.memOk) : Out.memOk (execXinvGo value s) := by
  grind [execXinvGo, State.memOk, Out.memOk, memOk_fresh, memOk_modPage, memOk_post]

theorem memOk_execXinvDone (hs : s.memOk) : Out.memOk (execXinvDone s) := by
  grind [execXinvDone, State.memOk, Out.memOk, memOk_modPage, memOk_whenCan]

theorem memOk_execBadrec {cluster : Nat} {kind : BitVec 4} (hs : s.memOk) :
    Out.memOk (execBadrec cluster kind s) := by
  grind [execBadrec, memOk_modSlice, memOk_whenCan]

theorem memOk_writeMirrors {bytes : List (Nat × Byte)} (hs : s.memOk) : (writeMirrors s bytes).memOk := by
  obtain ⟨hv, hw⟩ := hs
  unfold writeMirrors
  refine ⟨hv, ?_⟩
  generalize List.range Config.clusterCount = l
  exact foldl_wf (fun _ _ h => foldl_wf (fun _ _ h => memWrite_wf _ _ _ h) h) hw

theorem memOk_execWindowData {k : Nat} (hs : s.memOk) : Out.memOk (execWindowData k s) := by
  grind [execWindowData, memOk_dropAcc, memOk_writeMirrors, memOk_applyNext]

theorem memOk_arriveSupply {line c gen : Nat} {data : Line} {excl : Bool} {err : Option Nat} (hs : s.memOk) :
    (arriveSupply s line c gen data excl err).memOk := by
  grind [arriveSupply, memOk_settleLine, memOk_setL1, memOk_lineLeft, memOk_failAcc, memOk_delL1, memOk_serveHeld,
    memOk_foldl]

theorem memOk_arriveHome {line : Nat} {data : Line} {dirty : Bool} (hs : s.memOk) :
    (arriveHome s line data dirty).memOk := by
  grind [arriveHome, memOk_goOn, memOk_modTag, memOk_ownerData]

theorem memOk_takeHome {id line : Nat} {data : Line} {dirty : Bool} {after : State → State}
    (ha : ∀ s, s.memOk → (after s).memOk) (hs : s.memOk) : (takeHome s id line data dirty after).memOk := by
  unfold takeHome
  split
  case h_1 u e =>
    have hu : u.memOk := memOk_entryRoom hs e
    exact ha _ (memOk_arriveHome hu)
  case h_2 => exact memOk_forceEvict hs

theorem memOk_execSupplyArrival {id : Nat} (hs : s.memOk) : Out.memOk (execSupplyArrival id s) := by
  grind [execSupplyArrival, State.memOk, Out.memOk, memOk_arriveSupply, memOk_whenCan, memOk_takeHome]

theorem memOk_execOwnerNotice {id : Nat} (hs : s.memOk) : Out.memOk (execOwnerNotice id s) := by
  grind [execOwnerNotice, State.memOk, Out.memOk, memOk_goOn, memOk_modTag, memOk_whenCan]

theorem memOk_execWritebackArrival {id : Nat} (hs : s.memOk) : Out.memOk (execWritebackArrival id s) := by
  grind [execWritebackArrival, Out.memOk, memOk_lineLeft, memOk_whenCan, memOk_takeHome]

theorem memOk_execL2Fill {line : Nat} (hs : s.memOk) : Out.memOk (execL2Fill line s) := by
  grind [execL2Fill, Out.memOk, memOk_fillLine]

theorem memOk_execVaultWritePerformed {line : Nat} (hs : s.memOk) : Out.memOk (execVaultWritePerformed line s) := by
  grind [execVaultWritePerformed, Out.memOk, memOk_freeTag, memOk_tagData, memOk_vaultStore, memOk_modTag,
    memOk_endService, memOk_whenCan, memOk_foldl]

theorem memOk_execHeldRequestRelease {vault : Nat} (hs : s.memOk) : Out.memOk (execHeldRequestRelease vault s) := by
  grind [execHeldRequestRelease, Out.memOk, memOk_homeNew, memOk_park, memOk_modVault, memOk_homeHold, memOk_homeDo,
    memOk_whenCan, memOk_vaultPerform]

theorem memOk_execDedupClr {slice : Nat} {value : Word} (hs : s.memOk) : Out.memOk (execDedupClr slice value s) := by
  grind [execDedupClr, memOk_modSlice, memOk_whenCan]

theorem memOk_execHdKey3 {value : Word} (hs : s.memOk) : Out.memOk (execHdKey3 value s) := by
  grind [execHdKey3, State.memOk, memOk_whenCan]

/-! ### The functions of `Vault` -/

theorem memOk_lifeAdd {off n amount : Nat} (hs : s.memOk) : (lifeAdd s off n amount).memOk := hs

theorem memOk_pendBank {vault bank : Nat} (hs : s.memOk) : (pendBank s vault bank).memOk := hs

theorem memOk_execPatrolScrub {vault : Nat} {corrected : List (Nat × Nat)} {lost : List Nat} (hs : s.memOk) :
    Out.memOk (execPatrolScrub vault corrected lost s) := by
  grind [execPatrolScrub, Out.memOk, memOk_lifeAdd, memOk_pendBank, memOk_modVault, memOk_foldl]

theorem memOk_voteTable {vault : Nat} (hs : s.memOk) : (voteTable s vault).2.memOk := by
  grind [voteTable, memOk_modVault, memOk_notify]

theorem memOk_holdFills {vault : Nat} (hs : s.memOk) : (holdFills s vault).memOk := by
  grind [holdFills, State.memOk, memOk_holdOlder, memOk_foldl]

theorem memOk_pumpRemap {vault : Nat} (hs : s.memOk) : (pumpRemap s vault).memOk := by
  grind [pumpRemap, memOk_enqueue, memOk_modTag, memOk_foldl]

theorem memOk_execVaultRemapGo {vault : Nat} {value : Word} (hs : s.memOk) :
    Out.memOk (execVaultRemapGo vault value s) := by
  grind [execVaultRemapGo, Out.memOk, memOk_holdFills, memOk_pumpRemap, memOk_voteTable, memOk_modVault]

theorem memOk_execRemapStepCompletion {vault : Nat} (hs : s.memOk) : Out.memOk (execRemapStepCompletion vault s) := by
  have hp : (pumpRemap s vault).memOk := memOk_pumpRemap hs
  obtain ⟨hv, hw⟩ := hp
  exact memOk_whenCan (memOk_notify (memOk_modVault ⟨filter_wf _ _ hv, hw⟩)) ⟨hv, hw⟩

theorem memOk_chargeRefresh {vault : Nat} (hs : s.memOk) : (chargeRefresh s vault).memOk := by
  grind [chargeRefresh, memOk_modWg, memOk_foldl]

theorem memOk_lifeTemp {vault : Nat} {t : Int} (hs : s.memOk) : (lifeTemp s vault t).memOk := hs

theorem memOk_execVaultTempSample {vault : Nat} {layers : List Int} (hs : s.memOk) :
    Out.memOk (execVaultTempSample vault layers s) := by
  unfold execVaultTempSample
  grind [Out.memOk, memOk_chargeRefresh, memOk_lifeTemp, memOk_modVault, memOk_modColumn, memOk_modLaunch,
    memOk_whenCan]

theorem memOk_execVaultFloor {value : Word} (hs : s.memOk) : Out.memOk (execVaultFloor value s) := by
  grind [execVaultFloor, State.memOk, memOk_whenCan]

theorem memOk_refillBy {n : Nat} (hs : s.memOk) : (refillBy s n).memOk := hs

theorem memOk_execHeatRefill (hs : s.memOk) : Out.memOk (execHeatRefill s) := by
  grind [execHeatRefill, memOk_refillBy, memOk_whenCan]

theorem memOk_execCurrentLimitStep (hs : s.memOk) : Out.memOk (execCurrentLimitStep s) := by
  grind [execCurrentLimitStep, State.memOk, memOk_whenCan]

theorem memOk_boundaries (hs : s.memOk) : (boundaries s).memOk := by
  grind [boundaries, State.memOk, memOk_refillBy]

theorem memOk_execCurlimStep {region : Nat} {value : Word} (hs : s.memOk) :
    Out.memOk (execCurlimStep region value s) := by
  grind [execCurlimStep, memOk_modRegion, memOk_whenCan]

theorem memOk_execDroopAlarm {region : Nat} (hs : s.memOk) : Out.memOk (execDroopAlarm region s) := hs

theorem memOk_execDroopExpiry {region : Nat} (hs : s.memOk) : Out.memOk (execDroopExpiry region s) := by
  grind [execDroopExpiry, memOk_modRegion, memOk_whenCan]

/-! ### The functions of `Field` -/

theorem memOk_execBeacon {f : Nat} {offset : Int} (hs : s.memOk) : Out.memOk (execBeacon f offset s) := by
  grind [execBeacon, memOk_modField, memOk_whenCan]

theorem memOk_execBeaconLoss {f : Nat} (hs : s.memOk) : Out.memOk (execBeaconLoss f s) := by
  grind [execBeaconLoss, memOk_modField, memOk_modTime, memOk_whenCan]

theorem memOk_makeClaim {f : Nat} (hs : s.memOk) : (makeClaim s f).memOk := hs

theorem memOk_execClaim {f : Nat} (hs : s.memOk) : Out.memOk (execClaim f s) := by
  grind [execClaim, memOk_makeClaim, memOk_whenCan]

theorem memOk_execBid {f : Nat} (hs : s.memOk) : Out.memOk (execBid f s) := by
  grind [execBid, memOk_modTime, memOk_whenCan]

theorem memOk_execRmForce {value : Word} (hs : s.memOk) : Out.memOk (execRmForce value s) := by
  grind [execRmForce, memOk_makeClaim, memOk_whenCan]

theorem memOk_execClaimRecord (hs : s.memOk) : Out.memOk (execClaimRecord s) := by
  grind [execClaimRecord, Out.memOk, memOk_modField, memOk_modTime, memOk_whenCan]

theorem memOk_execMasterTakeover {f : Nat} (hs : s.memOk) : Out.memOk (execMasterTakeover f s) := by
  grind [execMasterTakeover, memOk_modField, memOk_notify, memOk_modTime, memOk_whenCan]

theorem memOk_execNewMasterBeacon {f : Nat} (hs : s.memOk) : Out.memOk (execNewMasterBeacon f s) := by
  grind [execNewMasterBeacon, memOk_modTime, memOk_whenCan]

theorem memOk_execDriftCheck {f : Nat} {skews : List Int} (hs : s.memOk) : Out.memOk (execDriftCheck f skews s) := by
  grind [execDriftCheck, memOk_modField, memOk_whenCan]

theorem memOk_execStallNotice {f : Nat} (hs : s.memOk) : Out.memOk (execStallNotice f s) := by
  grind [execStallNotice, memOk_modField, memOk_whenCan]

theorem memOk_execPtpSync {offset : Int} (hs : s.memOk) : Out.memOk (execPtpSync offset s) := by
  grind [execPtpSync, memOk_modTime, memOk_whenCan]

theorem memOk_payOwed {f : Nat} (hs : s.memOk) : (payOwed s f).memOk := hs

theorem memOk_execClockSourceLoss {f source : Nat} (hs : s.memOk) : Out.memOk (execClockSourceLoss f source s) := by
  grind [execClockSourceLoss, memOk_modField, memOk_whenCan]

theorem memOk_payBuffered {f : Nat} (hs : s.memOk) : (payBuffered s f).memOk := by
  grind [payBuffered, memOk_applyBuffered, memOk_foldl]

theorem memOk_execClockSwitchComplete {f : Nat} {bands : List Nat} (hs : s.memOk) :
    Out.memOk (execClockSwitchComplete f bands s) := by
  grind [execClockSwitchComplete, memOk_modField, memOk_payBuffered, memOk_payOwed, memOk_notify, memOk_whenCan]

theorem memOk_execClockSourceReturn {f source : Nat} (hs : s.memOk) :
    Out.memOk (execClockSourceReturn f source s) := by
  grind [execClockSourceReturn, memOk_modField, memOk_whenCan]

theorem memOk_modRing {r : Nat} {f : Ring → Ring} (hs : s.memOk) : (s.modRing r f).memOk := hs

theorem memOk_holdCarousel {k slot : Nat} (hs : s.memOk) : (holdCarousel s k slot).memOk := hs

theorem memOk_execFrameCrcFailure {k slot : Nat} (hs : s.memOk) : Out.memOk (execFrameCrcFailure k slot s) := by
  grind [execFrameCrcFailure, memOk_holdCarousel, memOk_whenCan]

theorem memOk_shiftFrames {k slot n : Nat} (hs : s.memOk) : (shiftFrames s k slot n).memOk := hs

theorem memOk_execCarouselReplay {k : Nat} (hs : s.memOk) : Out.memOk (execCarouselReplay k s) := by
  grind [execCarouselReplay, Out.memOk, memOk_shiftFrames, memOk_modTime, memOk_whenCan]

theorem memOk_modPort {p : Nat} {f : Port → Port} (hs : s.memOk) : (s.modPort p f).memOk := hs

theorem memOk_linkDown {link : Nat} (hs : s.memOk) : (linkDown s link).memOk := hs

theorem memOk_settleLink {link : Nat} (hs : s.memOk) : (settleLink s link).memOk := by
  grind [settleLink, memOk_modLink, memOk_linkDown]

theorem memOk_portEvent {p : Nat} {old : Port} {failover : Bool} (hs : s.memOk) :
    (portEvent s p old failover).memOk := by
  grind [portEvent, memOk_modPort, memOk_notify, memOk_settleLink]

theorem memOk_settlePort {p : Nat} (hs : s.memOk) : (settlePort s p).memOk := by
  grind [settlePort, memOk_modPort, memOk_portEvent]

theorem memOk_writePortCtl {p : Nat} {v : Word} (hs : s.memOk) : (writePortCtl s p v).memOk := by
  grind [writePortCtl, memOk_modPort, memOk_settlePort]

theorem memOk_failLane {p lane : Nat} (hs : s.memOk) : (failLane s p lane).memOk := by
  grind [failLane, memOk_modPort, memOk_portEvent, memOk_modRing, memOk_foldl]

theorem memOk_maskRing {r : Nat} (hs : s.memOk) : (maskRing s r).memOk := hs

theorem memOk_execRingSweepEnd {r : Nat} {found : Option Nat} (hs : s.memOk) :
    Out.memOk (execRingSweepEnd r found s) := by
  unfold execRingSweepEnd
  grind [memOk_maskRing, memOk_modRing, memOk_whenCan]

theorem memOk_execRingLock {r heater : Nat} (hs : s.memOk) : Out.memOk (execRingLock r heater s) := by
  grind [execRingLock, memOk_modLink, memOk_lifeAdd, memOk_settlePort, memOk_modRing, memOk_whenCan]

theorem memOk_execRingLockLoss {r : Nat} (hs : s.memOk) : Out.memOk (execRingLockLoss r s) := by
  grind [execRingLockLoss, memOk_modLink, memOk_failLane, memOk_holdCarousel, memOk_notify, memOk_modRing,
    memOk_whenCan]

theorem memOk_execRingRetune (hs : s.memOk) : Out.memOk (execRingRetune s) := by
  grind [execRingRetune, memOk_modRing, memOk_whenCan]

theorem memOk_execRingMask (hs : s.memOk) : Out.memOk (execRingMask s) := by
  grind [execRingMask, memOk_maskRing, memOk_whenCan]

theorem memOk_execRingUnmask (hs : s.memOk) : Out.memOk (execRingUnmask s) := by
  grind [execRingUnmask, memOk_modRing, memOk_whenCan]

theorem memOk_execCodewordReplay {p lane : Nat} (hs : s.memOk) : Out.memOk (execCodewordReplay p lane s) := by
  grind [execCodewordReplay, memOk_modPort, memOk_whenCan]

theorem memOk_execLaneFailover {p lane : Nat} (hs : s.memOk) : Out.memOk (execLaneFailover p lane s) := by
  grind [execLaneFailover, memOk_failLane, memOk_whenCan]

theorem memOk_execXbar {lane : Nat} {value : Word} (hs : s.memOk) : Out.memOk (execXbar lane value s) := hs

theorem memOk_execLaserAgeReport {channel : Nat} {current power change hours : Word} (hs : s.memOk) :
    Out.memOk (execLaserAgeReport channel current power change hours s) := hs

/-! ### The functions of `Pages` -/

theorem memOk_execPgqry {a : Reg} {d p : PReg} (hs : s.memOk) : Out.memOk (execPgqry a d p s) := by
  grind [execPgqry, Effect.state, memOk_withWg, memOk_lookup, memOk_perThread, memOk_setThread]

theorem memOk_requestPage {k : Nat} {t : Thread} {w : Workgroup} {d : HReg} {va leaf : Nat} (hs : s.memOk) :
    (requestPage s k t w d va leaf).state.memOk := by
  grind [requestPage, Effect.state, memOk_openJob, memOk_modCore, memOk_instantJob]

theorem memOk_execPgreq {a : Reg} {d : HReg} {p : PReg} (hs : s.memOk) : Out.memOk (execPgreq a d p s) := by
  grind [execPgreq, Effect.state, memOk_withWg, memOk_requestPage, memOk_lookup, memOk_perThread, memOk_instantJob]

theorem memOk_execPrqRecordWrite {core entry : Nat} (hs : s.memOk) : Out.memOk (execPrqRecordWrite core entry s) := by
  grind [execPrqRecordWrite, State.memOk, Out.memOk, writeBytes_wf, memOk_forget, memOk_modPage, memOk_modCore,
    memOk_notify, memOk_whenCan]

theorem memOk_endPageReq {core entry : Nat} {st : JobStatus} (hs : s.memOk) : (endPageReq s core entry st).memOk := by
  grind [endPageReq, memOk_forget, memOk_modCore, memOk_closeHandle, memOk_foldl]

theorem memOk_answer {id : Nat} {st : JobStatus} (hs : s.memOk) : (answer s id st).memOk := by
  grind [answer, memOk_endPageReq, memOk_modPage]

theorem memOk_execPrqRespDone {request : BitVec 16} (hs : s.memOk) : Out.memOk (execPrqRespDone request s) := by
  grind [execPrqRespDone, Out.memOk, memOk_answer]

theorem memOk_execPrqRespDenied {request : BitVec 16} (hs : s.memOk) : Out.memOk (execPrqRespDenied request s) := by
  grind [execPrqRespDenied, Out.memOk, memOk_answer]

theorem memOk_pageContent {who : Asker} {pa : Nat} (hs : s.memOk) : (pageContent s who pa).2.memOk := by
  grind [pageContent, memOk_askRead]

theorem memOk_pageStore {who : Asker} {pa : Nat} {b : List Byte} (hs : s.memOk) : (pageStore s who pa b).2.memOk := by
  grind [pageStore, memOk_askWrite]

theorem memOk_leafSwap {who : Asker} {a old new : Nat} (hs : s.memOk) : (leafSwap s who a old new).2.memOk := by
  grind [leafSwap, memOk_askOne]

theorem memOk_modReq {core entry : Nat} {f : PageReq → PageReq} (hs : s.memOk) :
    (s.modReq core entry f).memOk := hs

theorem memOk_forwardReq {core entry leaf : Nat} (hs : s.memOk) : (forwardReq s core entry leaf).memOk := hs

theorem memOk_badFrame (hs : s.memOk) : (badFrame s).memOk := hs

theorem memOk_pushFrame {f : Nat} (hs : s.memOk) : (pushFrame s f).memOk := by
  grind [pushFrame, State.memOk, writeBytes_wf, memOk_modPage]

theorem memOk_beginInstall {core entry leaf leafAt backing rights : Nat} (hs : s.memOk) :
    (beginInstall s core entry leaf leafAt backing rights).memOk := by
  grind [beginInstall, memOk_modPage, memOk_badFrame, memOk_modReq, memOk_forwardReq]

theorem memOk_goInstall {core entry : Nat} {r : PageReq} {i : Install} (hs : s.memOk) :
    (goInstall s core entry r i).memOk := by
  grind [goInstall, memOk_endPageReq, memOk_pageStore, memOk_forget, memOk_modPage, memOk_pageContent, memOk_badFrame,
    memOk_modReq, memOk_forwardReq, memOk_pushFrame, memOk_leafSwap]

theorem memOk_execPageRequestEngine {core entry : Nat} (hs : s.memOk) :
    Out.memOk (execPageRequestEngine core entry s) := by
  unfold execPageRequestEngine
  grind [Out.memOk, memOk_endPageReq, memOk_forget, memOk_beginInstall, memOk_forwardReq, memOk_walkFrom,
    memOk_goInstall]

theorem memOk_execTlbi {b a : Reg} {p : PReg} (hs : s.memOk) : Out.memOk (execTlbi b a p s) := by
  grind [execTlbi, Effect.state, memOk_withWg, memOk_enqueue, memOk_perThread]

theorem memOk_execSweep {b : Reg} {d : HReg} {p : PReg} (hs : s.memOk) : Out.memOk (execSweep b d p s) := by
  grind [execSweep, State.memOk, Effect.state, memOk_withWg, memOk_fresh, memOk_openJob, memOk_enqueue,
    memOk_perThread]

theorem memOk_setStack {l : List Nat} (hs : s.memOk) : (setStack s l).memOk := by
  obtain ⟨hv, hw⟩ := hs
  exact memOk_modPage ⟨hv, foldl_wf (fun _ _ h => writeBytes_wf _ _ _ h) hw⟩

theorem memOk_pageReturned {vault : Nat} {e : PageLog} (hs : s.memOk) : (pageReturned s vault e).memOk := by
  grind [pageReturned, State.memOk, memOk_fresh, memOk_modPage, memOk_post]

theorem memOk_returnPage {vault : Nat} {e : PageLog} (hs : s.memOk) : (returnPage s vault e).memOk := by
  grind (splits := 40) (gen := 20) (ematch := 20) [returnPage, Returned.memOk, memOk_pageStore, memOk_forget,
    memOk_entryAt, memOk_pageContent, memOk_pageReturned, memOk_leafSwap]

theorem memOk_execHwPageRetirement {vault : Nat} (hs : s.memOk) : Out.memOk (execHwPageRetirement vault s) := by
  grind [execHwPageRetirement, State.memOk, Out.memOk, Returned.memOk, memOk_forget, memOk_returnPage, memOk_modPage,
    memOk_setStack, memOk_execVaultRemapGo, memOk_notify]

/-! ### The functions of `Boot` -/

theorem memOk_bootLane {x : Nat × Nat × Nat} (hs : s.memOk) : (bootLane s x).memOk := hs

theorem memOk_bootVault {r : BootReport} {v : Nat} (hs : s.memOk) : (bootVault r s v).memOk := by
  grind [bootVault, memOk_lifeTemp, memOk_modVault, memOk_modColumn]

theorem memOk_bootField {r : BootReport} {f : Nat} (hs : s.memOk) : (bootField r s f).memOk := by
  grind [bootField, memOk_modField, memOk_notify]

theorem memOk_bootMaster {r : BootReport} (hs : s.memOk) : (bootMaster r s).memOk := by
  grind [bootMaster, memOk_modField, memOk_modTime, memOk_foldl]

theorem memOk_bootFence {n : Nat} (hs : s.memOk) : (bootFence n s).memOk := by
  fun_induction bootFence n s <;> grind [memOk_voteTable, memOk_foldl]

theorem memOk_takeTable {v : Nat} (hs : s.memOk) : (takeTable s v).memOk := by
  grind [takeTable, memOk_voteTable, memOk_modVault]

theorem memOk_bootFields {r : BootReport} (hs : s.memOk) : (bootFields r s).memOk := by
  grind [bootFields, State.memOk, memOk_bootMaster, memOk_modLink, memOk_bootLane, memOk_bootField, memOk_bootFence,
    memOk_bootVault, memOk_takeTable, memOk_modTime, memOk_foldl]

theorem memOk_bootCores {r : BootReport} (hs : s.memOk) : (bootCores r s).memOk := by
  grind [bootCores, memOk_modLaunch]

theorem memOk_extendMeas {m : BitVec 384} (hs : s.memOk) : (extendMeas s m).memOk := by
  grind [extendMeas, memOk_modBoot]

theorem memOk_bootCode {r : BootReport} (hs : s.memOk) : (bootCode r s).memOk := by
  grind [bootCode, memOk_extendMeas, memOk_modBoot]

theorem memOk_bootLife (hs : s.memOk) : (bootLife s).memOk := hs

theorem memOk_bootSteps {r : BootReport} {n : Nat} (hs : s.memOk) : (bootSteps r s n).memOk := by
  grind [bootSteps, memOk_modPort, memOk_modLink, memOk_modPage, memOk_bootLife, memOk_bootFields, memOk_bootCores,
    memOk_bootCode]

theorem memOk_execPowerGood {report : BootReport} (hs : s.memOk) : Out.memOk (execPowerGood report s) := by
  grind [execPowerGood, memOk_bootSteps, memOk_modBoot, memOk_whenCan]

theorem memOk_execPowerLoss : Out.memOk (execPowerLoss s) := ⟨rfl, rfl⟩

theorem memOk_containerBytes {j : LoadJob} {o n : Nat} (hs : s.memOk) : (containerBytes s j o n).2.memOk := by
  grind [containerBytes, memOk_askRead]

theorem memOk_loaderEnd {stat : Nat} (hs : s.memOk) : (loaderEnd s stat).memOk := hs

theorem memOk_loaderFail {i n : Nat} (hs : s.memOk) : (loaderFail s i n).memOk := hs

theorem memOk_loadFrames {j : LoadJob} {va n : Nat} (hs : s.memOk) : (loadFrames s j va n).2.memOk := by
  fun_induction loadFrames s j va n <;> grind [memOk_walkFrom]

theorem memOk_loadGoes {j : LoadJob} (hs : s.memOk) : (loadGoes s j).memOk := hs

theorem memOk_loadSegment {j : LoadJob} {d : List Byte} (hs : s.memOk) : (loadSegment s j d).memOk := by
  grind (splits := 40) (gen := 20) (ematch := 20) [loadSegment, memOk_fresh, memOk_forget, memOk_containerBytes,
    memOk_extendMeas, memOk_loadGoes, memOk_loadFrames, memOk_loaderFail]

theorem memOk_runLoader {j : LoadJob} (hs : s.memOk) : (runLoader s j).memOk := by
  grind [runLoader, memOk_loaderEnd, memOk_forget, memOk_containerBytes, memOk_askWrite, memOk_loadGoes,
    memOk_modBoot, memOk_loaderFail, memOk_loadSegment]

theorem memOk_execLoaderGo {value : Word} (hs : s.memOk) : Out.memOk (execLoaderGo value s) := by
  grind [execLoaderGo, State.memOk, memOk_modBoot, memOk_whenCan]

theorem memOk_execLoaderComplete (hs : s.memOk) : Out.memOk (execLoaderComplete s) := by
  grind [execLoaderComplete, Out.memOk, memOk_runLoader]

theorem memOk_execLoadUnmark {value : Word} (hs : s.memOk) : Out.memOk (execLoadUnmark value s) := by
  grind [execLoadUnmark, memOk_modBoot, memOk_whenCan]

theorem memOk_execQuoteGo (hs : s.memOk) : Out.memOk (execQuoteGo s) := hs

theorem memOk_execQuoteComplete (hs : s.memOk) : Out.memOk (execQuoteComplete s) := by
  grind [execQuoteComplete, State.memOk, writeBytes_wf, memOk_modBoot, memOk_whenCan]

theorem memOk_execLifetimeRecord {shutdown : Bool} (hs : s.memOk) : Out.memOk (execLifetimeRecord shutdown s) :=
  memOk_whenCan hs hs

theorem memOk_execLifetimeRecordComplete {written : Bool} (hs : s.memOk) :
    Out.memOk (execLifetimeRecordComplete written s) := by
  grind [execLifetimeRecordComplete, State.memOk, memOk_notify, memOk_whenCan]

/-! ### The functions of `DevRegs` -/

theorem memOk_outState {o : Out} (ho : Out.memOk o) (hs : s.memOk) : (outState o s).memOk := by
  cases o with
  | next u => exact ho
  | fault | refused => exact hs

theorem memOk_writeVaultReg {o : Nat} {v : Word} (hs : s.memOk) : (writeVaultReg s o v).memOk := by
  grind [writeVaultReg, State.memOk, memOk_modVault, memOk_execVaultRemapGo, memOk_outState, memOk_execVaultFloor]

theorem memOk_writePrqResp {n : Nat} (hs : s.memOk) : (writePrqResp s n).memOk := by
  grind [writePrqResp, memOk_modPage, memOk_outState, memOk_execPrqRespDenied, memOk_execPrqRespDone]

theorem memOk_writePageReg {r : Nat} {v : Word} (hs : s.memOk) : (writePageReg s r v).memOk := by
  unfold writePageReg
  grind [memOk_modPage, memOk_outState, memOk_writePrqResp, memOk_execXinvGo]

theorem memOk_writeSliceReg {o : Nat} {v : Word} (hs : s.memOk) : (writeSliceReg s o v).memOk := by
  grind [writeSliceReg, memOk_execDedupClr, memOk_modSlice, memOk_outState]

theorem memOk_writeCohReg {r : Nat} {v : Word} (hs : s.memOk) : (writeCohReg s r v).memOk := by
  grind [writeCohReg, State.memOk, memOk_execHdKey3, memOk_outState]

theorem memOk_writeHeatReg {o : Nat} {v : Word} (hs : s.memOk) : (writeHeatReg s o v).memOk := by
  grind [writeHeatReg, State.memOk, memOk_execCurlimStep, memOk_modColumn, memOk_outState, memOk_modRegion]

theorem memOk_execThrClr {core : Nat} {value : Word} (hs : s.memOk) : Out.memOk (execThrClr core value s) := by
  grind [execThrClr, memOk_modCore, memOk_whenCan]

theorem memOk_writeQueueReg {o : Nat} {v : Word} (hs : s.memOk) : (writeQueueReg s o v).memOk := hs

theorem memOk_writeLaunchReg {r : Nat} {v : Word} (hs : s.memOk) : (writeLaunchReg s r v).memOk := by
  grind [writeLaunchReg, memOk_modLaunch]

theorem memOk_writeCtxReg {r : Nat} {v : Word} (hs : s.memOk) : (writeCtxReg s r v).memOk := by
  grind [writeCtxReg, State.memOk, memOk_modLaunch]

theorem memOk_writeFieldReg {o : Nat} {v : Word} (hs : s.memOk) : (writeFieldReg s o v).memOk := by
  grind [writeFieldReg, memOk_modField]

theorem memOk_writeMasterReg {r : Nat} {v : Word} (hs : s.memOk) : (writeMasterReg s r v).memOk := by
  grind [writeMasterReg, memOk_outState, memOk_execRmForce, memOk_modTime]

theorem memOk_writeRingCmd {n : Nat} (hs : s.memOk) : (writeRingCmd s n).memOk := by
  grind [writeRingCmd, memOk_execRingMask, memOk_execRingUnmask, memOk_outState, memOk_execRingRetune]

theorem memOk_writeRingReg {r : Nat} {v : Word} (hs : s.memOk) : (writeRingReg s r v).memOk := by
  grind [writeRingReg, memOk_modLink, memOk_execXbar, memOk_writeRingCmd, memOk_outState]

theorem memOk_writePortReg {o : Nat} {v : Word} (hs : s.memOk) : (writePortReg s o v).memOk := by
  grind [writePortReg, memOk_writePortCtl, memOk_modPort]

theorem memOk_writeRoute {o n : Nat} (hs : s.memOk) : (writeRoute s o n).memOk := hs

theorem memOk_writeModReg {r : Nat} {v : Word} (hs : s.memOk) : (writeModReg s r v).memOk := hs

theorem memOk_writeLoadCtl {v : Word} (hs : s.memOk) : (writeLoadCtl s v).memOk := by
  grind [writeLoadCtl, memOk_execLoaderGo, memOk_outState, memOk_modBoot, memOk_execLoadUnmark]

theorem memOk_writeBootReg {r : Nat} {v : Word} (hs : s.memOk) : (writeBootReg s r v).memOk := by
  grind [writeBootReg, memOk_writeLoadCtl, memOk_outState, memOk_execQuoteGo, memOk_modBoot]

theorem memOk_devWrite {o : Nat} {v : Word} (hs : s.memOk) : (devWrite s o v).memOk := by
  grind (splits := 40) [devWrite, memOk_writeCohReg, memOk_execThrClr, memOk_writeFieldReg, memOk_writeLaunchReg,
    memOk_writeRoute, memOk_writeHeatReg, memOk_modCore, memOk_writeBootReg, memOk_writePageReg, memOk_writeRingReg,
    memOk_writeCtxReg, memOk_writeModReg, memOk_outState, memOk_writePortReg, memOk_writeQueueReg,
    memOk_writeSliceReg, memOk_writeMasterReg, memOk_writeVaultReg]

theorem memOk_execRegisterWrite {addr : Nat} {value : Word} (hs : s.memOk) :
    Out.memOk (execRegisterWrite addr value s) := by
  grind [execRegisterWrite, memOk_devWrite, memOk_whenCan]

/-! ### The functions of `Mem` -/

theorem memOk_guardAccs {x : Scope} {l : List Nat} (hs : s.memOk) : (guardAccs s x l).memOk := hs

theorem memOk_orderAt {k : Nat} {t : Thread} {x : Scope} {l : List (Nat × Access)} {u : State} (hs : s.memOk)
    (e : orderAt s k t x l = some u) : u.memOk := by
  unfold orderAt at e
  grind [memOk_guardAccs]

theorem memOk_ackGate {k : Nat} {t : Thread} {why : WaitReason} {f : Unit → Effect} (hf : (f ()).state.memOk)
    (hs : s.memOk) : (ackGate s k t why f).state.memOk := by
  grind [ackGate, Effect.state, memOk_dropDeferred]

theorem memOk_fenceGate {k : Nat} {t : Thread} {x : Scope × FenceKind} {f : State → Effect}
    (hf : ∀ s, s.memOk → (f s).state.memOk) (hs : s.memOk) : (fenceGate s k t x f).state.memOk := by
  grind [fenceGate, Effect.state, memOk_ackGate, memOk_orderAt]

theorem memOk_afterOrder {r : Option State} {f : State → Effect} (hr : ∀ u, r = some u → u.memOk)
    (hf : ∀ s, s.memOk → (f s).state.memOk) (hs : s.memOk) : (afterOrder s r f).state.memOk := by
  cases r with
  | none => exact hs
  | some u => exact hf u (hr u rfl)

theorem memOk_orderGate {k : Nat} {t : Thread} {o : MOrd} {rel : Bool} {sp : Space} {f : State → Effect}
    (hf : ∀ s, s.memOk → (f s).state.memOk) (hs : s.memOk) : (orderGate s k t o rel sp f).state.memOk := by
  unfold orderGate
  dsimp only
  split
  · exact hs
  · refine memOk_afterOrder (fun u => memOk_orderAt hs) (fun s hs => ?_) hs
    refine memOk_afterOrder (fun u => memOk_orderAt hs) (fun s hs => ?_) hs
    refine memOk_afterOrder (fun u => memOk_orderAt hs) (fun s hs => ?_) hs
    grind [Effect.state, memOk_ackGate]

theorem memOk_memGate {k : Nat} {t : Thread} {o : MOrd} {rel : Bool} {sp : Space} {f : State → Thread → Effect}
    (hf : ∀ s t, s.memOk → (f s t).state.memOk) (hs : s.memOk) : (memGate s k t o rel sp f).state.memOk := by
  unfold memGate
  dsimp only
  split
  · exact hs
  · split
    · exact memOk_orderGate (fun s hs => by grind) hs
    · exact memOk_fenceGate (fun s hs => memOk_orderGate (fun s hs => by grind [memOk_setThread]) hs) hs

theorem memOk_shuffle {α : Type} [BEq α] {l : List α} {n : Nat} (hs : s.memOk) : (s.shuffle l n).2.memOk := by
  induction n generalizing s l with
  | zero => exact hs
  | succ n ih =>
    unfold State.shuffle
    split
    · exact hs
    · exact ih (memOk_pick hs ‹_›)

theorem memOk_pendParts {a : Access} {f : State → Access → Nat × State} (hf : ∀ s a, s.memOk → (f s a).2.memOk)
    (hs : s.memOk) : (pendParts s a f).2.memOk := by
  have fold : ∀ (l : List (Nat × Nat)) (r : List Nat × State), r.2.memOk →
      (l.foldl (fun r x =>
        let n := f r.2 (a.slice x.1 x.2)
        (r.1 ++ [n.1], n.2)) r).2.memOk := by
    intro l
    induction l with
    | nil => exact fun _ hr => hr
    | cons x l ih => exact fun r hr => ih _ (hf _ _ hr)
  exact fold _ _ (memOk_shuffle hs)

theorem memOk_loadNow {k : Nat} {f : Fmt} {d : Reg} {shift : Option Bool} {b : List Byte} (hs : s.memOk) :
    (loadNow s k f d shift b).state.memOk := by
  grind [loadNow, Effect.state, memOk_modThread]

theorem memOk_loadLater {k : Nat} {shift : Option Bool} {ids : List Nat} (hs : s.memOk) :
    (loadLater s k shift ids).state.memOk := by
  grind [loadLater, Effect.state, memOk_modThread]

theorem memOk_loadLocal {i : Instr} {sp : Space} {o : MOrd} {f : Fmt} {b d : Reg} {p : PReg} (hs : s.memOk) :
    Out.memOk (loadLocal i sp o f b d p s) := by
  unfold loadLocal
  grind [Effect.state, memOk_memGate, memOk_withWg, memOk_loadNow, memOk_pend, memOk_perThread, memOk_loadLater,
    memOk_pendParts, memOk_setThread]

theorem memOk_storeLocal {i : Instr} {sp : Space} {o : MOrd} {f : Fmt} {b d : Reg} {p : PReg} (hs : s.memOk) :
    Out.memOk (storeLocal i sp o f b d p s) := by
  grind [storeLocal, Effect.state, memOk_memGate, memOk_withWg, memOk_writeLocal, memOk_pend, memOk_perThread,
    memOk_pendParts]

theorem memOk_sendRemote {a : Access} {f : List Nat → State → Effect} (hf : ∀ ids s, s.memOk → (f ids s).state.memOk)
    (hs : s.memOk) : (sendRemote s a f).state.memOk := by
  grind [sendRemote, Effect.state, memOk_pendParts, memOk_pendRemote, memOk_modCore]

theorem memOk_holdDevice {a : Access} {kind : RecKind} (hs : s.memOk) : (holdDevice s a kind).2.memOk := hs

theorem memOk_loadVault {k : Nat} {a : Access} {f : Fmt} {d : Reg} {shift : Option Bool} (hs : s.memOk) :
    (loadVault s k a f d shift).state.memOk := by
  grind [loadVault, Effect.state, L1Try.memOk, memOk_pendRecord, memOk_l1Try, memOk_loadNow, memOk_pend,
    memOk_holdDevice, memOk_loadLater, memOk_pendParts]

theorem memOk_loadAt {k : Nat} {a : Access} {f : Fmt} {d : Reg} {shift : Option Bool} {p : Place} (hs : s.memOk) :
    (loadAt s k a f d shift p).state.memOk := by
  unfold loadAt
  grind [Effect.state, memOk_loadNow, memOk_pend, memOk_loadVault, memOk_loadLater, memOk_pendParts, memOk_sendRemote]

theorem memOk_absentLoad {k va : Nat} {f : Fmt} {d : Reg} (hs : s.memOk) : (absentLoad s k va f d).state.memOk := by
  grind [absentLoad, memOk_modThread, memOk_loadNow]

theorem memOk_execLdG {o : MOrd} {l : Pol} {f : Fmt} {b d : Reg} {n : Bool} {p : PReg} (hs : s.memOk) :
    Out.memOk (execLdG o l f b d n p s) := by
  grind [execLdG, Effect.state, memOk_memGate, memOk_withWg, memOk_resolveG, memOk_loadAt, memOk_perThread,
    memOk_absentLoad]

theorem memOk_storeL1 {a : Access} {l : L1Line} {b : List Byte} (hs : s.memOk) : (storeL1 s a l b).memOk := hs

theorem memOk_writeHome {a : Access} (hs : s.memOk) : (writeHome s a).state.memOk := by
  grind [writeHome, Effect.state, memOk_pendRecord, memOk_pendParts]

theorem memOk_storeVault {a : Access} {b : List Byte} (hs : s.memOk) : (storeVault s a b).state.memOk := by
  grind [storeVault, Effect.state, L1Try.memOk, memOk_writeHome, memOk_l1Try, memOk_pend, memOk_holdDevice,
    memOk_vaultStore, memOk_pendParts, memOk_storeL1]

theorem memOk_storeWindow {a : Access} {off : Nat} {b : List Byte} (hs : s.memOk) :
    (storeWindow s a off b).state.memOk := by
  grind [storeWindow, Effect.state, memOk_pendRecord]

theorem memOk_storeAt {k : Nat} {a : Access} {b : List Byte} {p : Place} (hs : s.memOk) :
    (storeAt s k a b p).state.memOk := by
  unfold storeAt
  grind [Effect.state, memOk_storeVault, memOk_pend, memOk_storeWindow, memOk_devWrite, memOk_sendRemote]

theorem memOk_execStG {o : MOrd} {l : Pol} {f : Fmt} {b d : Reg} {p : PReg} (hs : s.memOk) :
    Out.memOk (execStG o l f b d p s) := by
  grind [execStG, Effect.state, memOk_memGate, memOk_withWg, memOk_resolveG, memOk_perThread, memOk_storeAt]

theorem memOk_execLdb {e a d : Reg} {f : Fmt} {p : PReg} (hs : s.memOk) : Out.memOk (execLdb e a d f p s) := by
  grind [execLdb, Effect.state, memOk_memGate, memOk_withWg, memOk_pend, memOk_perThread, memOk_modBuf,
    memOk_pendParts, memOk_setThread]

theorem memOk_atomLocal {l : Local} {c : AtomOp} {v : List Word} (hs : s.memOk) : (atomLocal s l c v).2.memOk := by
  grind [atomLocal, memOk_writeLocal]

theorem memOk_atomL1 {k : Nat} {a : Access} {c : AtomOp} {d : Reg} {v : List Word} (hs : s.memOk) :
    (atomL1 s k a c d v).state.memOk := by
  grind [atomL1, Effect.state, L1Try.memOk, memOk_modThread, memOk_l1Try, memOk_pend, memOk_setL1, memOk_loadLater,
    memOk_storeL1]

theorem memOk_atomGlobal {k lane : Nat} {t : Thread} {w : Workgroup} {va : Nat} {o : MOrd} {c : AtomOp} {d : Reg}
    {ret : Bool} (hs : s.memOk) : (atomGlobal s k lane t w va o c d ret).state.memOk := by
  grind [atomGlobal, Effect.state, memOk_atomL1, memOk_resolveG, memOk_writeHome, memOk_loadLater, memOk_sendRemote]

theorem memOk_atomic {k lane : Nat} {b d : Reg} {o : MOrd} {sp : Space} {c : AtomOp} {ret : Bool} (hs : s.memOk) :
    (atomic s k lane b d o sp c ret).state.memOk := by
  grind [atomic, Effect.state, memOk_memGate, memOk_withWg, memOk_modThread, memOk_pend, memOk_atomLocal,
    memOk_loadLater, memOk_atomGlobal]

theorem memOk_execAtom {b d : Reg} {o : MOrd} {sp : Space} {c : AtomOp} {p : PReg} (hs : s.memOk) :
    Out.memOk (execAtom b d o sp c p s) := by
  grind [execAtom, memOk_perThread, memOk_atomic]

theorem memOk_execRed {b d : Reg} {o : MOrd} {sp : Space} {c : AtomOp} {p : PReg} (hs : s.memOk) :
    Out.memOk (execRed b d o sp c p s) := by
  grind [execRed, memOk_perThread, memOk_atomic]

theorem memOk_execFence {sc : Scope} {kind : FenceKind} {p : PReg} (hs : s.memOk) :
    Out.memOk (execFence sc kind p s) := by
  grind [execFence, Effect.state, memOk_ackGate, memOk_fenceGate, memOk_withThread, memOk_perThread, memOk_setThread]

theorem memOk_prefetch {core line dom : Nat} {g : PrefTarget} (hs : s.memOk) :
    (prefetch s core line dom g).state.memOk := by
  unfold prefetch
  grind [Effect.state, L1Try.memOk, memOk_l1Try, memOk_homeEnter]

theorem memOk_execPref {a : Reg} {g : PrefTarget} {p : PReg} (hs : s.memOk) : Out.memOk (execPref a g p s) := by
  grind [execPref, Effect.state, memOk_withWg, memOk_resolveG, memOk_prefetch, memOk_perThread]

theorem memOk_openService {kind : ServiceKind} {core wg num : Nat} {waiting : List Nat} (hs : s.memOk) :
    (openService s kind core wg num waiting).2.memOk := hs

theorem memOk_flushLines {k : Nat} {t : Thread} {w : Workgroup} {d : HReg} {lines : List Nat} (hs : s.memOk) :
    (flushLines s k t w d lines).state.memOk := by
  grind [flushLines, Effect.state, memOk_openJob, memOk_modCore, memOk_openService, memOk_instantJob, memOk_pumpFlush]

theorem memOk_homeService {k : Nat} {t : Thread} {w : Workgroup} {d : HReg} {kind : ServiceKind} {line : Nat}
    (hs : s.memOk) : (homeService s k t w d kind line).state.memOk := by
  grind [homeService, Effect.state, memOk_openJob, memOk_openService, memOk_enqueue]

theorem memOk_remoteService {k : Nat} {t : Thread} {w : Workgroup} {d : HReg} {va pa : Nat} (hs : s.memOk) :
    (remoteService s k t w d va pa).state.memOk := by
  grind [remoteService, Effect.state, memOk_openJob, memOk_openService, memOk_sendRemote]

theorem memOk_cctl {k lane : Nat} {a : Reg} {d : HReg} {kind : ServiceKind} (hs : s.memOk) :
    (cctl s k lane a d kind).state.memOk := by
  grind [cctl, Effect.state, memOk_withWg, memOk_flushLines, memOk_homeService, memOk_translate, memOk_remoteService,
    memOk_instantJob]

theorem memOk_execCctlL1evict {a : Reg} {d : HReg} {p : PReg} (hs : s.memOk) :
    Out.memOk (execCctlL1evict a d p s) := by
  grind [execCctlL1evict, memOk_perThread, memOk_cctl]

theorem memOk_execCctlL2clean {a : Reg} {d : HReg} {p : PReg} (hs : s.memOk) :
    Out.memOk (execCctlL2clean a d p s) := by
  grind [execCctlL2clean, memOk_perThread, memOk_cctl]

theorem memOk_execCctlL2evict {a : Reg} {d : HReg} {p : PReg} (hs : s.memOk) :
    Out.memOk (execCctlL2evict a d p s) := by
  grind [execCctlL2evict, memOk_perThread, memOk_cctl]

theorem memOk_execCctlL1flush {d : HReg} {p : PReg} (hs : s.memOk) : Out.memOk (execCctlL1flush d p s) := by
  grind [execCctlL1flush, Effect.state, memOk_withWg, memOk_flushLines, memOk_perThread]

theorem memOk_l1Now {id : Nat} {a : Access} (hs : s.memOk) : (l1Now s id a).memOk := by
  grind [l1Now, L1Try.memOk, memOk_l1Try]

theorem memOk_performDevice {id : Nat} {a : Access} (hs : s.memOk) : (performDevice s id a).memOk := by
  grind [performDevice, memOk_dropAcc, memOk_accResult, memOk_devWrite]

theorem memOk_performAccess {id : Nat} (hs : s.memOk) : (performAccess s id).memOk := by
  grind [performAccess, L1Try.memOk, memOk_l1Now, memOk_dropAcc, memOk_writeLocal, memOk_setL1, memOk_accResult,
    memOk_performDevice, memOk_failAcc, memOk_performOn, memOk_serveHeld]

/-! ### The functions of `Sync` -/

theorem memOk_barSources {k : Nat} {t : Thread} {sp : Space} {f : State → Effect}
    (hf : ∀ s, s.memOk → (f s).state.memOk) (hs : s.memOk) : (barSources s k t sp f).state.memOk := by
  unfold barSources
  split
  · exact hs
  · exact memOk_afterOrder (fun u => memOk_orderAt hs) hf hs

theorem memOk_withBar {k : Nat} {a : Reg} {write rel : Bool} {f : State → Thread → Local → TrapInfo → Bar → Effect}
    (hf : ∀ s t l ti b, s.memOk → (f s t l ti b).state.memOk) (hs : s.memOk) :
    (withBar s k a write rel f).state.memOk := by
  refine memOk_withWg (fun t w => memOk_memGate (fun s t hs => ?_) hs) hs
  grind [Effect.state, memOk_barSources]

theorem memOk_execBarinit {b a : Reg} {p : PReg} (hs : s.memOk) : Out.memOk (execBarinit b a p s) := by
  grind [execBarinit, Effect.state, memOk_storeBar, memOk_perThread, memOk_withBar]

theorem memOk_execBararv {a d : Reg} {p : PReg} (hs : s.memOk) : Out.memOk (execBararv a d p s) := by
  grind [execBararv, Effect.state, memOk_modThread, memOk_storeBar, memOk_perThread, memOk_withBar]

theorem memOk_execBarexp {b a : Reg} {p : PReg} (hs : s.memOk) : Out.memOk (execBarexp b a p s) := by
  grind [execBarexp, Effect.state, memOk_storeBar, memOk_perThread, memOk_withBar]

theorem memOk_execBardrop {a : Reg} {p : PReg} (hs : s.memOk) : Out.memOk (execBardrop a p s) := by
  grind [execBardrop, Effect.state, memOk_storeBar, memOk_perThread, memOk_withBar]

theorem memOk_execBarwait {b a : Reg} {p : PReg} (hs : s.memOk) : Out.memOk (execBarwait b a p s) := by
  grind [execBarwait, Effect.state, memOk_perThread, memOk_setThread, memOk_withBar]

theorem memOk_execBartest {b a : Reg} {d p : PReg} (hs : s.memOk) : Out.memOk (execBartest b a d p s) := by
  grind [execBartest, Effect.state, memOk_perThread, memOk_setThread, memOk_withBar]

theorem memOk_sstepWait {k : Nat} {d : Reg} {phase : Nat} (hs : s.memOk) : (sstepWait s k d phase).state.memOk := by
  grind [sstepWait, Effect.state, memOk_withWg, memOk_setThread]

theorem memOk_execSstep {d : Reg} {p : PReg} (hs : s.memOk) : Out.memOk (execSstep d p s) := by
  grind [execSstep, Effect.state, memOk_ackGate, memOk_withWg, memOk_sstepWait, memOk_perThread, memOk_setThread]

theorem memOk_execPhaseExchange {wg : Nat} (hs : s.memOk) : Out.memOk (execPhaseExchange wg s) := by
  grind [execPhaseExchange, Out.memOk, memOk_modWg]

theorem memOk_execRdv {b a d : Reg} {p : PReg} (hs : s.memOk) : Out.memOk (execRdv b a d p s) := by
  grind [execRdv, Effect.state, memOk_withWg, memOk_modThread, memOk_advance, memOk_perThread, memOk_setThread]

theorem memOk_askPieces {k asid dom pa n : Nat} (hs : s.memOk) : (askPieces s k asid dom pa n).2.memOk := by
  grind [askPieces, memOk_askSend, memOk_shuffle, memOk_foldl]

theorem memOk_askMirror {k mirror pa n : Nat} (hs : s.memOk) : (askMirror s k mirror pa n).2.memOk := by
  grind [askMirror, memOk_pend, memOk_foldl]

theorem memOk_readGlobal {k lane : Nat} {t : Thread} {w : Workgroup} {va n : Nat} (hs : s.memOk) :
    (readGlobal s k lane t w va n).memOk := by
  grind [readGlobal, GlobalRead.memOk, memOk_resolveG, memOk_askMirror, memOk_askPieces]

theorem memOk_appendRecord {q : Nat} {rec : List Byte} (hs : s.memOk) : (appendRecord s q rec).memOk := by
  grind [appendRecord, State.memOk, writeBytes_wf, memOk_modLqueue]

theorem memOk_execLaunch {a d : Reg} {p : PReg} (hs : s.memOk) : Out.memOk (execLaunch a d p s) := by
  unfold execLaunch
  grind [Effect.state, GlobalRead.memOk, memOk_appendRecord, memOk_memGate, memOk_withWg, memOk_modThread,
    memOk_perThread, memOk_readGlobal]

/-! ### The functions of `Shape` -/

theorem memOk_jobGate {k : Nat} {t : Thread} {f : State → Thread → Effect}
    (hf : ∀ s t, s.memOk → (f s t).state.memOk) (hs : s.memOk) : (jobGate s k t f).state.memOk :=
  memOk_memGate (fun s t hs => by grind [Effect.state]) hs

theorem memOk_fillSlot {k n wg : Nat} {b : List Byte} (hs : s.memOk) : (fillSlot s k n wg b).state.memOk := by
  grind [fillSlot, Effect.state, memOk_modCore]

theorem memOk_execTsld {b : BitVec 5} {a : Reg} {q : Space} {p : PReg} (hs : s.memOk) :
    Out.memOk (execTsld b a q p s) := by
  grind [execTsld, Effect.state, GlobalRead.memOk, memOk_memGate, memOk_withWg, memOk_perThread, memOk_fillSlot,
    memOk_readGlobal]

theorem memOk_execTsev {b : BitVec 5} {p : PReg} (hs : s.memOk) : Out.memOk (execTsev b p s) := by
  grind [execTsev, Effect.state, memOk_withThread, memOk_modCore, memOk_perThread]

theorem memOk_execTsq {b : BitVec 5} {a : Reg} {h : HReg} {st : Bool} {p : PReg} (hs : s.memOk) :
    Out.memOk (execTsq b a h st p s) := by
  grind [execTsq, Effect.state, memOk_withThread, memOk_perThread, memOk_setThread]

/-! ### The functions of `CopyEngine` -/

theorem memOk_JobStep_thenDo {x : JobStep} {f : List Byte → State → JobStep} (hx : x.memOk)
    (hf : ∀ b s, s.memOk → (f b s).memOk) : (x.thenDo f).memOk := by
  cases x with
  | ok b u => exact hf b u hx
  | later ask => exact hx
  | wait | fault => trivial

theorem memOk_jobSteps {f : Nat → State → JobStep} {l : List Nat} (hf : ∀ a s, s.memOk → (f a s).memOk)
    (hs : s.memOk) : (jobSteps s f l).memOk := by
  induction l generalizing s with
  | nil => exact hs
  | cons a r ih =>
    exact memOk_JobStep_thenDo (hf a s hs) fun _ _ hs => memOk_JobStep_thenDo (ih hs) fun _ _ hs => hs

theorem memOk_modJob {core entry : Nat} {f : Job → Job} (hs : s.memOk) : (s.modJob core entry f).memOk := hs

theorem memOk_jobResolve {x : JobAt} {va : Nat} {needR needW atomic : Bool} {f : State → Place → Nat → JobStep}
    (hf : ∀ s p pa, s.memOk → (f s p pa).memOk) (hs : s.memOk) : (jobResolve s x va needR needW atomic f).memOk := by
  unfold jobResolve
  dsimp only
  split
  · exact fun u hu => memOk_resolveG hu
  · trivial
  · trivial
  · exact hf _ _ _ (memOk_resolveG hs)

theorem memOk_jobBrought {x : JobAt} {va n : Nat} {f : JobStep} (hf : f.memOk) (hs : s.memOk) :
    (jobBrought s x va n f).memOk := by
  grind [jobBrought, JobStep.memOk]

theorem memOk_jobRecord {x : JobAt} {va a n : Nat} {op : AccessOp} {u : State} (hs : s.memOk)
    (e : jobRecord s x va a n op = some u) : u.memOk := by
  grind [jobRecord, memOk_pendRecord]

theorem memOk_jobReadAt {x : JobAt} {va n : Nat} {write : Bool} {p : Place} (hs : s.memOk) :
    (jobReadAt s x va n write p).memOk := by
  unfold jobReadAt
  grind [JobStep.memOk, memOk_getD, memOk_pendRemote, memOk_jobRecord, memOk_jobBrought]

theorem memOk_jobRead {x : JobAt} {va n m : Nat} (hs : s.memOk) : (jobRead s x va n m).memOk := by
  fun_induction jobRead s x va n m <;> grind [JobStep.memOk, memOk_jobResolve, memOk_JobStep_thenDo, memOk_jobReadAt]

theorem memOk_jobSend {x : JobAt} {va pa n : Nat} {op : AccessOp} (hs : s.memOk) :
    (jobSend s x va pa n op).memOk := by
  grind [jobSend, JobStep.memOk, memOk_modCore, memOk_pendRemote]

theorem memOk_nextRun {g : Gather} {x : Nat × List Byte} {u : State} (hs : s.memOk) (e : nextRun s g = some (x, u)) :
    u.memOk := by
  unfold nextRun at e
  dsimp only at e
  split at e
  · exact memOk_pick hs e
  · obtain ⟨y, -, hy⟩ := Option.map_eq_some_iff.mp e
    cases hy
    exact hs

theorem memOk_setGathered {x : JobAt} {g : Gather} (hs : s.memOk) : (setGathered s x g).memOk := hs

theorem memOk_handOver {old new : Nat} (hs : s.memOk) : (handOver s old new).memOk := hs

theorem memOk_sendRun {x : JobAt} {g : Gather} {o : Nat} {b : List Byte} {u : State} (hs : s.memOk)
    (e : sendRun s x g o b = some u) : u.memOk := by
  grind [sendRun, memOk_pendRecord, memOk_modCore, memOk_pendRemote, memOk_handOver, memOk_modJob, memOk_setGathered]

theorem memOk_sendWindow {x : JobAt} {g : Gather} (hs : s.memOk) : (sendWindow x s g).memOk := by
  grind [sendWindow, memOk_pendRecord, memOk_handOver, memOk_modJob]

theorem memOk_flushLine {x : JobAt} {n : Nat} (hs : s.memOk) : (flushLine s x n).memOk := by
  induction n generalizing s with
  | zero => exact hs
  | succ n ih =>
    unfold flushLine
    split
    · exact hs
    · split
      · exact hs
      · rename_i u e
        obtain ⟨r, hr, hu⟩ := Option.bind_eq_some_iff.mp e
        exact ih (memOk_sendRun (memOk_nextRun hs hr) hu)

theorem memOk_flushJob {core entry : Nat} {j : Job} (hs : s.memOk) : (flushJob s core entry j).memOk := by
  grind [flushJob, memOk_sendWindow, memOk_flushLine, memOk_foldl]

theorem memOk_gatherWindow {x : JobAt} {va pa : Nat} {b : List Byte} (hs : s.memOk) :
    (gatherWindow s x va pa b).memOk := hs

theorem memOk_startLine {x : JobAt} {va pa : Nat} {b : List Byte} (hs : s.memOk) : (startLine s x va pa b).memOk := hs

theorem memOk_gatherBytes {x : JobAt} {va pa : Nat} {b : List Byte} (hs : s.memOk) :
    (gatherBytes s x va pa b).memOk := by
  grind [gatherBytes, JobStep.memOk, memOk_flushLine, memOk_setGathered, memOk_startLine]

theorem memOk_jobHome {x : JobAt} {va a n : Nat} {op : AccessOp} (hs : s.memOk) : (jobHome s x va a n op).memOk := by
  grind [jobHome, JobStep.memOk, memOk_jobRecord]

theorem memOk_jobWriteAt {x : JobAt} {va : Nat} {b : List Byte} {p : Place} (hs : s.memOk) :
    (jobWriteAt s x va b p).memOk := by
  unfold jobWriteAt
  grind [JobStep.memOk, memOk_gatherWindow, memOk_modJob, memOk_gatherBytes, memOk_JobStep_thenDo]

theorem memOk_jobWrite {x : JobAt} {va : Nat} {b : List Byte} {n : Nat} (hs : s.memOk) :
    (jobWrite s x va b n).memOk := by
  fun_induction jobWrite s x va b n <;> grind [JobStep.memOk, memOk_jobWriteAt, memOk_jobResolve, memOk_JobStep_thenDo]

theorem memOk_jobLocal {x : JobAt} {sp : Space} {addr : Nat} {write : Bool} {f : Local → JobStep}
    (hf : ∀ l, (f l).memOk) : (jobLocal s x sp addr write f).memOk := by
  grind [jobLocal, JobStep.memOk]

theorem memOk_readLoc {x : JobAt} {l : Loc} {o n : Nat} (hs : s.memOk) : (readLoc s x l o n).memOk := by
  grind [readLoc, JobStep.memOk, memOk_jobLocal, memOk_jobRead]

theorem memOk_writeLoc {x : JobAt} {l : Loc} {o : Nat} {b : List Byte} (hs : s.memOk) :
    (writeLoc s x l o b).memOk := by
  grind [writeLoc, JobStep.memOk, memOk_jobWrite, memOk_jobLocal, memOk_writeLocal]

theorem memOk_jobRed {x : JobAt} {va : Nat} {c : AtomOp} {v : Word} (hs : s.memOk) : (jobRed s x va c v).memOk := by
  grind [jobRed, JobStep.memOk, memOk_jobSend, memOk_jobResolve, memOk_jobHome]

theorem memOk_readElem {x : JobAt} {size a part n : Nat} (hs : s.memOk) : (readElem s x size a part n).memOk := by
  grind [readElem, JobStep.memOk, memOk_jobRead]

theorem memOk_denseElem {x : JobAt} {sh : Shape} {c : List Int} {j part n : Nat} (hs : s.memOk) :
    (denseElem s x sh c j part n).memOk := by
  grind [denseElem, JobStep.memOk, memOk_readElem]

theorem memOk_denseCode {x : JobAt} {sh : Shape} {c : List Int} {j : Nat} (hs : s.memOk) :
    (denseCode s x sh c j).memOk := by
  grind [denseCode, JobStep.memOk, memOk_jobRead, memOk_JobStep_thenDo]

theorem memOk_sparseElem {x : JobAt} {sh : Shape} {tile : Nat} {mask : List Byte} {j part n : Nat} (hs : s.memOk) :
    (sparseElem s x sh tile mask j part n).memOk := by
  grind [sparseElem, JobStep.memOk, memOk_readElem]

theorem memOk_sparseCode {x : JobAt} {sh : Shape} {tile : Nat} {mask : List Byte} {j : Nat} (hs : s.memOk) :
    (sparseCode s x sh tile mask j).memOk := by
  grind [sparseCode, JobStep.memOk, memOk_jobRead, memOk_JobStep_thenDo]

theorem memOk_boxPart {sh : Shape} {o n : Nat} {elem : Nat → Nat → Nat → State → JobStep} {code : Nat → State → JobStep}
    (he : ∀ i o n s, s.memOk → (elem i o n s).memOk) (hc : ∀ j s, s.memOk → (code j s).memOk) (hs : s.memOk) :
    (boxPart s sh o n elem code).memOk := by
  unfold boxPart
  split
  · exact memOk_JobStep_thenDo (memOk_jobSteps hc hs) fun _ _ hs => hs
  · split
    · exact he _ _ _ _ hs
    · exact memOk_jobSteps (fun _ _ hs => he _ _ _ _ hs) hs

theorem memOk_boxBytes {x : JobAt} {sh : Shape} {c : List Int} {o n : Nat} (hs : s.memOk) :
    (boxBytes s x sh c o n).memOk := by
  grind [boxBytes, JobStep.memOk, memOk_sparseCode, memOk_sparseElem, memOk_jobRead, memOk_denseElem, memOk_denseCode,
    memOk_boxPart, memOk_JobStep_thenDo]

theorem memOk_writeCode {x : JobAt} {a i : Nat} {v : Byte} (hs : s.memOk) : (writeCode s x a i v).memOk := by
  grind [writeCode, memOk_jobWriteAt, memOk_jobResolve, memOk_JobStep_thenDo, memOk_jobHome, memOk_jobReadAt]

theorem memOk_writeCodes {x : JobAt} {l : List (Nat × Nat × Byte)} (hs : s.memOk) : (writeCodes s x l).memOk := by
  fun_induction writeCodes s x l <;> grind [JobStep.memOk, memOk_jobWrite, memOk_writeCode, memOk_JobStep_thenDo]

theorem memOk_writeBox {x : JobAt} {sh : Shape} {c : List Int} {o : Nat} {b : List Byte} (hs : s.memOk) :
    (writeBox s x sh c o b).memOk := by
  grind [writeBox, JobStep.memOk, memOk_jobWrite, memOk_writeCodes, memOk_jobSteps]

theorem memOk_pieceStep {x : JobAt} {i : Nat} (hs : s.memOk) : (pieceStep s x i).memOk := by
  grind [pieceStep, JobStep.memOk, memOk_readLoc, memOk_jobRed, memOk_writeLoc, memOk_boxBytes, memOk_writeBox,
    memOk_jobSteps, memOk_JobStep_thenDo]

theorem memOk_runPiece {core entry : Nat} {j : Job} (hs : s.memOk) : (runPiece s core entry j).memOk := by
  grind [runPiece, JobStep.memOk, memOk_forget, memOk_pieceStep, memOk_modCore, memOk_modJob, memOk_flushJob]

theorem memOk_flushEnded {core : Nat} (hs : s.memOk) : (flushEnded s core).memOk := by
  grind [flushEnded, memOk_flushJob, memOk_foldl]

theorem memOk_engineTurns {core n : Nat} (hs : s.memOk) : (engineTurns s core n).memOk := by
  fun_induction engineTurns s core n <;> grind [memOk_runPiece]

theorem memOk_execCopyEngineCycle {core : Nat} (hs : s.memOk) : Out.memOk (execCopyEngineCycle core s) := by
  grind [execCopyEngineCycle, memOk_flushEnded, memOk_engineTurns, memOk_whenCan]

theorem memOk_countJob {j : Job} {n : Nat} (hs : s.memOk) : (countJob s j n).1.memOk := by
  grind [countJob, memOk_countBytes]

theorem memOk_execBarrierByteCount {core entry count : Nat} (hs : s.memOk) :
    Out.memOk (execBarrierByteCount core entry count s) := by
  grind [execBarrierByteCount, Out.memOk, memOk_countJob, memOk_modJob]

theorem memOk_endEntry {core : Nat} {j : Job} {st : JobStatus} (hs : s.memOk) : (endEntry s core j st).memOk := by
  grind [endEntry, memOk_modBuf]

theorem memOk_endMove {core entry : Nat} {j : Job} (hs : s.memOk) : (endMove s core entry j).memOk := by
  grind [endMove, memOk_forget, memOk_closeJob, memOk_countJob, memOk_addFlag, memOk_endEntry]

theorem memOk_endArm {core entry : Nat} {j : Job} {n : Nat} {st : JobStatus} {trap : Option TrapInfo} (hs : s.memOk) :
    (endArm s core entry j n st trap).memOk := by
  grind [endArm, State.memOk, memOk_closeJob, memOk_countJob]

theorem memOk_cancelPage {h : Nat × Nat} (hs : s.memOk) : (cancelPage s h).memOk := by
  grind [cancelPage, State.memOk, memOk_closeHandle]

theorem memOk_execJobCompletion {core entry : Nat} (hs : s.memOk) : Out.memOk (execJobCompletion core entry s) := by
  grind [execJobCompletion, Out.memOk, memOk_cancelPage, memOk_endMove, memOk_endArm, memOk_whenCan]

theorem memOk_execJobDrainTimeout {group : Nat} (hs : s.memOk) : Out.memOk (execJobDrainTimeout group s) := by
  grind [execJobDrainTimeout, State.memOk, Out.memOk, memOk_whenCan]

/-! ### The functions of `Copy` -/

theorem memOk_issueJob {k : Nat} {t : Thread} {w : Workgroup} {h : HReg} {sync addr : Nat} {j : Job}
    {f : State → State} (hf : ∀ s, s.memOk → (f s).memOk) (hs : s.memOk) :
    (issueJob s k t w h sync addr j f).state.memOk := by
  grind [issueJob, Effect.state, memOk_openJob]

theorem memOk_copyPlain {k : Nat} {t : Thread} {w : Workgroup} {a : Reg} {h : HReg} {sc : Scope} (hs : s.memOk) :
    (copyPlain s k t w a h sc).state.memOk := by
  grind [copyPlain, Effect.state, memOk_issueJob]

theorem memOk_execCpy {a : Reg} {h : HReg} {sc : Scope} {p : PReg} (hs : s.memOk) :
    Out.memOk (execCpy a h sc p s) := by
  grind [execCpy, Effect.state, memOk_jobGate, memOk_withWg, memOk_copyPlain, memOk_perThread]

theorem memOk_copyBox {k : Nat} {t : Thread} {w : Workgroup} {kind : BoxKind} {e a : Reg} {h : HReg} {sc : Scope}
    {c : CopyCtl} (hs : s.memOk) : (copyBox s k t w kind e a h sc c).state.memOk := by
  grind (splits := 40) [copyBox, Effect.state, memOk_modBuf, memOk_issueJob]

theorem memOk_shapeCopy {i : Instr} {kind : BoxKind} {e a : Reg} {h : HReg} {sc : Scope} {p : PReg} (hs : s.memOk) :
    Out.memOk (shapeCopy i kind e a h sc p s) := by
  grind [shapeCopy, Effect.state, memOk_copyBox, memOk_jobGate, memOk_withWg, memOk_perThread]

theorem memOk_watchParts {tr : State → Nat → Translated × State} {va n m : Nat}
    (htr : ∀ s va, s.memOk → (tr s va).2.memOk) (hs : s.memOk) : (watchParts tr s va n m).2.memOk := by
  induction m generalizing s va n with
  | zero => exact hs
  | succ m ih => grind [watchParts]

theorem memOk_snd {α : Type} {p : α × State} {a : α} {u : State} (hp : p.2.memOk) (e : p = (a, u)) : u.memOk := by
  rwa [e] at hp

theorem memOk_issueArm {k lane : Nat} {t : Thread} {w : Workgroup} {h : HReg} {sc : Scope} {x : Card} (hs : s.memOk) :
    (issueArm s k lane t w h sc x).state.memOk := by
  have parts : ∀ {b : Prop} [Decidable b] {tr va n m y}, (∀ s a, s.memOk → (tr s a).2.memOk) →
      (if b then watchParts tr s va n m else (y, s)).2.memOk := by
    intro b _ tr va n m y htr
    split
    · exact memOk_watchParts htr hs
    · exact hs
  unfold issueArm
  dsimp only
  split
  · rename_i u e
    exact memOk_snd (parts fun _ _ hs => memOk_translate hs) e
  · rename_i u e
    have hu : u.memOk := memOk_snd (parts fun _ _ hs => memOk_translate hs) e
    clear e parts
    split
    · exact hu
    · split
      · exact hu
      · rename_i v e
        have hv : v.memOk := memOk_openJob hu e
        grind [State.memOk, Effect.state, memOk_endArm, memOk_closeJob]

theorem memOk_issueCard {k lane : Nat} {t : Thread} {w : Workgroup} {h : HReg} {sc : Scope} {x : Card}
    (hs : s.memOk) : (issueCard s k lane t w h sc x).state.memOk := by
  grind [issueCard, Effect.state, memOk_issueArm, memOk_issueJob]

theorem memOk_execJob {a : Reg} {h : HReg} {sc : Scope} {p : PReg} (hs : s.memOk) :
    Out.memOk (execJob a h sc p s) := by
  unfold execJob
  grind [Effect.state, memOk_jobGate, memOk_withWg, memOk_issueCard, memOk_perThread]

theorem memOk_execBufq {b a : Reg} {p : PReg} (hs : s.memOk) : Out.memOk (execBufq b a p s) := by
  grind [execBufq, Effect.state, memOk_withThread, memOk_perThread, memOk_setThread]

theorem memOk_execBufrel {b : Reg} {p : PReg} (hs : s.memOk) : Out.memOk (execBufrel b p s) := by
  grind [execBufrel, Effect.state, memOk_withThread, memOk_perThread, memOk_modBuf]

/-! ### The functions of `Uniform` -/

theorem memOk_rdS {w : Workgroup} {lins : List Nat} {r : Reg} (hs : s.memOk) : (rdS s w lins r).2.memOk :=
  memOk_pickOr hs

theorem memOk_wrS {wg : Nat} {lins : List Nat} {r : Reg} {v : Word} (hs : s.memOk) : (wrS s wg lins r v).memOk := by
  grind [wrS, memOk_modWg]

theorem memOk_oncePerTroupe {i : Instr} {p : PReg} {f : Nat → Workgroup → List (Nat × Thread) → State → State}
    (hf : ∀ k w ms s, s.memOk → (f k w ms s).memOk) (hs : s.memOk) : Out.memOk (oncePerTroupe i p f s) := by
  unfold oncePerTroupe
  dsimp only
  split
  · exact hs
  · split
    · exact hs
    · refine memOk_raiseTraps (memOk_foldl (fun s x hs => memOk_advance hs) ?_)
      split
      · exact hf _ _ _ _ hs
      · exact hs

theorem memOk_uniform2 {i : Instr} {p : PReg} {a b d : Reg} {f : Word → Word → Word} (hs : s.memOk) :
    Out.memOk (uniform2 i p a b d f s) := by
  grind [uniform2, memOk_rdS, memOk_wrS, memOk_oncePerTroupe]

theorem memOk_uniform1 {i : Instr} {p : PReg} {a d : Reg} {f : Word → Word} (hs : s.memOk) :
    Out.memOk (uniform1 i p a d f s) := by
  grind [uniform1, memOk_rdS, memOk_wrS, memOk_oncePerTroupe]

theorem memOk_execUAndn {b a d : Reg} {p : PReg} (hs : s.memOk) : Out.memOk (execUAndn b a d p s) := by
  grind [execUAndn, memOk_uniform2]

theorem memOk_execUMov {a d : Reg} {p : PReg} (hs : s.memOk) : Out.memOk (execUMov a d p s) := by
  grind [execUMov, memOk_uniform1]

theorem memOk_execUsel {b a d : Reg} {q : PReg} (hs : s.memOk) : Out.memOk (execUsel b a d q s) := by
  grind [execUsel, memOk_rdS, memOk_wrS, memOk_oncePerTroupe]

theorem memOk_execULea {b a d : Reg} {p : PReg} (hs : s.memOk) : Out.memOk (execULea b a d p s) := by
  grind [execULea, memOk_rdS, memOk_wrS, memOk_oncePerTroupe]

theorem memOk_execS2g {a d : Reg} {p : PReg} (hs : s.memOk) : Out.memOk (execS2g a d p s) := by
  grind [execS2g, Effect.state, memOk_rdS, memOk_perThread, memOk_setThread]

theorem memOk_execG2s {a d : Reg} {p : PReg} (hs : s.memOk) : Out.memOk (execG2s a d p s) := by
  grind [execG2s, memOk_wrS, memOk_pick, memOk_oncePerTroupe]

/-! ### The functions of `Matrix` -/

theorem memOk_modEngine {core : Nat} {f : Engine → Engine} (hs : s.memOk) : (s.modEngine core f).memOk := hs

theorem memOk_execMrsv {d p : PReg} (hs : s.memOk) : Out.memOk (execMrsv d p s) := by
  grind [execMrsv, Effect.state, memOk_withThread, memOk_modEngine, memOk_perThread, memOk_setThread]

theorem memOk_execMrel {p : PReg} (hs : s.memOk) : Out.memOk (execMrel p s) := by
  grind [execMrel, Effect.state, memOk_withThread, memOk_modEngine, memOk_perThread]

theorem memOk_addItem {core : Nat} {x : Nat → Item} {f : State → State} (hf : ∀ s, s.memOk → (f s).memOk)
    (hs : s.memOk) : (addItem s core x f).state.memOk := by
  grind [addItem, Effect.state, memOk_fresh, memOk_modEngine]

theorem memOk_execMzero {whole : Bool} {n : PReg} {d : HReg} {p : PReg} (hs : s.memOk) :
    Out.memOk (execMzero whole n d p s) := by
  grind [execMzero, Effect.state, memOk_withWg, memOk_addItem, memOk_perThread]

theorem memOk_operandLine {k lane : Nat} {t : Thread} {w : Workgroup} {sp : Space} {a : Nat} {write : Bool}
    (hs : s.memOk) : (operandLine s k lane t w sp a write).memOk := by
  grind [operandLine, Lines.memOk, memOk_resolveG]

theorem memOk_operandLines {k lane : Nat} {t : Thread} {w : Workgroup} {sp : Space} {a : Nat} {write : Bool}
    {n : Nat} (hs : s.memOk) : (operandLines s k lane t w sp a write n).memOk := by
  fun_induction operandLines s k lane t w sp a write n <;> grind [Lines.memOk, memOk_operandLine]

theorem memOk_acceptMma {k : Nat} {t : Thread} {w : Workgroup} {kind : MmaKind} {bsel : Bool} {key : Nat × Nat}
    {b : List Operand} {m : Member} (hs : s.memOk) : (acceptMma s k t w kind bsel key b m).state.memOk := by
  grind [acceptMma, Effect.state, memOk_modThread, memOk_modEngine, memOk_addItem]

theorem memOk_mma {i : Instr} {kind : MmaKind} {b a : Reg} {bsel : Bool} {band : PReg} {acc : HReg} {p : PReg}
    (hs : s.memOk) : Out.memOk (mma i kind b a bsel band acc p s) := by
  grind (splits := 40) (gen := 20) (ematch := 20) [mma, Effect.state, Lines.memOk, memOk_jobGate, memOk_withWg,
    memOk_rdS, memOk_perThread, memOk_operandLines, memOk_acceptMma]

theorem memOk_bandMove {i : Instr} {kind : ItemKind} {f : MstFmt} {a : Reg} {band : PReg} {acc : HReg} {p : PReg}
    (hs : s.memOk) : Out.memOk (bandMove i kind f a band acc p s) := by
  grind (splits := 40) (gen := 20) (ematch := 20) [bandMove, Effect.state, Lines.memOk, memOk_jobGate, memOk_withWg,
    memOk_modThread, memOk_addItem, memOk_perThread, memOk_operandLines]

theorem memOk_execMstat {n d : Reg} {p : PReg} (hs : s.memOk) : Out.memOk (execMstat n d p s) := by
  grind [execMstat, Effect.state, memOk_withWg, memOk_perThread, memOk_setThread]

theorem memOk_execPassCloseTimeout {core : Nat} (hs : s.memOk) : Out.memOk (execPassCloseTimeout core s) := by
  grind [execPassCloseTimeout, memOk_modEngine, memOk_whenCan]

theorem memOk_pinLine {line : Nat} {x} {u : State} (hs : s.memOk) (e : pinLine s line = some (x, u)) : u.memOk := by
  grind [pinLine, memOk_setEntry]

theorem memOk_stageLine {core : Nat} {x : Item} {o : Operand} {y : Staged} {u : State} (hs : s.memOk)
    (e : stageLine s core x o = some (y, u)) : u.memOk := by
  cases o with
  | scratch | wafer | window => grind [stageLine]
  | remote pa va =>
    obtain ⟨z, -, hz⟩ := Option.map_eq_some_iff.mp e
    grind
  | vault a va =>
    unfold stageLine at e
    dsimp only at e
    split at e
    · grind
    · split at e
      case h_1 => cases e
      case h_2 hh => grind [memOk_homeRead]
      case h_3 hh =>
        obtain ⟨r, hr, hu⟩ := Option.map_eq_some_iff.mp e
        cases hu
        exact memOk_pinLine (memOk_homeRead hs hh) hr

theorem memOk_stageLines {core : Nat} {x : Item} {l : List Operand} {y : Staged} {u : State} (hs : s.memOk)
    (e : stageLines s core x l = some (y, u)) : u.memOk := by
  induction l generalizing s y u with
  | nil => grind [stageLines]
  | cons o r ih => grind [stageLines, memOk_stageLine, Option.map_eq_some_iff]

theorem memOk_stageMembers {core : Nat} {x : Item} {l : List Member} {y : List Member} {pins : List Nat} {u : State}
    (hs : s.memOk) (e : stageMembers s core x l = some (y, pins, u)) : u.memOk := by
  induction l generalizing s y pins u with
  | nil => grind [stageMembers]
  | cons m r ih => grind [stageMembers, memOk_stageLines, Option.map_eq_some_iff]

theorem memOk_askLine {core : Nat} {x : Item} {o : Operand} (hs : s.memOk) : (askLine core x s o).memOk := by
  unfold askLine
  grind [memOk_pendRecord, memOk_modEngine, memOk_pendRemote]

theorem memOk_stagePass {core : Nat} {x : Item} {u : State} (hs : s.memOk) (e : stagePass s core x = some u) :
    u.memOk := by
  unfold stagePass at e
  dsimp only at e
  split at e
  · cases e
    exact memOk_foldl (fun _ _ hs => memOk_askLine hs) hs
  · split at e
    case h_1 => cases e
    case h_2 hb =>
      split at e
      case h_1 => cases e
      case h_2 hm =>
        cases e
        exact memOk_modEngine (memOk_stageMembers (memOk_stageLines hs hb) hm)

theorem memOk_execTileFetchStaged {core : Nat} (hs : s.memOk) : Out.memOk (execTileFetchStaged core s) := by
  grind [execTileFetchStaged, Out.memOk, memOk_getD, memOk_stagePass, memOk_whenCan]

theorem memOk_countMatrix {core n amount : Nat} (hs : s.memOk) : (countMatrix s core n amount).memOk := by
  grind [countMatrix, memOk_modWg]

theorem memOk_chargeBubble {core : Nat} {g : Governor} (hs : s.memOk) : (chargeBubble s core g).memOk := by
  unfold chargeBubble
  grind [memOk_lifeAdd, memOk_countMatrix, memOk_modColumn, memOk_modRegion]

theorem memOk_startPass {core : Nat} {x : Item} (hs : s.memOk) : (startPass s core x).memOk := by
  grind [startPass, memOk_countMatrix, memOk_modCore, memOk_modEngine, memOk_modColumn, memOk_modRegion]

theorem memOk_execPassStartTest {core : Nat} (hs : s.memOk) : Out.memOk (execPassStartTest core s) := by
  grind [execPassStartTest, Out.memOk, memOk_chargeBubble, memOk_modEngine, memOk_startPass, memOk_whenCan]

theorem memOk_flagDone {wg k flag : Nat} {pc : DWord} {bad : Option TrapInfo} (hs : s.memOk) :
    (flagDone s wg k flag pc bad).memOk := by
  unfold flagDone
  grind [memOk_modThread]

theorem memOk_finishPass {core : Nat} {x : Item} (hs : s.memOk) : (finishPass s core x).memOk := by
  grind [finishPass, memOk_unpin, memOk_countMatrix, memOk_modEngine, memOk_flagDone, memOk_foldl]

theorem memOk_execPassCompletion {core : Nat} (hs : s.memOk) : Out.memOk (execPassCompletion core s) := by
  grind [execPassCompletion, Out.memOk, memOk_finishPass, memOk_whenCan]

theorem memOk_memWrite128 {o : Operand} {b : List Byte} (hs : s.memOk) : (memWrite128 s o b).memOk := by
  unfold memWrite128
  grind [memOk_writeLocal]

theorem memOk_performItem {core : Nat} {x : Item} (hs : s.memOk) : (performItem s core x).memOk := by
  grind [performItem, memOk_modEngine, memOk_memWrite128, memOk_foldl]

theorem memOk_execEngineItemCompletion {core : Nat} (hs : s.memOk) : Out.memOk (execEngineItemCompletion core s) := by
  grind [execEngineItemCompletion, Out.memOk, memOk_modEngine, memOk_performItem, memOk_flagDone, memOk_whenCan]

theorem memOk_execEngineClearComplete {core : Nat} (hs : s.memOk) : Out.memOk (execEngineClearComplete core s) := by
  grind [execEngineClearComplete, memOk_modEngine, memOk_whenCan]

/-! ### The functions of `CoreEvents` -/

theorem memOk_trapHere {k : Nat} {ti : TrapInfo} {at_ : Option Resume} {pc : DWord} (hs : s.memOk) :
    (trapHere s k ti at_ pc).memOk := by
  grind [trapHere, memOk_raiseTraps, memOk_setThread]

theorem memOk_execCountedOperationCompletion {core slot index : Nat} (hs : s.memOk) :
    Out.memOk (execCountedOperationCompletion core slot index s) := by
  unfold execCountedOperationCompletion
  dsimp only
  split
  · exact hs
  · split
    · exact hs
    · refine memOk_whenCan ?_ hs
      split
      · refine memOk_trapHere ?_
        grind [memOk_modBuf, memOk_setThread]
      · grind [memOk_modBuf, memOk_setThread]

theorem memOk_execAgeRuleWin {core slot : Nat} (hs : s.memOk) : Out.memOk (execAgeRuleWin core slot s) := by
  grind [execAgeRuleWin, Out.memOk, memOk_modCore, memOk_whenCan]

theorem memOk_remapLane {core row : Nat} (hs : s.memOk) : (remapLane s core row).memOk := by
  grind [remapLane, memOk_setCore]

theorem memOk_execLaneRemap {core row : Nat} (hs : s.memOk) : Out.memOk (execLaneRemap core row s) := by
  grind [execLaneRemap, memOk_remapLane, memOk_whenCan]

theorem memOk_releaseHold {wg : Nat} {m : DWord} (hs : s.memOk) : (releaseHold s wg m).memOk := by
  grind [releaseHold, memOk_setThread, memOk_foldl]

theorem memOk_execMeetHoldRelease {wg : Nat} {m : DWord} (hs : s.memOk) : Out.memOk (execMeetHoldRelease wg m s) := by
  grind [execMeetHoldRelease, memOk_whenCan, memOk_releaseHold]

theorem memOk_execMholdExpiry {wg : Nat} {m : DWord} (hs : s.memOk) : Out.memOk (execMholdExpiry wg m s) := by
  grind [execMholdExpiry, Out.memOk, memOk_modCore, memOk_modWg, memOk_whenCan, memOk_releaseHold]

theorem memOk_execBackoffExpiry {core slot : Nat} (hs : s.memOk) : Out.memOk (execBackoffExpiry core slot s) := by
  grind [execBackoffExpiry, Out.memOk, memOk_setThread, memOk_whenCan]

theorem memOk_execYieldWaitExpiry {core slot : Nat} (hs : s.memOk) : Out.memOk (execYieldWaitExpiry core slot s) := by
  grind [execYieldWaitExpiry, Out.memOk, memOk_setThread, memOk_whenCan]

theorem memOk_execWatchdog {core slot : Nat} (hs : s.memOk) : Out.memOk (execWatchdog core slot s) := by
  grind [execWatchdog, Out.memOk, memOk_raiseTraps, memOk_whenCan]

theorem memOk_lowerAcks {core : Nat} (hs : s.memOk) : (lowerAcks s core).memOk := hs

theorem memOk_giveLine {core item pa : Nat} {b : List Byte} (hs : s.memOk) : (giveLine s core item pa b).memOk := hs

theorem memOk_ackAccess {id : Nat} {a : Access} {b : List Byte} (hs : s.memOk) : (ackAccess s id a b).memOk := by
  grind [ackAccess, memOk_dropAcc, memOk_giveLine, memOk_accResult, memOk_lowerAcks, memOk_endService]

theorem memOk_execRemoteAck {id : Nat} {value : List Byte} (hs : s.memOk) : Out.memOk (execRemoteAck id value s) := by
  grind [execRemoteAck, Out.memOk, memOk_ackAccess, memOk_whenCan]

theorem memOk_expireAccess {id : Nat} {a : Access} (hs : s.memOk) : (expireAccess s id a).memOk := by
  grind [expireAccess, memOk_dropAcc, memOk_modThread, memOk_giveLine, memOk_modJob, memOk_giveReply, memOk_lowerAcks,
    memOk_withFlight, memOk_endService]

theorem memOk_execRemoteTimeout {id : Nat} (hs : s.memOk) : Out.memOk (execRemoteTimeout id s) := by
  grind [execRemoteTimeout, Out.memOk, memOk_expireAccess, memOk_whenCan]

/-! ### The functions of `Handles` -/

theorem memOk_withHandle {k : Nat} {h : HReg} {null : Thread → Effect}
    {f : Thread → Workgroup → Nat → JobNum → Effect} (hn : ∀ t, (null t).state.memOk)
    (hf : ∀ t w n x, (f t w n x).state.memOk) (hs : s.memOk) : (withHandle s k h null f).state.memOk :=
  memOk_withWg (fun t w => by grind [Effect.state]) hs

theorem memOk_execWaith {a : Reg} {h : HReg} {p : PReg} (hs : s.memOk) : Out.memOk (execWaith a h p s) := by
  grind [execWaith, Effect.state, memOk_withHandle, memOk_perThread, memOk_modWg, memOk_setThread]

theorem memOk_execTesth {b : PReg} {h : HReg} {c : HCond} {p : PReg} (hs : s.memOk) :
    Out.memOk (execTesth b h c p s) := by
  grind [execTesth, Effect.state, memOk_withHandle, memOk_perThread, memOk_setThread]

theorem memOk_cancelJob {core wg num : Nat} (hs : s.memOk) : (cancelJob s core wg num).memOk := by
  grind [cancelJob, memOk_cancelPage, memOk_modJob]

theorem memOk_execCancel {h : HReg} {p : PReg} (hs : s.memOk) : Out.memOk (execCancel h p s) :=
  memOk_perThread (fun _ _ _ hs => memOk_withHandle (fun _ => hs) (fun _ _ _ _ => memOk_cancelJob hs) hs) hs

theorem memOk_execHsave {a : Reg} {h : HReg} {sp : Space} {p : PReg} (hs : s.memOk) :
    Out.memOk (execHsave a h sp p s) := by
  grind [execHsave, Effect.state, memOk_memGate, memOk_withWg, memOk_resolveG, memOk_writeLocal, memOk_pend,
    memOk_perThread, memOk_storeAt]

theorem memOk_restoreHandle {k : Nat} {t : Thread} {h : HReg} {b : List Byte} (hs : s.memOk) :
    (restoreHandle s k t h b).state.memOk := by
  grind [restoreHandle, Effect.state, memOk_modThread]

theorem memOk_execHrest {a : Reg} {h : HReg} {sp : Space} {p : PReg} (hs : s.memOk) :
    Out.memOk (execHrest a h sp p s) := by
  grind [execHrest, Effect.state, GlobalRead.memOk, memOk_memGate, memOk_withWg, memOk_perThread, memOk_readGlobal,
    memOk_restoreHandle]

/-! ### The functions of `HostIf` -/

theorem memOk_hostVaultWrite {who : Asker} {pa : Nat} {b : List Byte} (hs : s.memOk) :
    (hostVaultWrite s who pa b).2.memOk := by
  grind [hostVaultWrite, memOk_askWrite]

theorem memOk_hostVaultRead {who : Asker} {pa n : Nat} (hs : s.memOk) : (hostVaultRead s who pa n).2.memOk := by
  grind [hostVaultRead, memOk_askRead]

theorem memOk_hostWaferWrite {off : Nat} {b : List Byte} (hs : s.memOk) : (hostWaferWrite s off b).2.memOk := by
  grind [hostWaferWrite, State.memOk, writeBytes_wf]

theorem memOk_hostDeviceWrite {pa : Nat} {b : List Byte} (hs : s.memOk) : (hostDeviceWrite s pa b).2.memOk := by
  grind [hostDeviceWrite, memOk_devWrite]

theorem memOk_hostPerform {r : HostReq} (hs : s.memOk) : (hostPerform s r).2.memOk := by
  grind [hostPerform, memOk_hostVaultRead, memOk_hostWaferWrite, memOk_hostDeviceWrite, memOk_hostVaultWrite]

theorem memOk_hostAnswer {r : HostReq} {x : Except (Cause × Nat) (List Byte)} (hs : s.memOk) :
    (hostAnswer s r x).memOk := by
  unfold hostAnswer
  grind [memOk_modLink, memOk_forget]

theorem memOk_takeHost {r : HostReq} (hs : s.memOk) : (takeHost s r).memOk := by
  grind [takeHost, State.memOk, memOk_hostPerform, memOk_hostAnswer]

theorem memOk_pumpHost (hs : s.memOk) : (pumpHost s).memOk := by
  grind [pumpHost, State.memOk, memOk_takeHost, memOk_foldl]

theorem memOk_execHostWrite {link : Nat} {target : HostTarget} {addr : Nat} {data : List Byte} (hs : s.memOk) :
    Out.memOk (execHostWrite link target addr data s) := by
  grind [execHostWrite, memOk_takeHost, memOk_whenCan]

theorem memOk_execHostRead {link : Nat} {target : HostTarget} {addr size : Nat} (hs : s.memOk) :
    Out.memOk (execHostRead link target addr size s) := by
  grind [execHostRead, memOk_takeHost, memOk_whenCan]

theorem memOk_execHostLinkDown {link : Nat} (hs : s.memOk) : Out.memOk (execHostLinkDown link s) := hs

/-! ### The functions of `Save` -/

theorem memOk_startThreads {wg : Nat} {w : Workgroup} {entry : DWord} (hs : s.memOk) :
    (startThreads s wg w entry).memOk := by
  grind [startThreads, memOk_setThread, memOk_foldl]

theorem memOk_beginSave {launch group : Nat} (hs : s.memOk) : (beginSave s launch group).memOk := by
  grind [beginSave, memOk_startThreads, memOk_setWg, memOk_modRun, memOk_modLaunch, memOk_foldl]

theorem memOk_poolWrite {at_ n : Nat} (hs : s.memOk) : (poolWrite s at_ n).memOk := by
  grind [poolWrite, State.memOk, writeBytes_wf]

theorem memOk_saveWg {g : Nat} (hs : s.memOk) : (saveWg s g).memOk := by
  unfold saveWg
  split
  · exact hs
  · have place : ∀ (o : Option Nat) n, (o.elim s fun a => poolWrite s a n).memOk := by
      intro o n
      cases o with
      | none => exact hs
      | some a => exact memOk_poolWrite hs
    dsimp only
    refine memOk_setWg ?_
    split
    · exact memOk_foldl (fun _ _ hs => memOk_forget hs) (memOk_unpin (place _ _))
    · exact memOk_foldl (fun _ _ hs => memOk_forget hs) (place _ _)

theorem memOk_execContextSaveComplete {group : Nat} (hs : s.memOk) : Out.memOk (execContextSaveComplete group s) := by
  grind [execContextSaveComplete, Out.memOk, memOk_saveWg, memOk_modLaunch, memOk_whenCan, memOk_foldl]

theorem memOk_restoreWg {g core : Nat} (hs : s.memOk) : (restoreWg s g core).memOk := by
  grind [restoreWg, memOk_setWg, memOk_modCore, memOk_setThread, memOk_foldl]

theorem memOk_moveWindows {launch group core : Nat} (hs : s.memOk) : (moveWindows s launch group core).memOk := hs

theorem memOk_restoreOn {go : State → Option State} (hg : ∀ s u, s.memOk → go s = some u → u.memOk)
    {l : List (Nat × Workgroup)} {set : List Nat} {u : State} (hs : s.memOk) (e : restoreOn go set s l = some u) :
    u.memOk := by
  induction l generalizing set s with
  | nil => exact hg s u hs e
  | cons m r ih =>
    obtain ⟨c, -, hc⟩ := List.exists_of_findSome?_eq_some e
    grind [memOk_restoreWg]

theorem memOk_resumeGroups {l : Launch} {launch : Nat} {groups : List Nat} {u : State} (hs : s.memOk)
    (e : resumeGroups l launch groups s = some u) : u.memOk := by
  induction groups generalizing s u with
  | nil =>
    cases e
    exact hs
  | cons g rest ih =>
    unfold resumeGroups at e
    dsimp only at e
    split at e
    · cases e
    · obtain ⟨cl, -, hcl⟩ := List.exists_of_findSome?_eq_some e
      exact memOk_restoreOn (fun s u hs e => ih (memOk_modLaunch (memOk_moveWindows hs)) e) hs hcl

theorem memOk_vacateCore {core : Nat} (hs : s.memOk) : (vacateCore s core).memOk := by
  grind [vacateCore, memOk_beginSave, memOk_foldl]

theorem memOk_execLaneFailure {core row lane : Nat} (hs : s.memOk) : Out.memOk (execLaneFailure core row lane s) := by
  grind [execLaneFailure, State.memOk, Out.memOk, memOk_vacateCore, memOk_setCore, memOk_notify]

/-! ### The functions of `LaunchUnit` -/

theorem memOk_UnitStep_thenDo {α β : Type} {x : UnitStep α} {f : α → State → UnitStep β} (hx : x.memOk)
    (hf : ∀ a s, s.memOk → (f a s).memOk) : (x.thenDo f).memOk := by
  cases x with
  | ok a u => exact hf a u hx
  | busy u => exact hx
  | bad => trivial

theorem memOk_unitTranslate {who : Asker} {b : Binding} {va : Nat} {needR needW : Bool} (hs : s.memOk) :
    (unitTranslate s who b va needR needW).2.memOk := by
  grind [unitTranslate, memOk_translate]

theorem memOk_unitPlace {who : Asker} {b : Binding} {va n : Nat} {write : Bool} (hs : s.memOk) :
    (unitPlace s who b va n write).memOk := by
  grind [unitPlace, UnitStep.memOk, memOk_unitTranslate]

theorem memOk_unitReadLine {b : Binding} {va n : Nat} (hs : s.memOk) : (unitReadLine s b va n).memOk := by
  grind [unitReadLine, UnitStep.memOk, memOk_UnitStep_thenDo, memOk_askRead, memOk_unitPlace]

theorem memOk_unitRead {b : Binding} {va n m : Nat} (hs : s.memOk) : (unitRead s b va n m).memOk := by
  fun_induction unitRead s b va n m <;> grind [UnitStep.memOk, memOk_UnitStep_thenDo, memOk_unitReadLine]

theorem memOk_recordPlace {who : Asker} {b : Binding} {completion : Nat} (hs : s.memOk) :
    (recordPlace s who b completion).memOk := by
  grind [recordPlace, UnitStep.memOk, memOk_UnitStep_thenDo, memOk_unitPlace]

theorem memOk_recordBytes {who : Asker} {b : Binding} {pa : Nat} {d : List Byte} (hs : s.memOk) :
    (recordBytes s who b pa d).memOk := by
  grind [recordBytes, UnitStep.memOk, memOk_askWrite]

theorem memOk_recordEnd {who : Asker} {x : UnitStep Unit} (hx : x.memOk) (hs : s.memOk) :
    (recordEnd s who x).memOk := by
  cases x with
  | ok _ u => exact memOk_forget hx
  | busy u => exact hx
  | bad => exact memOk_forget (memOk_modLaunch hs)

theorem memOk_finalRecord {who : Asker} {b : Binding} {completion : Nat} {d : List Byte} (hs : s.memOk) :
    (finalRecord s who b completion d).memOk := by
  grind [finalRecord, memOk_recordPlace, memOk_UnitStep_thenDo, memOk_recordBytes, memOk_recordEnd]

theorem memOk_plainRecord {who : Asker} {b : Binding} {completion o : Nat} {d : List Byte} (hs : s.memOk) :
    (plainRecord s who b completion o d).memOk := by
  grind [plainRecord, UnitStep.memOk, memOk_recordPlace, memOk_UnitStep_thenDo, memOk_recordEnd, memOk_postWrite]

theorem memOk_armChunks {launch : Nat} {x : Binding} {b : List Byte} {i n : Nat} (hs : s.memOk) :
    (armChunks s launch x b i n).memOk := by
  fun_induction armChunks s launch x b i n <;> grind [State.memOk, UnitStep.memOk, memOk_watchParts,
    memOk_unitTranslate]

theorem memOk_unitNamed {x : Binding} {va align n : Nat} (hs : s.memOk) : (unitNamed s x va align n).memOk := by
  grind [unitNamed, UnitStep.memOk, memOk_unitRead]

theorem memOk_readTable {x : Binding} {va : Nat} (hs : s.memOk) : (readTable s x va).memOk := by
  grind [readTable, UnitStep.memOk, memOk_unitNamed, memOk_UnitStep_thenDo]

theorem memOk_passRecord {q : Nat} (hs : s.memOk) : (passRecord s q).memOk := hs

theorem memOk_notifyLaunch {q completion : Nat} (hs : s.memOk) : (notifyLaunch s q completion).memOk := hs

theorem memOk_refuseRecord {q : Nat} {rec : List Byte} {x : Binding} {c : Refused} (hs : s.memOk) :
    (refuseRecord s q rec x c).memOk := by
  grind [refuseRecord, UnitStep.memOk, memOk_notifyLaunch, memOk_forget, memOk_finalRecord, memOk_passRecord]

theorem memOk_takeRecord {q : Nat} {rec : List Byte} (hs : s.memOk) : (takeRecord s q rec).memOk := by
  grind [takeRecord, State.memOk, UnitStep.memOk, memOk_unitNamed, memOk_UnitStep_thenDo, memOk_armChunks,
    memOk_forget, memOk_refuseRecord, memOk_passRecord, memOk_modLaunch, memOk_readTable]

theorem memOk_execLaunchRecordTake {queue : Nat} (hs : s.memOk) : Out.memOk (execLaunchRecordTake queue s) := by
  grind [execLaunchRecordTake, Out.memOk, memOk_takeRecord, memOk_modLaunch]

theorem memOk_placeWg {launch n core : Nat} (hs : s.memOk) : (placeWg s launch n core).memOk := by
  grind [placeWg, memOk_setWg, memOk_modRun, memOk_modLaunch]

theorem memOk_placeOn {launch : Nat} {l : Launch} {group : Nat} {cores : List Nat} (hs : s.memOk) :
    (placeOn s launch l group cores).memOk := by
  grind [placeOn, memOk_placeWg, memOk_modLaunch, memOk_foldl]

theorem memOk_placeGroup {launch group : Nat} {l : Launch} {set : List Nat} {u : State} (hs : s.memOk)
    (e : (placeGroup s launch l group set).1 = some u) : u.memOk := by
  obtain ⟨cores, -, rfl⟩ := Option.map_eq_some_iff.mp e
  exact memOk_placeOn hs

/-- A search gives nothing that no choice gives. -/
theorem searchCores_some {α : Type} {go : List Nat → Option α} {chosen l : List Nat} {n : Nat} {x : α}
    (e : searchCores go chosen l n = some x) : ∃ cores, go cores = some x := by
  induction l generalizing chosen n with
  | nil => cases n with
    | zero => exact ⟨_, e⟩
    | succ n => cases e
  | cons c r ih => cases n with
    | zero => exact ⟨_, e⟩
    | succ n =>
      rw [searchCores] at e
      cases h : searchCores go (c :: chosen) r n with
      | none =>
        rw [h] at e
        exact ih e
      | some y =>
        rw [h] at e
        exact ih (h.trans e)

theorem memOk_placeAll {launch : Nat} {l : Launch} {groups : List Nat} {u : State} (hs : s.memOk)
    (e : placeAll launch l groups s = some u) : u.memOk := by
  induction groups generalizing s with
  | nil =>
    cases e
    exact hs
  | cons g r ih =>
    unfold placeAll at e
    dsimp only at e
    split at e
    · cases e
    · obtain ⟨cl, -, hcl⟩ := List.exists_of_findSome?_eq_some e
      split at hcl
      · obtain ⟨cores, hc⟩ := searchCores_some hcl
        exact ih (memOk_placeOn hs) hc
      · cases hcl

theorem memOk_tryPlace {launch : Nat} {l : Launch} {group : Nat} {u : State} (hs : s.memOk)
    (e : (tryPlace s launch l group).1 = some u) : u.memOk := by
  grind [tryPlace, memOk_placeAll, memOk_placeGroup]

theorem memOk_withoutVictims {vs : List Victim} (hs : s.memOk) : (withoutVictims s vs).memOk := hs

theorem memOk_blockGroup {launch : Nat} {l : Launch} {group : Nat} (hs : s.memOk) :
    (blockGroup s launch l group).memOk := by
  grind [blockGroup, memOk_modRun, memOk_modLaunch, memOk_beginSave, memOk_foldl]

theorem memOk_execWorkgroupPlacement {launch : Nat} (hs : s.memOk) : Out.memOk (execWorkgroupPlacement launch s) := by
  unfold execWorkgroupPlacement
  grind [Out.memOk, memOk_tryPlace, memOk_modRun, memOk_blockGroup, memOk_modLaunch]

theorem memOk_firstDispatch {launch : Nat} (hs : s.memOk) : (firstDispatch s launch).memOk := by
  grind [firstDispatch, memOk_modRun]

theorem memOk_pumpRecord {launch : Nat} (hs : s.memOk) : (pumpRecord s launch).memOk := by
  grind [pumpRecord, UnitStep.memOk, memOk_modRun, memOk_plainRecord]

theorem memOk_pumpRecords (hs : s.memOk) : (pumpRecords s).memOk := by
  grind [pumpRecords, memOk_pumpRecord, memOk_foldl]

theorem memOk_execWorkgroupStart {workgroup : Nat} (hs : s.memOk) : Out.memOk (execWorkgroupStart workgroup s) := by
  grind [execWorkgroupStart, Out.memOk, memOk_startThreads, memOk_setWg, memOk_pumpRecord, memOk_firstDispatch]

theorem memOk_execGroupResume {group : Nat} (hs : s.memOk) : Out.memOk (execGroupResume group s) := by
  unfold execGroupResume
  grind [Out.memOk, memOk_pumpRecord, memOk_resumeGroups, memOk_firstDispatch]

theorem memOk_raiseFaults {g n : Nat} (hs : s.memOk) : (raiseFaults s g n).memOk := by
  fun_induction raiseFaults s g n <;> grind [memOk_setWg, memOk_killUnit]

theorem memOk_fireCollective {g : Nat} {w : Workgroup} {b : List Byte} {u : State} (hs : s.memOk)
    (e : fireCollective s g w b = some u) : u.memOk := by
  grind [fireCollective, State.memOk, memOk_setWg, memOk_modCore]

theorem memOk_dropWg {g : Nat} {w : Workgroup} (hs : s.memOk) : (dropWg s g w).memOk := by
  grind [dropWg, State.memOk, memOk_setWg]

theorem memOk_releaseWg {g : Nat} {w : Workgroup} (hs : s.memOk) : (releaseWg s g w).memOk := by
  grind [releaseWg, memOk_modCore, memOk_modRun, memOk_dropWg, memOk_modLaunch]

theorem memOk_execWorkgroupExit {workgroup : Nat} (hs : s.memOk) : Out.memOk (execWorkgroupExit workgroup s) := by
  unfold execWorkgroupExit
  grind [Out.memOk, memOk_getD, memOk_pumpRecord, memOk_releaseWg, memOk_raiseFaults, memOk_fireCollective]

theorem memOk_execLaunchEnd {launch : Nat} (hs : s.memOk) : Out.memOk (execLaunchEnd launch s) := by
  grind [execLaunchEnd, Out.memOk, UnitStep.memOk, memOk_notifyLaunch, memOk_finalRecord, memOk_modLaunch]

/-! ### The functions of `Remote` -/

theorem memOk_rxAdvance {m core line : Nat} (hs : s.memOk) : (rxAdvance s m core line).memOk := hs

theorem memOk_remotePerform {r : RemoteReq} {op : AccessOp} (hs : s.memOk) : (remotePerform s r op).memOk := by
  grind [remotePerform, memOk_pendRecord, memOk_pend, memOk_holdDevice, memOk_vaultPerform]

theorem memOk_remoteClean {r : RemoteReq} {kind : ServiceKind} (hs : s.memOk) : (remoteClean s r kind).memOk := hs

theorem memOk_remoteWrite {r : RemoteReq} {op : AccessOp} (hs : s.memOk) : (remoteWrite s r op).memOk := by
  grind [remoteWrite, memOk_giveReply, memOk_remotePerform]

theorem memOk_applyRemote {r : RemoteReq} (hs : s.memOk) : (applyRemote s r).memOk := by
  grind [applyRemote, memOk_remoteWrite, memOk_remoteClean, memOk_remotePerform]

theorem memOk_rxApply {r : RemoteReq} (hs : s.memOk) : (rxApply s r).memOk := by
  grind [rxApply, State.memOk, memOk_applyRemote, memOk_rxAdvance]

theorem memOk_rxDrain {n : Nat} (hs : s.memOk) : (rxDrain s n).memOk := by
  fun_induction rxDrain s n <;> grind [memOk_rxApply]

theorem memOk_execRemoteRequest {r : RemoteReq} (hs : s.memOk) : Out.memOk (execRemoteRequest r s) := by
  grind [execRemoteRequest, State.memOk, Out.memOk, memOk_rxDrain, memOk_rxApply]

/-! ### The functions of `Sys` -/

theorem memOk_execYield {p : PReg} (hs : s.memOk) : Out.memOk (execYield p s) := by
  grind [execYield, memOk_onThread]

theorem memOk_execExit {p : PReg} (hs : s.memOk) : Out.memOk (execExit p s) := by
  grind [execExit, Effect.state, memOk_withThread, memOk_endThread, memOk_perThread, memOk_dropDeferred]

theorem memOk_execTrap {n : Reg} {p : PReg} (hs : s.memOk) : Out.memOk (execTrap n p s) := by
  grind [execTrap, Effect.state, memOk_perThread]

theorem memOk_tret {k : Nat} {f : Thread → Effect} (hf : ∀ t, (f t).state.memOk) (hs : s.memOk) :
    (tret s k f).state.memOk :=
  memOk_withWg (fun t w => by grind [Effect.state]) hs

theorem memOk_leaveHandler {k : Nat} {t : Thread} {skip : Bool} (hs : s.memOk) : (leaveHandler s k t skip).memOk := by
  grind [leaveHandler, memOk_resumeAt, memOk_setThread, memOk_goHeader]

theorem memOk_execTretRetry {p : PReg} (hs : s.memOk) : Out.memOk (execTretRetry p s) := by
  grind [execTretRetry, Effect.state, memOk_tret, memOk_perThread, memOk_leaveHandler]

theorem memOk_execTretSkip {p : PReg} (hs : s.memOk) : Out.memOk (execTretSkip p s) := by
  grind [execTretSkip, Effect.state, memOk_tret, memOk_perThread, memOk_leaveHandler]

theorem memOk_execTretJmp {a : Reg} {p : PReg} (hs : s.memOk) : Out.memOk (execTretJmp a p s) := by
  grind [execTretJmp, Effect.state, memOk_tret, memOk_perThread, memOk_setThread]

theorem memOk_execHalt {p : PReg} (hs : s.memOk) : Out.memOk (execHalt p s) := by
  grind [execHalt, Effect.state, memOk_withWg, memOk_modCore, memOk_perThread, memOk_notify, memOk_setThread]

theorem memOk_execSread {a d : Reg} {p : PReg} (hs : s.memOk) : Out.memOk (execSread a d p s) := by
  grind [execSread, Effect.state, memOk_modField, memOk_withWg, memOk_perThread, memOk_modWg, memOk_setThread]

theorem memOk_execCrrd {a d : Reg} {p : PReg} (hs : s.memOk) : Out.memOk (execCrrd a d p s) := by
  grind [execCrrd, Effect.state, memOk_withWg, memOk_perThread, memOk_setThread]

theorem memOk_execCrwr {a d : Reg} {p : PReg} (hs : s.memOk) : Out.memOk (execCrwr a d p s) := by
  grind [execCrwr, Effect.state, memOk_withWg, memOk_perThread, memOk_modWg]

theorem memOk_remapInLatch {core : Nat} (hs : s.memOk) : (remapInLatch s core).2.memOk := memOk_pickOr hs

theorem memOk_latches {core taken n : Nat} (hs : s.memOk) : (latches s core taken n).1.memOk := by
  fun_induction latches s core taken n <;> grind [memOk_remapLane, memOk_remapInLatch]

theorem memOk_execSnapc {a d : Reg} {p : PReg} (hs : s.memOk) : Out.memOk (execSnapc a d p s) := by
  grind [execSnapc, Effect.state, memOk_memGate, memOk_withWg, memOk_modThread, memOk_writeLocal, memOk_pend,
    memOk_latches, memOk_perThread, memOk_pendParts]

/-! ### The functions of `Dispatch` -/

theorem memOk_exec {i : Instr} (hs : s.memOk) : Out.memOk (exec i s) := by
  cases i with
  | clauseHeader => exact memOk_execClauseHeader hs
  | immx => exact memOk_execImmx hs
  | nop16 | mov16 | add16 | sub16 | mul16 | and16 | or16 | xor16 | shl16 | shr16 | sar16 | min16 | max16 | fadd16
  | fmul16 | fmax16 | fmin16 | nop | add | sub | mul | mulh | mulhn | and | or | xor | andn | shl | shr | sar |
    rot | min | max | minn | maxn | abs | neg | clz | popc | brev | sel | mov | lea | mad | bfe | bfi | cmp | cmpn |
    fcmp | addi | andi | ori | xori | shli | shri | sari | movi | cmpi | pand | por | pxor | pnot | pmov | p2g | g2p
  | mand | mor | mpop | mtst | fadd | fsub | fmul | fmin | fmax | fabs | fneg | ffma | fflr | fceil | frnd | ftrc
  | randSeed | randDraw | cvt | hadd2 | hmul2 | hfma2 | hmax2 | hmin2 | badd2 | bmul2 | bfma2 | qmax | qscl |
    qpack | qunpk | idp4 | meetClr | movh => exact memOk_onThread hs
  | yield => exact memOk_execYield hs
  | exit => exact memOk_execExit hs
  | trap => exact memOk_execTrap hs
  | tretRetry => exact memOk_execTretRetry hs
  | tretSkip => exact memOk_execTretSkip hs
  | tretJmp => exact memOk_execTretJmp hs
  | halt => exact memOk_execHalt hs
  | snapc => exact memOk_execSnapc hs
  | sread => exact memOk_execSread hs
  | crrd => exact memOk_execCrrd hs
  | crwr => exact memOk_execCrwr hs
  | sweep => exact memOk_execSweep hs
  | tlbi => exact memOk_execTlbi hs
  | pgreq => exact memOk_execPgreq hs
  | pgqry => exact memOk_execPgqry hs
  | cctlL1evict => exact memOk_execCctlL1evict hs
  | cctlL2clean => exact memOk_execCctlL2clean hs
  | cctlL2evict => exact memOk_execCctlL2evict hs
  | cctlL1flush => exact memOk_execCctlL1flush hs
  | div | rem | divn | remn | fdiv | fsqrt | frcp | frsq | fexp2 | flog2 | fsin | fcos | ftanh =>
    exact memOk_onThreadCounted hs
  | uAdd | uSub | uMul | uMulh | uMulhn | uAnd | uOr | uXor | uShl | uShr | uSar | uRot | uMin | uMax | uMinn |
    uMaxn => exact memOk_uniform2 hs
  | uAndn => exact memOk_execUAndn hs
  | uAbs | uNeg | uClz | uPopc | uBrev => exact memOk_uniform1 hs
  | usel => exact memOk_execUsel hs
  | uMov => exact memOk_execUMov hs
  | uLea => exact memOk_execULea hs
  | s2g => exact memOk_execS2g hs
  | g2s => exact memOk_execG2s hs
  | bra => exact memOk_execBra hs
  | braU => exact memOk_execBraU hs
  | call => exact memOk_execCall hs
  | jmpr => exact memOk_execJmpr hs
  | callr => exact memOk_execCallr hs
  | ret => exact memOk_execRet hs
  | meet => exact memOk_execMeet hs
  | ldP | ldS | ldC | ldW => exact memOk_loadLocal hs
  | ldG => exact memOk_execLdG hs
  | stP | stS | stC | stW => exact memOk_storeLocal hs
  | stG => exact memOk_execStG hs
  | ldb => exact memOk_execLdb hs
  | atom => exact memOk_execAtom hs
  | red => exact memOk_execRed hs
  | fence => exact memOk_execFence hs
  | pref => exact memOk_execPref hs
  | tsld => exact memOk_execTsld hs
  | tsev => exact memOk_execTsev hs
  | tsq => exact memOk_execTsq hs
  | cpy => exact memOk_execCpy hs
  | cpyt | cpys | cpyo | cpyr => exact memOk_shapeCopy hs
  | job => exact memOk_execJob hs
  | waith => exact memOk_execWaith hs
  | testh => exact memOk_execTesth hs
  | cancel => exact memOk_execCancel hs
  | hsave => exact memOk_execHsave hs
  | hrest => exact memOk_execHrest hs
  | bufq => exact memOk_execBufq hs
  | bufrel => exact memOk_execBufrel hs
  | barinit => exact memOk_execBarinit hs
  | bararv => exact memOk_execBararv hs
  | barexp => exact memOk_execBarexp hs
  | barwait => exact memOk_execBarwait hs
  | bartest => exact memOk_execBartest hs
  | bardrop => exact memOk_execBardrop hs
  | sstep => exact memOk_execSstep hs
  | rdv => exact memOk_execRdv hs
  | launch => exact memOk_execLaunch hs
  | mrsv => exact memOk_execMrsv hs
  | mrel => exact memOk_execMrel hs
  | mzero => exact memOk_execMzero hs
  | mstat => exact memOk_execMstat hs
  | mmaHBf16 | mmaHF16 | mmaQE4m3 | mmaQE5m2 | mmaNRb4 | mmaNI8 => exact memOk_mma hs
  | mld | mst => exact memOk_bandMove hs
  | countedOperationCompletion => exact memOk_execCountedOperationCompletion hs
  | ageRuleWin => exact memOk_execAgeRuleWin hs
  | laneFailure => exact memOk_execLaneFailure hs
  | laneRemap => exact memOk_execLaneRemap hs
  | patrolScrub => exact memOk_execPatrolScrub hs
  | vaultRemapGo => exact memOk_execVaultRemapGo hs
  | remapStepCompletion => exact memOk_execRemapStepCompletion hs
  | heldRequestRelease => exact memOk_execHeldRequestRelease hs
  | vaultTempSample => exact memOk_execVaultTempSample hs
  | vaultFloor => exact memOk_execVaultFloor hs
  | prqRecordWrite => exact memOk_execPrqRecordWrite hs
  | prqRespDone => exact memOk_execPrqRespDone hs
  | prqRespDenied => exact memOk_execPrqRespDenied hs
  | pageRequestEngine => exact memOk_execPageRequestEngine hs
  | sweepCompletion => exact memOk_execSweepCompletion hs
  | xinvGo => exact memOk_execXinvGo hs
  | xinvDone => exact memOk_execXinvDone hs
  | carouselSlot => exact memOk_execCarouselSlot hs
  | gets => exact memOk_execGets hs
  | getm => exact memOk_execGetm hs
  | upg => exact memOk_execUpg hs
  | putm => exact memOk_execPutm hs
  | puts => exact memOk_execPuts hs
  | bypr => exact memOk_execBypr hs
  | bypw => exact memOk_execBypw hs
  | inv => exact memOk_execInv hs
  | tlbiRecord => exact memOk_execTlbiRecord hs
  | sweepRecord => exact memOk_execSweepRecord hs
  | badrec => exact memOk_execBadrec hs
  | windowData => exact memOk_execWindowData hs
  | supplyArrival => exact memOk_execSupplyArrival hs
  | ownerNotice => exact memOk_execOwnerNotice hs
  | writebackArrival => exact memOk_execWritebackArrival hs
  | l2Fill => exact memOk_execL2Fill hs
  | dedupClr => exact memOk_execDedupClr hs
  | hdKey3 => exact memOk_execHdKey3 hs
  | remoteRequest => exact memOk_execRemoteRequest hs
  | remoteAck => exact memOk_execRemoteAck hs
  | remoteTimeout => exact memOk_execRemoteTimeout hs
  | copyEngineCycle => exact memOk_execCopyEngineCycle hs
  | jobCompletion => exact memOk_execJobCompletion hs
  | barrierByteCount => exact memOk_execBarrierByteCount hs
  | jobDrainTimeout => exact memOk_execJobDrainTimeout hs
  | passCloseTimeout => exact memOk_execPassCloseTimeout hs
  | tileFetchStaged => exact memOk_execTileFetchStaged hs
  | passStartTest => exact memOk_execPassStartTest hs
  | passCompletion => exact memOk_execPassCompletion hs
  | engineItemCompletion => exact memOk_execEngineItemCompletion hs
  | engineClearComplete => exact memOk_execEngineClearComplete hs
  | heatRefill => exact memOk_execHeatRefill hs
  | currentLimitStep => exact memOk_execCurrentLimitStep hs
  | curlimStep => exact memOk_execCurlimStep hs
  | droopAlarm => exact memOk_execDroopAlarm hs
  | droopExpiry => exact memOk_execDroopExpiry hs
  | meetHoldRelease => exact memOk_execMeetHoldRelease hs
  | mholdExpiry => exact memOk_execMholdExpiry hs
  | phaseExchange => exact memOk_execPhaseExchange hs
  | thrClr => exact memOk_execThrClr hs
  | launchRecordTake => exact memOk_execLaunchRecordTake hs
  | workgroupPlacement => exact memOk_execWorkgroupPlacement hs
  | workgroupStart => exact memOk_execWorkgroupStart hs
  | contextSaveComplete => exact memOk_execContextSaveComplete hs
  | groupResume => exact memOk_execGroupResume hs
  | workgroupExit => exact memOk_execWorkgroupExit hs
  | launchEnd => exact memOk_execLaunchEnd hs
  | backoffExpiry => exact memOk_execBackoffExpiry hs
  | watchdog => exact memOk_execWatchdog hs
  | lifetimeRecord => exact memOk_execLifetimeRecord hs
  | lifetimeRecordComplete => exact memOk_execLifetimeRecordComplete hs
  | beacon => exact memOk_execBeacon hs
  | beaconLoss => exact memOk_execBeaconLoss hs
  | claim => exact memOk_execClaim hs
  | bid => exact memOk_execBid hs
  | claimRecord => exact memOk_execClaimRecord hs
  | masterTakeover => exact memOk_execMasterTakeover hs
  | newMasterBeacon => exact memOk_execNewMasterBeacon hs
  | rmForce => exact memOk_execRmForce hs
  | driftCheck => exact memOk_execDriftCheck hs
  | stallNotice => exact memOk_execStallNotice hs
  | ptpSync => exact memOk_execPtpSync hs
  | clockSourceLoss => exact memOk_execClockSourceLoss hs
  | clockSwitchComplete => exact memOk_execClockSwitchComplete hs
  | ringSweepEnd => exact memOk_execRingSweepEnd hs
  | ringLock => exact memOk_execRingLock hs
  | ringLockLoss => exact memOk_execRingLockLoss hs
  | ringRetune => exact memOk_execRingRetune hs
  | ringMask => exact memOk_execRingMask hs
  | ringUnmask => exact memOk_execRingUnmask hs
  | xbar => exact memOk_execXbar hs
  | frameCrcFailure => exact memOk_execFrameCrcFailure hs
  | carouselReplay => exact memOk_execCarouselReplay hs
  | codewordReplay => exact memOk_execCodewordReplay hs
  | laneFailover => exact memOk_execLaneFailover hs
  | hostWrite => exact memOk_execHostWrite hs
  | hostRead => exact memOk_execHostRead hs
  | hostLinkDown => exact memOk_execHostLinkDown hs
  | hwPageRetirement => exact memOk_execHwPageRetirement hs
  | powerGood => exact memOk_execPowerGood hs
  | powerLoss => exact memOk_execPowerLoss
  | loaderGo => exact memOk_execLoaderGo hs
  | loaderComplete => exact memOk_execLoaderComplete hs
  | loadUnmark => exact memOk_execLoadUnmark hs
  | quoteGo => exact memOk_execQuoteGo hs
  | quoteComplete => exact memOk_execQuoteComplete hs
  | registerWrite => exact memOk_execRegisterWrite hs
  | clockSourceReturn => exact memOk_execClockSourceReturn hs
  | yieldWaitExpiry => exact memOk_execYieldWaitExpiry hs
  | laserAgeReport => exact memOk_execLaserAgeReport hs
  | vaultWritePerformed => exact memOk_execVaultWritePerformed hs

/-! ### The functions of `Issue` -/

theorem memOk_enterHold {k : Nat} (hs : s.memOk) : (enterHold s k).memOk := by
  grind [enterHold, memOk_modCore, memOk_setThread]

theorem memOk_fetchHeader {core slot : Nat} {acc : HeaderFetch} (ha : acc.state.memOk) :
    (fetchHeader core acc slot).state.memOk := by
  grind [fetchHeader, memOk_fetchFor, memOk_holdThread]

theorem memOk_fetchHeaders {core : Nat} {l : List Nat} {acc : HeaderFetch} (ha : acc.state.memOk) :
    (l.foldl (fetchHeader core) acc).state.memOk := by
  induction l generalizing acc with
  | nil => exact ha
  | cons x r ih => exact ih (memOk_fetchHeader ha)

theorem memOk_illegalAll {core : Nat} {slots : List Nat} {code : List Byte} (hs : s.memOk) :
    (illegalAll s core slots code).memOk := by
  grind [illegalAll, memOk_raiseTraps]

theorem memOk_issueHeader {core : Nat} {slots : List Nat} (hs : s.memOk) : Out.memOk (issueHeader core slots s) := by
  have held : (slots.foldl (fun s x => enterHold s (tkey core x)) s).memOk :=
    memOk_foldl (fun _ _ hs => memOk_enterHold hs) hs
  have fetched := fun l => memOk_fetchHeaders (core := core) (l := l) (acc := ⟨[], [], _⟩) held
  unfold issueHeader
  dsimp only
  split
  · exact memOk_raiseTraps (fetched _)
  · split
    · exact fetched _
    · split
      · exact memOk_exec (fetched _)
      · exact memOk_illegalAll (fetched _)

theorem memOk_refetchMember {core slot : Nat} {acc : State × List Raised} (ha : acc.1.memOk) :
    (refetchMember core acc slot).1.memOk := by
  grind [refetchMember, memOk_fetchFor, memOk_setThread, memOk_holdThread]

theorem memOk_refetchMembers {core : Nat} {l : List Nat} {acc : State × List Raised} (ha : acc.1.memOk) :
    (l.foldl (refetchMember core) acc).1.memOk := by
  induction l generalizing acc with
  | nil => exact ha
  | cons x r ih => exact ih (memOk_refetchMember ha)

theorem memOk_issueBody {core : Nat} {slots : List Nat} {c : Clause} {pc : DWord} (hs : s.memOk) :
    Out.memOk (issueBody core slots c pc s) := by
  grind [issueBody, State.memOk, Out.memOk, memOk_illegalAll, memOk_exec]

theorem memOk_countIssue {core : Nat} {slots : List Nat} {once : Bool} (hs : s.memOk) :
    (countIssue core slots once s).memOk := by
  grind [countIssue, memOk_modCore]

theorem memOk_andThen {o : Out} {f : State → State} (ho : Out.memOk o) (hf : ∀ s, s.memOk → (f s).memOk) :
    Out.memOk (andThen o f) := by
  cases o with
  | next u => exact hf u ho
  | fault | refused => trivial

theorem memOk_formTroupe {core : Nat} {slots : List Nat} (hs : s.memOk) : (formTroupe core slots s).memOk := by
  grind [formTroupe, State.memOk, memOk_fresh]

theorem memOk_rowIssued {core : Nat} {slots : List Nat} (hs : s.memOk) : (rowIssued core slots s).memOk := by
  grind [rowIssued, State.memOk, memOk_modCore]

theorem memOk_dropReplies {core : Nat} {slots : List Nat} (hs : s.memOk) : (dropReplies core slots s).memOk := by
  grind [dropReplies, memOk_forget, memOk_modThread, memOk_foldl]

theorem memOk_issue {core : Nat} {slots : List Nat} (hs : s.memOk) : Out.memOk (issue core slots s) := by
  unfold issue
  split
  · trivial
  · have formed : (formTroupe core slots (dropReplies core slots s)).memOk := memOk_formTroupe (memOk_dropReplies hs)
    dsimp only
    split
    · exact memOk_andThen (memOk_issueHeader formed) fun _ hs => memOk_rowIssued hs
    · split
      · exact memOk_raiseTraps (memOk_refetchMembers formed)
      · exact memOk_andThen (memOk_issueBody formed) fun _ hs => memOk_rowIssued (memOk_countIssue hs)

theorem memOk_takeCycle {core : Nat} (hs : s.memOk) : (takeCycle s core).memOk := hs

theorem memOk_issueAll {core : Nat} {l : List (List Nat)} (hs : s.memOk) : Out.memOk (issueAll core l s) := by
  fun_induction issueAll core l s <;> grind [Out.memOk, memOk_issue]

theorem memOk_leaveTraps {l : List Raised} (hs : s.memOk) : (leaveTraps l s).memOk := hs

theorem memOk_takeGathered {core : Nat} (hs : s.memOk) : (takeGathered core s).memOk := by
  grind [takeGathered, memOk_leaveTraps, memOk_takeTraps]

theorem memOk_issueTurn {core : Nat} {troupes : List (List Nat)} (hs : s.memOk) :
    Out.memOk (issueTurn core troupes s) := by
  unfold issueTurn
  grind [State.memOk, memOk_issue, memOk_andThen, memOk_issueAll, memOk_takeGathered, memOk_takeCycle]

theorem memOk_agentTurn {f : State → Out} (hf : ∀ s, s.memOk → Out.memOk (f s)) (hs : s.memOk) :
    Out.memOk (agentTurn f s) :=
  memOk_andThen (hf _ hs) fun _ hu => memOk_leaveTraps hu

theorem memOk_pastTraps {old : State} (hs : s.memOk) : (pastTraps old s).memOk := by
  grind [pastTraps, memOk_leaveTraps, memOk_takeTraps]

theorem memOk_noteReady (hs : s.memOk) : (noteReady s).memOk := hs

theorem memOk_lapseWins (hs : s.memOk) : (lapseWins s).memOk := hs

theorem memOk_releaseMeets (hs : s.memOk) : (releaseMeets s).memOk := by
  grind [releaseMeets, memOk_outState, memOk_execMeetHoldRelease, memOk_foldl]

theorem memOk_expireMeets (hs : s.memOk) : (expireMeets s).memOk := by
  grind [expireMeets, memOk_execMholdExpiry, memOk_outState, memOk_foldl]

theorem memOk_dueStarts (hs : s.memOk) : (dueStarts s).memOk := by
  grind [dueStarts, memOk_outState, memOk_execWorkgroupStart, memOk_foldl]

theorem memOk_noteDrain (hs : s.memOk) : (noteDrain s).memOk := hs

theorem memOk_afterTurn (hs : s.memOk) : (afterTurn s).memOk := by
  grind [afterTurn, State.memOk, memOk_noteDrain, memOk_dueStarts, memOk_pumpHost, memOk_noteReady, memOk_lapseWins,
    memOk_pumpRecords, memOk_releaseMeets]

theorem memOk_performTurn {id : Nat} (hs : s.memOk) : (performTurn s id).memOk := by
  grind [performTurn, memOk_performAccess]

theorem memOk_flawCopy {vault copy : Nat} (hs : s.memOk) : (flawCopy s vault copy).memOk := hs

theorem memOk_dueTests (hs : s.memOk) : (dueTests s).memOk := by
  grind [dueTests, memOk_execPassStartTest, memOk_outState, memOk_foldl]

theorem memOk_passTime {n : Nat} (hs : s.memOk) : (passTime n s).memOk := by
  fun_induction passTime n s <;> grind [State.memOk, memOk_dueStarts, memOk_boundaries, memOk_dueTests]

theorem memOk_turnStart {dt : Nat} {late : Bool} (hs : s.memOk) : (turnStart dt late s).memOk := by
  grind [turnStart, State.memOk, memOk_expireMeets, memOk_pastTraps, memOk_passTime, memOk_releaseMeets]

theorem memOk_runTurn {t : Turn} (hs : s.memOk) : Out.memOk (runTurn t s) := by
  grind [runTurn, Out.memOk, memOk_modPort, memOk_modLink, memOk_killLaunch, memOk_agentTurn, memOk_modEntry,
    memOk_afterTurn, memOk_performTurn, memOk_exec, memOk_andThen, memOk_flawCopy, memOk_issueTurn, memOk_turnStart]

/-! ### The functions of `Sched` -/

theorem memOk_recordMove {k : Nat} {x : RecKind} (hs : s.memOk) : Out.memOk (recordMove k x s) := by
  cases x with
  | gets => exact memOk_execGets hs
  | getm => exact memOk_execGetm hs
  | upg => exact memOk_execUpg hs
  | putm => exact memOk_execPutm hs
  | puts => exact memOk_execPuts hs
  | bypr => exact memOk_execBypr hs
  | bypw => exact memOk_execBypw hs
  | inv => exact memOk_execInv hs
  | tlbi => exact memOk_execTlbiRecord hs
  | sweep => exact memOk_execSweepRecord hs
  | window => exact memOk_execWindowData hs
  | bad => exact memOk_execCarouselSlot hs

/-- A move of another agent keeps the memories' form. -/
def Move.memOk (m : Move) : Prop := ∀ u, u.memOk → Out.memOk (m u)

theorem moves_when {b : Prop} [Decidable b] {P : Move → Prop} {l : List Move} (hl : ∀ m ∈ l, P m) :
    ∀ m ∈ if b then l else [], P m := by
  split
  · exact hl
  · simp

theorem moves_unless {b : Prop} [Decidable b] {P : Move → Prop} {l : List Move} (hl : ∀ m ∈ l, P m) :
    ∀ m ∈ if b then [] else l, P m := by
  split
  · simp
  · exact hl

theorem carouselMoves_memOk : ∀ m ∈ carouselMoves s, Move.memOk m := by
  simp only [carouselMoves, List.forall_mem_append, List.forall_mem_map, List.forall_mem_filterMap]
  refine ⟨fun k _ m e => ?_, fun x _ => ?_⟩
  · split at e
    · split at e
      · cases e
        exact fun u hu => memOk_recordMove hu
      · cases e
    · cases e
  · split
    · exact fun u hu => memOk_execSupplyArrival hu
    · exact fun u hu => memOk_execSupplyArrival hu
    · exact fun u hu => memOk_execOwnerNotice hu
    · exact fun u hu => memOk_execWritebackArrival hu

theorem homeMoves_memOk : ∀ m ∈ homeMoves s, Move.memOk m := by
  simp only [homeMoves, List.forall_mem_append, List.forall_mem_map, List.forall_mem_filterMap,
    List.forall_mem_flatMap]
  refine ⟨⟨⟨⟨fun x _ m e => ?_, fun x _ => ⟨⟨?_, ?_⟩, ?_⟩⟩, fun x _ m e => ?_⟩, ?_⟩, fun x _ u hu => ?_⟩
  · split at e
    · cases e
    · split at e
      · cases e
        exact fun u hu => memOk_execL2Fill hu
      · split at e
        · cases e
          exact fun u hu => memOk_execVaultWritePerformed hu
        · cases e
  · exact moves_unless (List.forall_mem_singleton.mpr fun u hu => memOk_execHeldRequestRelease hu)
  · exact moves_when (List.forall_mem_singleton.mpr fun u hu => memOk_execRemapStepCompletion hu)
  · exact moves_when (List.forall_mem_singleton.mpr fun u hu => memOk_execHwPageRetirement hu)
  · split at e
    · cases e
      exact fun u hu => memOk_execSweepCompletion hu
    · cases e
  · exact moves_when (List.forall_mem_singleton.mpr fun u hu => memOk_execXinvDone hu)
  · exact memOk_performAccess hu

theorem coreMoves_memOk {core : Nat} {c : Core} : ∀ m ∈ coreMoves s core c, Move.memOk m := by
  simp only [coreMoves, List.forall_mem_append, List.forall_mem_filterMap, List.forall_mem_flatMap]
  refine ⟨⟨⟨⟨⟨fun x _ => moves_unless ?_, moves_when ?_⟩, fun x _ => ⟨moves_when ?_, moves_when ?_⟩⟩,
    moves_unless ?_⟩, moves_when ?_⟩, fun r _ m e => ?_⟩
  · simp only [List.forall_mem_cons]
    exact ⟨fun u hu => memOk_execPageRequestEngine hu, fun u hu => memOk_execPrqRecordWrite hu, by simp⟩
  · exact List.forall_mem_singleton.mpr fun u hu => memOk_execCopyEngineCycle hu
  · exact List.forall_mem_singleton.mpr fun u hu => memOk_execBarrierByteCount hu
  · exact List.forall_mem_singleton.mpr fun u hu => memOk_execJobCompletion hu
  · simp only [List.forall_mem_cons]
    exact ⟨fun u hu => memOk_execPassCloseTimeout hu, fun u hu => memOk_execTileFetchStaged hu,
      fun u hu => memOk_execPassStartTest hu, fun u hu => memOk_execPassCompletion hu,
      fun u hu => memOk_execEngineItemCompletion hu, by simp⟩
  · exact List.forall_mem_singleton.mpr fun u hu => memOk_execEngineClearComplete hu
  · obtain ⟨n, -, rfl⟩ := Option.map_eq_some_iff.mp e
    exact fun u hu => memOk_execLaneRemap hu

theorem threadMoves_memOk {k : Nat} {t : Thread} : ∀ m ∈ threadMoves s k t, Move.memOk m := by
  simp only [threadMoves, List.forall_mem_append, List.forall_mem_filterMap]
  refine ⟨⟨⟨⟨⟨fun x _ m e => ?_, moves_when ?_⟩, moves_when ?_⟩, moves_when ?_⟩, moves_when ?_⟩, ?_⟩
  · split at e
    · cases e
      exact fun u hu => memOk_execCountedOperationCompletion hu
    · cases e
  · exact List.forall_mem_singleton.mpr fun u hu => memOk_execBackoffExpiry hu
  · exact List.forall_mem_singleton.mpr fun u hu => memOk_execYieldWaitExpiry hu
  · exact List.forall_mem_singleton.mpr fun u hu => memOk_execWatchdog hu
  · exact List.forall_mem_singleton.mpr fun u hu => memOk_execAgeRuleWin hu
  · split
    · simp only [List.forall_mem_cons]
      exact ⟨fun u hu => memOk_execMeetHoldRelease hu, fun u hu => memOk_execMholdExpiry hu, by simp⟩
    · simp

theorem launchMoves_memOk : ∀ m ∈ launchMoves s, Move.memOk m := by
  simp only [launchMoves, List.forall_mem_append, List.forall_mem_map, List.forall_mem_filterMap,
    List.forall_mem_flatMap]
  refine ⟨⟨⟨fun q _ u hu => memOk_execLaunchRecordTake hu, fun x _ m e => ?_⟩, fun x _ m e => ?_⟩,
    fun x _ => ⟨?_, moves_when ?_⟩⟩
  · split at e
    · cases e
    · cases e
      exact fun u hu => memOk_execWorkgroupPlacement hu
  · split at e
    · cases e
      exact fun u hu => memOk_execLaunchEnd hu
    · cases e
  · split
    · exact List.forall_mem_singleton.mpr fun u hu => memOk_execWorkgroupStart hu
    · exact moves_when (List.forall_mem_singleton.mpr fun u hu => memOk_execPhaseExchange hu)
    · simp only [List.forall_mem_cons]
      exact ⟨fun u hu => memOk_execJobDrainTimeout hu, fun u hu => memOk_execContextSaveComplete hu, by simp⟩
    · exact List.forall_mem_singleton.mpr fun u hu => memOk_execGroupResume hu
    · simp
    · simp
  · exact List.forall_mem_singleton.mpr fun u hu => memOk_execWorkgroupExit hu

theorem moduleMoves_memOk : ∀ m ∈ moduleMoves s, Move.memOk m := by
  simp only [moduleMoves, List.forall_mem_append, List.forall_mem_map, List.forall_mem_filterMap,
    List.forall_mem_flatMap]
  refine ⟨⟨⟨⟨⟨⟨⟨⟨⟨⟨moves_when ?_, moves_when ?_⟩, fun x _ m e => ?_⟩, fun x _ => ⟨⟨⟨moves_when ?_, moves_when ?_⟩,
    moves_when ?_⟩, moves_when ?_⟩⟩, moves_unless ?_⟩, fun x _ u hu => memOk_execCarouselReplay hu⟩,
    fun r _ u hu => memOk_execRemoteRequest hu⟩, fun x _ m e => ?_⟩, moves_when ?_⟩, moves_when ?_⟩, moves_when ?_⟩
  · exact List.forall_mem_singleton.mpr fun u hu => memOk_execCurrentLimitStep hu
  · exact List.forall_mem_singleton.mpr fun u hu => memOk_execHeatRefill hu
  · split at e
    · cases e
      exact fun u hu => memOk_execDroopExpiry hu
    · cases e
  · exact List.forall_mem_singleton.mpr fun u hu => memOk_execBeaconLoss hu
  · simp only [List.forall_mem_cons]
    exact ⟨fun u hu => memOk_execBid hu, fun u hu => memOk_execClaim hu, by simp⟩
  · exact List.forall_mem_singleton.mpr fun u hu => memOk_execMasterTakeover hu
  · exact List.forall_mem_singleton.mpr fun u hu => memOk_execNewMasterBeacon hu
  · exact List.forall_mem_singleton.mpr fun u hu => memOk_execClaimRecord hu
  · split at e
    · cases e
      exact fun u hu => memOk_execRemoteTimeout hu
    · cases e
  · exact List.forall_mem_singleton.mpr fun u hu => memOk_execLoaderComplete hu
  · exact List.forall_mem_singleton.mpr fun u hu => memOk_execQuoteComplete hu
  · exact List.forall_mem_singleton.mpr fun u hu => memOk_execLifetimeRecordComplete hu

theorem agentMoves_memOk : ∀ m ∈ agentMoves s, Move.memOk m := by
  simp only [agentMoves, List.forall_mem_append, List.forall_mem_flatMap]
  exact ⟨⟨⟨⟨⟨carouselMoves_memOk, homeMoves_memOk⟩, fun _ _ => coreMoves_memOk⟩, fun _ _ => threadMoves_memOk⟩,
    launchMoves_memOk⟩, moduleMoves_memOk⟩

theorem defaultMoves_memOk : ∀ m ∈ defaultMoves s, Move.memOk m := by
  simp only [defaultMoves, List.forall_mem_append, List.forall_mem_map]
  exact ⟨fun x _ u hu => memOk_issueTurn hu, fun m hm u hu => memOk_agentTurn (agentMoves_memOk m hm) hu⟩

theorem memOk_defaultMove : Move.memOk (defaultMove s) := by
  have slot : Move.memOk execCarouselSlot := fun u hu => memOk_execCarouselSlot hu
  unfold defaultMove
  split
  · exact slot
  · rw [List.getD_eq_getElem?_getD]
    cases e : (defaultMoves s)[s.now / Config.cycle % ((defaultMoves s).length + 1)]? with
    | none => exact slot
    | some m => exact defaultMoves_memOk m (List.mem_of_getElem? e)

theorem memOk_defaultStep (hs : s.memOk) : Out.memOk (defaultStep s) := by
  have hb : (turnStart Config.cycle false s).memOk := memOk_turnStart hs
  exact memOk_andThen (memOk_defaultMove _ hb) fun _ hu => memOk_afterTurn hu

/-! ### The functions of `Step` -/

theorem memOk_step (hs : s.memOk) : Out.memOk (step s) := by
  grind [step, State.memOk, memOk_runTurn, memOk_defaultStep]

end

/-- Settles O3: `memOk_step`, which rests on one such lemma for each function that `step` calls. -/
theorem memoryKept : Obligations.MemoryKept := by
  intro s u hs e
  have h : Out.memOk (step s) := memOk_step hs
  rwa [e] at h

end Sys2Proof.Machine

end

/-!
Host requests, boot, the loader, quotes and lifetime records (O60, `HostAndBootEvents`).

Most clauses say which state one event leaves, and follow from the equation of the function that performs it. Three need
a frame of their own: what the accesses of an asker leave alone while they are under way (`State.unasked`: a host's read
of the vaults, the loader's reads), what boot step 3 leaves alone (`State.unbooted`), and what no boot step touches
(`State.unstarted`). Boot steps 4 and 5 put hash values into the state; they are described by the one unit that they
replace (`bootCores_launch`, `bootCode_boot`), so that no later proof computes a hash.
-/

section

-- One theorem after another: the threads of the elaborator each take a stack of their own.
set_option Elab.async false

namespace Sys2Proof.Machine

/-! ### Events -/

/-- An event that is one conditional change happens exactly where its condition holds. -/
theorem happens_of_whenCan {s u : State} {i : Instr} {c : Bool} {due : Prop} {q : State → Prop}
    (he : exec i s = whenCan c u s) (hc : c = true ↔ due) (hq : due → q u) : Happens s i due q := by
  refine ⟨fun hd => ⟨u, ?_, hq hd⟩, fun hd => ?_⟩
  · rw [he, whenCan, if_pos (hc.mpr hd)]
  · rw [he, whenCan, if_neg (mt hc.mp hd)]

theorem whenCan_of_false {c : Bool} {u s : State} (h : c = false) : whenCan c u s = .next s := by
  simp [whenCan, h]

theorem whenCan_of_true {c : Bool} {u s : State} (h : c = true) : whenCan c u s = .next u := by
  simp [whenCan, h]

theorem linkIsUp_iff {s : State} {link : Nat} : linkIsUp s link = true ↔ link ∈ s.link.linkUp := by
  simp [linkIsUp]

/-! ### A host's requests -/

theorem takeHost_done {s u : State} {r : HostReq} {x : Except (Cause × Nat) (List Byte)}
    (hf : hostBusy s r.link = false) (hp : hostPerform s r = (some x, u)) : takeHost s r = hostAnswer u r x := by
  simp [takeHost, hf, hp]

theorem takeHost_busy {s : State} {r : HostReq} (hb : hostBusy s r.link = true) :
    takeHost s r = { s with hostReqs := s.hostReqs ++ [r] } := by
  simp [takeHost, hb]

theorem takeHost_later {s : State} {r : HostReq} (hp : hostPerform s r = (none, s)) :
    takeHost s r = { s with hostReqs := s.hostReqs ++ [r] } := by
  simp [takeHost, hp]

/-- The state with one more answer for the host. -/
def State.answered (s : State) (r : Reply) : State :=
  { s with link := { s.link with answers := s.link.answers ++ [r] } }

theorem hostAnswer_write {s : State} {r : HostReq} {b : List Byte} (ht : r.target ≠ .vault) (hw : r.write = true) :
    hostAnswer s r (.ok b) = s.answered ⟨.host r.link, 256, r.addr, r.data.length, true, none, []⟩ := by
  simp [hostAnswer, ht, hw, State.answered, State.modLink]

theorem hostAnswer_read {s : State} {r : HostReq} {b : List Byte} (ht : r.target ≠ .vault) (hw : r.write = false) :
    hostAnswer s r (.ok b) = s.answered ⟨.host r.link, 256, r.addr, r.data.length, false, none, b⟩ := by
  simp [hostAnswer, ht, hw, State.answered, State.modLink]

/-- A read that its link carries, with no request before it, is answered with the bytes found. -/
theorem hostRead_answered {s : State} {link a n : Nat} {target : HostTarget} {b : List Byte}
    (hf : hostBusy s link = false) (hc : linkIsUp s link = true ∨ bootServes s link target a = true)
    (ht : target ≠ .vault)
    (hp : hostPerform s ⟨link, target, false, a, List.replicate n 0⟩ = (some (.ok b), s)) :
    exec (.hostRead link target a n) s = .next (s.answered ⟨.host link, 256, a, n, false, none, b⟩) := by
  have hd : exec (.hostRead link target a n) s = _ := whenCan_of_true (by simpa using hc)
  rw [hd, takeHost_done hf hp, hostAnswer_read ht rfl]
  simp

theorem hostPerform_wafer_write {s : State} {link off : Nat} {b : List Byte} (hl : off + b.length ≤ 2 ^ 32)
    (hm : s.bwin = false) (hr : waferRuns s off b.length = true) :
    hostPerform s ⟨link, .wafer, true, off, b⟩ = (some (.ok []), { s with wmem := writeBytes s.wmem off b }) := by
  simp [-Nat.reducePow, hostPerform, hostWaferWrite, hm, hr, Nat.not_lt.mpr hl]

theorem hostPerform_wafer_stopped {s : State} {link off : Nat} {b : List Byte} (hl : off + b.length ≤ 2 ^ 32)
    (hm : s.bwin = false) (hr : waferRuns s off b.length = false) :
    hostPerform s ⟨link, .wafer, true, off, b⟩ = (none, s) := by
  simp [-Nat.reducePow, hostPerform, hostWaferWrite, hm, hr, Nat.not_lt.mpr hl]

theorem hostPerform_wafer_read {s : State} {link off n : Nat} (hl : off + n ≤ 2 ^ 32)
    (hr : waferRuns s off n = true) :
    hostPerform s ⟨link, .wafer, false, off, List.replicate n 0⟩ = (some (.ok (readBytes s.wmem off n)), s) := by
  simp [-Nat.reducePow, hostPerform, hostWaferRead, hr, Nat.not_lt.mpr hl]

theorem hostDevice_register (s : State) {o : Nat} (ho : o < 2 ^ 32) (h4 : o % 4 = 0) :
    hostDevice s (s.page.moduleId * 2 ^ 48 + 0xFF0000000000 + o) 4 = true := by
  simp only [hostDevice, Bool.and_eq_true, beq_iff_eq, decide_eq_true_eq]
  unfold deviceBase
  refine ⟨⟨⟨?_, ?_⟩, ?_⟩, trivial⟩ <;> omega

theorem bootServes_bootStat {s : State} {link : Nat} (hl : link < 2) (h1 : 1 ≤ s.boot.step)
    (hs : s.boot.step ≠ 6 ∨ s.boot.err ≠ 0) :
    bootServes s link .device (s.page.moduleId * 2 ^ 48 + 0xFF0000000000 + 0x870000) = true := by
  have ha : s.page.moduleId * 2 ^ 48 + 0xFF0000000000 + 0x870000 = s.page.moduleId * 2 ^ 48 + 0xFF0000870000 := by
    omega
  rw [ha]
  simpa [bootServes, hl, h1] using hs

theorem bootServes_flash {s : State} {link a : Nat} (hl : link < 2) (h1 : 1 ≤ s.boot.step)
    (hs : s.boot.step ≠ 6 ∨ s.boot.err ≠ 0) : bootServes s link .flash a = true := by
  simpa [bootServes, hl, h1] using hs

theorem hostPerform_device_read {s : State} {link o : Nat} (ho : o < 2 ^ 32) (h4 : o % 4 = 0) :
    hostPerform s ⟨link, .device, false, s.page.moduleId * 2 ^ 48 + 0xFF0000000000 + o, List.replicate 4 0⟩
      = (some (.ok (natBytes 4 (devRead s o).toNat)), s) := by
  have hd := hostDevice_register s ho h4
  have hoff : (s.page.moduleId * 2 ^ 48 + 0xFF0000000000 + o) % 2 ^ 48 - deviceBase = o := by
    simp only [deviceBase]; omega
  simp [-Nat.reducePow, hostPerform, hostDeviceRead, hd, hoff]

theorem hostPerform_flash_read {s : State} {link off n : Nat} (hl : off + n ≤ 2 ^ 26) :
    hostPerform s ⟨link, .flash, false, off, List.replicate n 0⟩ = (some (.ok (flashBytes s off n)), s) := by
  simp [-Nat.reducePow, hostPerform, hostFlashRead, Nat.not_lt.mpr hl]

theorem hostPerform_regs_read {s : State} {link core slot off n : Nat} {t : Thread}
    (ht : s.thread? (tkey core slot) = some t) (hh : t.run = .halted) (hl : off + n ≤ (regBytes t).length) :
    hostPerform s ⟨link, .regs core slot, false, off, List.replicate n 0⟩
      = (some (.ok (((regBytes t).drop off).take n)), s) := by
  simp [hostPerform, hostRegsRead, ht, hh, hl]

/-! ### What an asker's accesses leave alone -/

/-- The parts of the state that the accesses of an asker leave alone while they are under way. -/
def State.unasked (s : State) : Memory × SMap Thread × BootUnit := (s.wmem, s.threads, s.boot)

theorem unasked_eq {s u : State} (h : u.unasked = s.unasked) :
    u.wmem = s.wmem ∧ u.threads = s.threads ∧ u.boot = s.boot := by
  simpa [State.unasked] using h

@[simp] theorem unasked_pendRemote (s : State) (a : Access) : (pendRemote s a).2.unasked = s.unasked := rfl

@[simp] theorem unasked_pendRecord (s : State) (a : Access) (r : Rec) : (pendRecord s a r).2.unasked = s.unasked := rfl

@[simp] theorem unasked_giveReply (s : State) (a : Access) (e : Option (Cause × Nat)) (b : List Byte) :
    (giveReply s a e b).unasked = s.unasked := by
  unfold giveReply
  repeat' split
  all_goals rfl

@[simp] theorem unasked_askSend (s : State) (a : Access) : (askSend s a).unasked = s.unasked := by
  unfold askSend
  repeat' split
  all_goals simp

@[simp] theorem unasked_askOne (s : State) (a : Access) : (askOne s a).2.unasked = s.unasked := by
  unfold askOne
  split <;> simp

@[simp] theorem unasked_askRead (s : State) (who : Asker) (asid dom pa n m : Nat) :
    (askRead s who asid dom pa n m).2.unasked = s.unasked := by
  induction m generalizing s pa n with
  | zero => rfl
  | succ m ih =>
    unfold askRead
    split
    · rfl
    · simp [ih]

@[simp] theorem unasked_forget (s : State) (who : Asker) : (forget s who).unasked = s.unasked := rfl

theorem unasked_hostVaultRead (s : State) (who : Asker) (pa n : Nat) :
    (hostVaultRead s who pa n).2.unasked = s.unasked := by
  unfold hostVaultRead
  split <;> simp

theorem unasked_hostAnswer (s : State) (r : HostReq) (x : Except (Cause × Nat) (List Byte)) :
    (hostAnswer s r x).unasked = s.unasked := by
  unfold hostAnswer
  dsimp only
  split <;> rfl

theorem unasked_vaultRead (s : State) (link off n : Nat) :
    (takeHost s ⟨link, .vault, false, off, List.replicate n 0⟩).unasked = s.unasked := by
  have hv := unasked_hostVaultRead s (.host link) off (List.replicate n (0 : Byte)).length
  unfold takeHost
  split
  · rfl
  · split
    · next e =>
      simp only [hostPerform] at e
      rw [e] at hv
      exact (unasked_hostAnswer _ _ _).trans hv
    · next e =>
      simp only [hostPerform] at e
      rw [e] at hv
      exact hv

/-! ### Register writes -/

theorem exec_registerWrite_below {s : State} {a : Nat} {v : Word} (h : a < 0xFF0000000000) :
    exec (.registerWrite a v) s = .next s :=
  whenCan_of_false (decide_eq_false (by unfold deviceBase; omega))

theorem exec_registerWrite_device (s : State) {o : Nat} (v : Word) (h : o < 2 ^ 32) :
    exec (.registerWrite (0xFF0000000000 + o) v) s = .next (devWrite s o v) := by
  have hd : exec (.registerWrite (0xFF0000000000 + o) v) s = _ :=
    whenCan_of_true (decide_eq_true (by unfold deviceBase; omega))
  rw [hd, show (0xFF0000000000 + o) % 2 ^ 48 - deviceBase = o by simp only [deviceBase]; omega]

theorem devWrite_vault (s : State) {o : Nat} (v : Word) (h : o < 0x200000) : devWrite s o v = writeVaultReg s o v :=
  if_pos h

theorem devWrite_page (s : State) {o : Nat} (v : Word) (h : o < 0x1000) :
    devWrite s (0x200000 + o) v = writePageReg s o v := by
  simp only [devWrite]
  rw [if_neg (by omega), if_pos (by omega), Nat.add_sub_cancel_left]

theorem devWrite_slice (s : State) {o : Nat} (v : Word) (h : o < 0x100000) :
    devWrite s (0x300000 + o) v = writeSliceReg s o v := by
  simp only [devWrite]
  rw [if_neg (by omega), if_neg (by omega), if_pos (by omega), Nat.add_sub_cancel_left]

theorem devWrite_heat (s : State) {o : Nat} (v : Word) (h : o < 0x21000) :
    devWrite s (0x500000 + o) v = writeHeatReg s o v := by
  simp only [devWrite]
  rw [if_neg (by omega), if_neg (by omega), if_neg (by omega), if_neg (by omega), if_pos (by omega),
    Nat.add_sub_cancel_left]

theorem writeVaultReg_remapGo (s : State) {c : Nat} (v : Word) (h : c < 256) :
    writeVaultReg s (0x1000 * c + 0x8C) v = outState (execVaultRemapGo c v s) s := by
  have hr : (0x1000 * c + 0x8C) % 0x1000 = 0x8C := by omega
  have hk : (0x1000 * c + 0x8C) / 0x1000 = c := by omega
  unfold writeVaultReg
  rw [if_neg (by omega), if_neg (by omega), if_neg (by omega), hr, hk]
  rfl

theorem writeSliceReg_dedupClr (s : State) (c : Nat) (v : Word) :
    writeSliceReg s (0x1000 * c + 0x14) v = outState (execDedupClr c v s) s := by
  have hr : (0x1000 * c + 0x14) % 0x1000 = 0x14 := by omega
  have hk : (0x1000 * c + 0x14) / 0x1000 = c := by omega
  unfold writeSliceReg
  rw [hr, hk]
  rfl

theorem devWrite_thrClr (s : State) {c : Nat} (v : Word) (h : c < 8192) :
    devWrite s (0x600000 + 0x20 * c + 0x10) v = outState (execThrClr c v s) s := by
  have hr : (0x600000 + 0x20 * c + 0x10) % 0x20 = 0x10 := by omega
  have hk : (0x600000 + 0x20 * c + 0x10 - 0x600000) / 0x20 = c := by omega
  simp only [devWrite]
  rw [if_neg (by omega), if_neg (by omega), if_neg (by omega), if_neg (by omega), if_neg (by omega),
    if_pos (by omega), if_pos hr, hk]

theorem writeHeatReg_curlimStep (s : State) {c : Nat} (v : Word) (h : c < 16) :
    writeHeatReg s (0x10000 + 0x100 * c) v = outState (execCurlimStep c v s) s := by
  have hr : (0x10000 + 0x100 * c) % 0x100 = 0 := by omega
  have hk : (0x10000 + 0x100 * c) / 0x100 % 16 = c := by omega
  unfold writeHeatReg
  rw [if_neg (by omega), if_pos (by omega), hr, hk]
  rfl

theorem next_outState_vaultRemapGo (s w : State) (c : Nat) (v : Word) :
    .next (outState (execVaultRemapGo c v s) w) = execVaultRemapGo c v s := by
  unfold execVaultRemapGo
  dsimp only
  split
  · rfl
  · split <;> rfl

theorem next_outState_xinvGo (s w : State) (v : Word) :
    .next (outState (execXinvGo v s) w) = execXinvGo v s := by
  unfold execXinvGo
  dsimp only
  split
  · rfl
  · split <;> rfl

theorem mem_linkUp_hostLinkDown (s : State) (link a : Nat) :
    a ∈ ((linkDown s link).modPort (hostPort link) fun _ => Port.reset).link.linkUp ↔ a ∈ s.link.linkUp ∧ a ≠ link := by
  simp [linkDown, State.modPort, State.modLink, forget]

theorem hostEvents : Claims.HostEvents := by
  intro s link off n c core slot b v t up dev free reg answer booting
  have upIff : linkIsUp s link = true ↔ up := linkIsUp_iff
  have write (hu : up) : exec (.hostWrite link .wafer off b) s = .next (takeHost s ⟨link, .wafer, true, off, b⟩) :=
    whenCan_of_true (upIff.mpr hu)
  have register (o : Nat) (ho : o < 2 ^ 32) : exec (dev o) s = .next (devWrite s o v) :=
    exec_registerWrite_device s v ho
  refine ⟨fun hf hl hm hr => ?_, ?_, ?_, ?_, ?_, ?_, ?_, ?_, ?_, ?_, ?_, ?_, ?_, ?_, ?_, ?_, ?_, ?_, ?_, ?_⟩
  · have ht := takeHost_done (r := ⟨link, .wafer, true, off, b⟩) hf (hostPerform_wafer_write hl hm hr)
    refine happens_of_whenCan rfl upIff fun _ => ?_
    rw [ht, hostAnswer_write (by simp) rfl]
    exact ⟨readBytes_writeBytes _ _ _, rfl, rfl, rfl, fun a ha => memRead_writeBytes_outside _ _ _ _ ha⟩
  · rintro (hf | ⟨hl, hm, hr⟩) hu
    · rw [write hu, takeHost_busy (by simpa [free] using hf)]
    · rw [write hu, takeHost_later (hostPerform_wafer_stopped hl hm hr)]
  · intro hu
    exact whenCan_of_false (by simpa [bootServes] using mt upIff.mp hu)
  · intro hf hu hl hr
    exact hostRead_answered hf (.inl (upIff.mpr hu)) (by simp) (hostPerform_wafer_read hl hr)
  · intro hf hu hc
    exact hostRead_answered hf (.inl (upIff.mpr hu)) (by simp) (hostPerform_device_read (by omega) (by omega))
  · rintro hf ⟨hl, h1, hs⟩
    exact hostRead_answered hf (.inr (bootServes_bootStat hl h1 hs)) (by simp)
      (hostPerform_device_read (by omega) (by omega))
  · intro hf hu hl
    exact hostRead_answered hf (hu.imp upIff.mpr fun ⟨hl, h1, hs⟩ => bootServes_flash hl h1 hs) (by simp)
      (hostPerform_flash_read hl)
  · intro hf hu ht hh hl
    exact hostRead_answered hf (.inl (upIff.mpr hu)) (by simp) (hostPerform_regs_read ht hh hl)
  · intro _
    refine ⟨_, rfl, ?_⟩
    obtain ⟨hw, hth, -⟩ := unasked_eq (unasked_vaultRead s link off n)
    split
    · exact ⟨hw, hth⟩
    · exact ⟨rfl, rfl⟩
  · refine ⟨_, rfl, ?_, fun a ha => ?_, ?_⟩
    · simp [mem_linkUp_hostLinkDown]
    · simp [mem_linkUp_hostLinkDown, ha]
    · exact whenCan_of_false (Bool.eq_false_iff.mpr (mt linkIsUp_iff.mp (by simp [mem_linkUp_hostLinkDown])))
  · exact exec_registerWrite_below
  · rw [register _ (by omega)]
    rfl
  · rw [register _ (by omega)]
    rfl
  · intro hc
    constructor
    · rw [register _ (by omega), devWrite_vault _ _ (by omega), writeVaultReg_remapGo _ _ hc]
      exact next_outState_vaultRemapGo _ _ _ _
    · rw [register _ (by omega), Nat.add_assoc, devWrite_slice _ _ (by omega), writeSliceReg_dedupClr]
      rfl
  · rw [register _ (by omega)]
    exact next_outState_xinvGo _ _ _
  · rw [register _ (by omega)]
    rfl
  · intro hc
    rw [register _ (by omega), devWrite_thrClr _ _ hc]
    rfl
  · intro hc
    rw [register _ (by omega), show 0x510000 + 0x100 * c = 0x500000 + (0x10000 + 0x100 * c) by omega,
      devWrite_heat _ _ (by omega), writeHeatReg_curlimStep _ _ hc]
    rfl
  · rw [register _ (by omega)]
    rfl
  · rw [register _ (by omega)]
    rfl

/-! ### What the boot steps leave alone -/

/-- The parts of the state that boot step 3 leaves alone. -/
def State.unbooted (s : State) : SMap Thread × Memory × PageUnit × List Nat := (s.threads, s.vmem, s.page, s.life.worn)

theorem unbooted_eq {s u : State} (h : u.unbooted = s.unbooted) :
    u.threads = s.threads ∧ u.vmem = s.vmem ∧ u.page = s.page ∧ u.life.worn = s.life.worn := by
  simpa [State.unbooted] using h

theorem unbooted_foldl {α : Type} {f : State → α → State} (hf : ∀ s x, (f s x).unbooted = s.unbooted) (l : List α)
    (s : State) : (l.foldl f s).unbooted = s.unbooted := by
  induction l generalizing s with
  | nil => rfl
  | cons x r ih => exact (ih _).trans (hf s x)

theorem unbooted_bootLane (s : State) (x : Nat × Nat × Nat) : (bootLane s x).unbooted = s.unbooted := rfl

theorem unbooted_bootVault (r : BootReport) (s : State) (v : Nat) : (bootVault r s v).unbooted = s.unbooted := by
  unfold bootVault
  dsimp only
  split <;> rfl

theorem unbooted_voteTable (s : State) (v : Nat) : (voteTable s v).2.unbooted = s.unbooted := by
  unfold voteTable
  dsimp only
  split <;> rfl

theorem unbooted_bootFence (n : Nat) (s : State) : (bootFence n s).unbooted = s.unbooted := by
  induction n generalizing s with
  | zero => rfl
  | succ n ih =>
    unfold bootFence
    split
    · rfl
    · rw [ih, unbooted_foldl unbooted_voteTable]

theorem unbooted_takeTable (s : State) (v : Nat) : (takeTable s v).unbooted = s.unbooted := by
  have hv := unbooted_voteTable s v
  unfold takeTable
  split
  all_goals
    next e =>
    rw [e] at hv
    exact hv

theorem unbooted_bootField (r : BootReport) (s : State) (f : Nat) : (bootField r s f).unbooted = s.unbooted := by
  unfold bootField
  dsimp only
  split <;> rfl

theorem unbooted_bootMaster (r : BootReport) (s : State) : (bootMaster r s).unbooted = s.unbooted := by
  unfold bootMaster
  dsimp only
  split
  · rfl
  · refine unbooted_foldl (fun s x => ?_) _ _
    rfl

theorem unbooted_bootFields (r : BootReport) (s : State) : (bootFields r s).unbooted = s.unbooted := by
  unfold bootFields
  extract_lets timed counted lasers lanes vaults fenced voted
  have hLasers : lasers.unbooted = counted.unbooted := unbooted_foldl (fun _ _ => by rfl) _ _
  have hLanes : lanes.unbooted = lasers.unbooted := unbooted_foldl unbooted_bootLane _ _
  have hVaults : vaults.unbooted = lanes.unbooted := unbooted_foldl (unbooted_bootVault r) _ _
  have hFenced : fenced.unbooted = vaults.unbooted := unbooted_bootFence _ _
  have hVoted : voted.unbooted = fenced.unbooted := unbooted_foldl unbooted_takeTable _ _
  rw [unbooted_bootMaster, unbooted_foldl (unbooted_bootField r), hVoted, hFenced, hVaults, hLanes, hLasers]
  rfl

theorem worn_bootLife (s : State) : (bootLife s).life.worn = s.life.worn := by
  unfold bootLife
  dsimp only
  split <;> rfl

theorem extendMeas_boot (s : State) (m : BitVec 384) : ∃ b, extendMeas s m = { s with boot := b }
    ∧ b.meas = sha3 (natBytes 48 s.boot.meas.toNat ++ natBytes 48 m.toNat) ∧ b.frames = s.boot.frames := by
  unfold extendMeas State.modBoot
  exact ⟨_, rfl, rfl, rfl⟩

theorem bootCode_boot (r : BootReport) (s : State) : ∃ b, bootCode r s = { s with boot := b } := by
  cases h : codePasses r with
  | none => exact ⟨s.boot, by simp only [bootCode, h]⟩
  | some g =>
    obtain ⟨b, hb, -⟩ := extendMeas_boot s g.hash
    simp only [bootCode, h, hb]
    exact ⟨_, rfl⟩

theorem rootKey_bootCode {r : BootReport} (s : State) (h : (codePasses r).isSome = true) :
    (bootCode r s).boot.rootKey = r.rootKey := by
  obtain ⟨g, hg⟩ := Option.isSome_iff_exists.mp h
  obtain ⟨b, hb, -⟩ := extendMeas_boot s g.hash
  simp only [bootCode, hg, hb]
  rfl

theorem modLaunch_cores (s : State) (c : List Nat) (h : BitVec 384) :
    ∃ l, (s.modLaunch fun u => { u with cores := c, goodHash := h }) = { s with launch := l } ∧ l.cores = c :=
  ⟨_, rfl, rfl⟩

theorem bootCores_launch (r : BootReport) (s : State) : ∃ l, bootCores r s = { s with launch := l }
    ∧ l.cores = (List.range Config.coreCount).filter (bootCoreOk r s.life.worn) :=
  modLaunch_cores s _ _

theorem hostLinks_link (s : State) :
    ∃ k, ((s.modLink fun l => { l with linkUp := [0, 1] }).modPort (hostPort 0) (fun _ => linkPort)).modPort
      (hostPort 1) (fun _ => linkPort) = { s with link := k } ∧ k.linkUp = [0, 1] :=
  ⟨_, rfl, rfl⟩

/-- The parts of the state that no boot step touches. -/
def State.unstarted (s : State) : SMap Thread × Memory := (s.threads, s.vmem)

theorem unstarted_ite {c : Prop} [Decidable c] {u s : State} (h : u.unstarted = s.unstarted) :
    (if c then u else s).unstarted = s.unstarted := by
  split
  · exact h
  · rfl

theorem unstarted_bootFields (r : BootReport) (s : State) : (bootFields r s).unstarted = s.unstarted := by
  obtain ⟨ht, hv, -⟩ := unbooted_eq (unbooted_bootFields r s)
  simp [State.unstarted, ht, hv]

theorem unstarted_bootCores (r : BootReport) (s : State) : (bootCores r s).unstarted = s.unstarted := by
  obtain ⟨l, hl, -⟩ := bootCores_launch r s
  rw [hl]
  rfl

theorem unstarted_bootCode (r : BootReport) (s : State) : (bootCode r s).unstarted = s.unstarted := by
  obtain ⟨b, hb⟩ := bootCode_boot r s
  rw [hb]
  rfl

theorem unstarted_bootLife (s : State) : (bootLife s).unstarted = s.unstarted := rfl

theorem unstarted_modPage (s : State) (f : PageUnit → PageUnit) : (s.modPage f).unstarted = s.unstarted := rfl

theorem unstarted_modLink (s : State) (f : LinkUnit → LinkUnit) : (s.modLink f).unstarted = s.unstarted := rfl

theorem unstarted_modPort (s : State) (n : Nat) (f : Port → Port) : (s.modPort n f).unstarted = s.unstarted := rfl

theorem unstarted_bootSteps (r : BootReport) (s : State) (n : Nat) : (bootSteps r s n).unstarted = s.unstarted := by
  unfold bootSteps
  extract_lets living named fields cores code
  have hNamed : named.unstarted = living.unstarted := unstarted_ite (unstarted_modPage _ _)
  have hFields : fields.unstarted = named.unstarted := unstarted_ite (unstarted_bootFields r _)
  have hCores : cores.unstarted = fields.unstarted := unstarted_ite (unstarted_bootCores r _)
  have hCode : code.unstarted = cores.unstarted := unstarted_ite (unstarted_bootCode r _)
  rw [unstarted_ite, hCode, hCores, hFields, hNamed, unstarted_bootLife]
  rw [unstarted_modPort, unstarted_modPort, unstarted_modLink]

theorem bootSteps_six {r : BootReport} {n : Nat} (s : State) (h : (codePasses r).isSome = true) (hn : n = 6) :
    (bootSteps r s n).boot.rootKey = r.rootKey ∧ (bootSteps r s n).page.moduleId = r.moduleId % 1024
      ∧ (bootSteps r s n).link.linkUp = [0, 1]
      ∧ (bootSteps r s n).launch.cores = (List.range Config.coreCount).filter (bootCoreOk r s.life.worn) := by
  subst hn
  simp only [bootSteps, Nat.reduceLeDiff, ↓reduceIte]
  generalize hi : ((bootLife s).modPage fun p => { p with moduleId := r.moduleId % 1024 }) = named
  have hId : named.page.moduleId = r.moduleId % 1024 := by rw [← hi]; rfl
  have hWorn : named.life.worn = s.life.worn := by rw [← hi]; exact worn_bootLife s
  obtain ⟨-, -, fPage, fWorn⟩ := unbooted_eq (unbooted_bootFields r named)
  obtain ⟨l, hCores, hl⟩ := bootCores_launch r (bootFields r named)
  obtain ⟨b, hCode⟩ := bootCode_boot r (bootCores r (bootFields r named))
  have hKey := rootKey_bootCode (bootCores r (bootFields r named)) h
  obtain ⟨k, hk, hUp⟩ := hostLinks_link (bootCode r (bootCores r (bootFields r named)))
  rw [fWorn, hWorn] at hl
  rw [hCode] at hk hKey
  rw [hCode, hk, hCores]
  exact ⟨hKey, (congrArg PageUnit.moduleId fPage).trans hId, hUp, hl⟩

/-! ### Boot -/

theorem codePasses_isSome_iff (r : BootReport) : (codePasses r).isSome = true ↔
    ∃ g, segment? r.codeDesc (2 ^ 64) = some g ∧ g.kind = 0 ∧ g.signer = 0 ∧ g.size = r.code.length
      ∧ r.code.length ≤ 2 ^ 18 ∧ sha3 r.code = g.hash ∧ sha3 r.rootKey = r.rootHash
      ∧ (∃ b ∈ r.codeSig, b ≠ 0) ∧ Config.mlDsaVerify r.rootKey (g.raw.take 84) r.codeSig = true := by
  have sig (raw : List Byte) : signatureHolds r.rootKey raw r.codeSig = true
      ↔ (∃ b ∈ r.codeSig, b ≠ 0) ∧ Config.mlDsaVerify r.rootKey (raw.take 84) r.codeSig = true := by
    simp [signatureHolds]
  unfold codePasses
  cases segment? r.codeDesc (2 ^ 64) with
  | none => simp
  | some g => simp only [Option.isSome_ite, sig, Option.some.injEq, exists_eq_left', sramBytes,
    Nat.reducePow]

theorem bootFails_spec {r : BootReport} {code : Prop} (hc : (codePasses r).isSome = true ↔ code) :
    (1 ≤ r.failStep ∧ r.failStep ≤ 5 → bootFails r = r.failStep)
      ∧ (¬ (1 ≤ r.failStep ∧ r.failStep ≤ 5) → ¬ code → bootFails r = 5)
      ∧ (¬ (1 ≤ r.failStep ∧ r.failStep ≤ 5) → code → bootFails r = if r.failStep = 6 then 6 else 0) := by
  rw [← hc]
  refine ⟨fun h => if_pos h, fun h hn => ?_, fun h hy => ?_⟩
  · rw [bootFails, if_neg h, if_pos (by simpa using hn)]
  · rw [bootFails, if_neg h, if_neg (by simpa [Option.isSome_iff_ne_none] using hy)]

theorem codePasses_of_bootFails_zero {r : BootReport} (h : bootFails r = 0) : (codePasses r).isSome = true := by
  obtain ⟨hReported, hCode, -⟩ := bootFails_spec (Iff.refl ((codePasses r).isSome = true))
  have hr : ¬ (1 ≤ r.failStep ∧ r.failStep ≤ 5) := fun hr => by
    have := hReported hr
    omega
  refine Decidable.byContradiction fun hn => ?_
  have := hCode hr hn
  omega

/-! ### The loader -/

theorem unasked_containerBytes (s : State) (j : LoadJob) (o n : Nat) :
    (containerBytes s j o n).2.unasked = s.unasked := by
  unfold containerBytes
  dsimp only
  split <;> simp

theorem boot_loaderEnd (s : State) (n : Nat) :
    (loaderEnd s n).boot = { s.boot with loadBusy := none, loadStat := n } := by
  simp [loaderEnd, notify, State.modBoot]

theorem runLoader_foreign {s : State} {j : LoadJob} (hp : j.pages = none) (hd : j.descs = none)
    (ha : j.addr / 2 ^ 48 ≠ s.page.moduleId ∨ 2 ^ 43 ≤ j.addr % 2 ^ 48) :
    runLoader s j = loaderFail (forget s .loader) 0xFF 7 := by
  have hc : containerBytes s j 0 64 = (some (.error (.perm, 0)), s) := by
    refine if_pos ?_
    simpa [inVault] using ha
  simp only [runLoader, hp, hd, hc]

theorem runLoader_done {s : State} {j : LoadJob} (hp : j.pages = none) (hd : j.descs = some []) :
    runLoader s j = loaderEnd s (2 ^ 16) := by
  simp [runLoader, hp, hd]

theorem runLoader_segment {s : State} {j : LoadJob} {d : List Byte} (hp : j.pages = none) (hd : j.descs = some d)
    (hn : d ≠ []) : runLoader s j = loadSegment s j (d.take 128) := by
  simp [runLoader, hp, hd, hn]

theorem runLoader_marks {s : State} {j : LoadJob} (hp : j.pages = some []) :
    runLoader s j = loadGoes (s.modBoot fun b => { b with
      frames := j.marks.foldl (fun l f => if l.contains f then l else l ++ [f]) b.frames }) j.next := by
  simp [runLoader, hp]

theorem mem_addMarks (marks frames : List Nat) (f : Nat) :
    f ∈ marks.foldl (fun l f => if l.contains f then l else l ++ [f]) frames ↔ f ∈ frames ∨ f ∈ marks := by
  induction marks generalizing frames with
  | nil => simp
  | cons m rest ih =>
    rw [List.foldl_cons, ih]
    split
    · next hm =>
      have hm : m ∈ frames := by simpa using hm
      constructor
      · rintro (h | h)
        · exact .inl h
        · exact .inr (List.mem_cons_of_mem _ h)
      · rintro (h | h)
        · exact .inl h
        · rcases List.mem_cons.mp h with rfl | h
          · exact .inl hm
          · exact .inr h
    · simp [or_assoc]

/-- A data segment or a code segment that has passed its checks is measured, and its pages are next. -/
theorem loadSegment_passes {s s1 s2 s3 : State} {j : LoadJob} {g : Segment} {d x sig : List Byte} {l : List Nat}
    (hg : segment? d j.total = some g) (hk : g.kind ≠ 2)
    (hData : containerBytes s j g.off g.size = (some (.ok x), s1)) (hHash : sha3 x = g.hash)
    (hSig : containerBytes s1 j g.sigOff 3309 = (some (.ok sig), s2))
    (hBy : signedBy s2.boot.rootKey j.keys g sig = true)
    (hFrames : loadFrames s2 j g.va ((g.size + 16383) / 16384) = (some (.ok l), s3)) :
    loadSegment s j d = loadGoes (extendMeas s3 g.hash).fresh.2 { j with
      pages := some (pagesOf x l), marks := if g.kind = 0 then l else [], id := (extendMeas s3 g.hash).fresh.1 } := by
  have hKey : s2.boot.rootKey = s.boot.rootKey := by
    obtain ⟨-, -, h1⟩ := unasked_eq (hData ▸ unasked_containerBytes s j g.off g.size)
    obtain ⟨-, -, h2⟩ := unasked_eq (hSig ▸ unasked_containerBytes s1 j g.sigOff 3309)
    exact congrArg BootUnit.rootKey (h2.trans h1)
  rw [hKey] at hBy
  have hPages : (g.size + pageBytes - 1) / pageBytes = (g.size + 16383) / 16384 := by
    unfold pageBytes
    omega
  simp [loadSegment, hg, hData, hHash, signatureBytes, hSig, hBy, hk, hPages, hFrames]

/-! ### Bytes of a quote -/

theorem length_natBytes (n v : Nat) : (natBytes n v).length = n := by
  unfold natBytes
  induction n generalizing v with
  | zero => rfl
  | succ n ih => simp [bytesOfNat, ih]

theorem readBytes_add (m : Memory) (a k n : Nat) :
    readBytes m a (k + n) = readBytes m a k ++ readBytes m (a + k) n := by
  induction k generalizing a with
  | zero => simp [readBytes]
  | succ k ih => rw [Nat.succ_add, readBytes, ih, readBytes, List.cons_append, show a + 1 + k = a + (k + 1) by omega]

theorem length_readBytes (m : Memory) (a n : Nat) : (readBytes m a n).length = n := by
  induction n generalizing a with
  | zero => rfl
  | succ n ih => simp [readBytes, ih]

theorem readBytes_writeBytes_append (m : Memory) (a : Nat) (p q : List Byte) :
    readBytes (writeBytes m a (p ++ q)) a p.length = p := by
  have h := readBytes_writeBytes m a (p ++ q)
  rw [List.length_append, readBytes_add] at h
  exact (List.append_inj h (length_readBytes _ _ _)).1

theorem length_quoteBytes (s : State) : (quoteBytes s).length = 152 := by
  simp [quoteBytes, length_natBytes]

/-! ### The lifetime record -/

theorem life_notify (s : State) (source unit data : Nat) : (notify s source unit data).life = s.life := rfl

theorem length_lastRecords (l : List LifeRecord) (x : LifeRecord) :
    ((l ++ [x]).drop ((l ++ [x]).length - 64)).length = min 64 (l.length + 1) := by
  rw [List.length_drop, List.length_append, List.length_singleton]
  omega

theorem getLast?_lastRecords (l : List LifeRecord) (x : LifeRecord) :
    ((l ++ [x]).drop ((l ++ [x]).length - 64)).getLast? = some x := by
  have hKept : ¬ (l ++ [x]).length ≤ (l ++ [x]).length - 64 := by
    rw [List.length_append, List.length_singleton]
    omega
  rw [List.getLast?_drop, if_neg hKept, List.getLast?_append]
  rfl

theorem exec_loaderComplete {s : State} {j : LoadJob} (h : s.boot.loadBusy = some j) :
    exec .loaderComplete s = .next (runLoader s j) := by
  have he : exec .loaderComplete s = execLoaderComplete s := rfl
  rw [he, execLoaderComplete, h]

theorem bootEvents : Claims.BootEvents := by
  intro s r v w b size lo code reported fails
  refine ⟨?_, ?_, ?_, ?_, ?_, ?_, ?_, ?_, ?_, ?_, ?_, ?_, ?_⟩
  · refine happens_of_whenCan rfl (by simp) fun _ => ?_
    obtain ⟨hThreads, hVmem⟩ := Prod.mk.inj (unstarted_bootSteps r s (if bootFails r = 0 then 6 else bootFails r - 1))
    have hSix (h0 : bootFails r = 0) := bootSteps_six s (codePasses_of_bootFails_zero h0)
      (n := if bootFails r = 0 then 6 else bootFails r - 1) (if_pos h0)
    generalize bootSteps r s (if bootFails r = 0 then 6 else bootFails r - 1) = x at hThreads hVmem hSix
    exact ⟨bootFails_spec (codePasses_isSome_iff r), rfl, hThreads, hVmem, fun h0 => hSix h0⟩
  · exact ⟨_, rfl, rfl, rfl, rfl, rfl, rfl, rfl, rfl, rfl, rfl, rfl, rfl⟩
  · exact happens_of_whenCan rfl (by simp) fun _ => ⟨rfl, rfl, rfl, rfl⟩
  · intro h
    have he : exec .loaderComplete s = execLoaderComplete s := rfl
    rw [he, execLoaderComplete, h]
  · intro j hj hp hd ha
    refine ⟨_, exec_loaderComplete hj, ?_⟩
    rw [runLoader_foreign hp hd ha, loaderFail, boot_loaderEnd]
    exact ⟨rfl, rfl, rfl, rfl, rfl⟩
  · intro j hj hp hd
    refine ⟨_, exec_loaderComplete hj, ?_⟩
    rw [runLoader_done hp hd, boot_loaderEnd]
    exact ⟨rfl, rfl⟩
  · intro j hj hp
    refine ⟨_, j.next, exec_loaderComplete hj, ?_⟩
    rw [runLoader_marks hp]
    exact ⟨rfl, rfl, rfl, rfl, fun f => mem_addMarks _ _ _⟩
  · intro j g d x sig l s1 s2 s3 hj hp hd hne hg hk hData hHash hSig hBy hFrames
    have he := exec_loaderComplete hj
    rw [runLoader_segment hp hd hne, loadSegment_passes hg hk hData hHash hSig hBy hFrames] at he
    obtain ⟨m, hm, hMeas, hMarks⟩ := extendMeas_boot s3 g.hash
    rw [hm] at he
    exact ⟨_, _, he, rfl, rfl, rfl, hMeas, hMarks⟩
  · refine happens_of_whenCan rfl (by simp) fun _ f => ?_
    rw [State.modBoot, List.mem_filter, Bool.not_eq_true', ← Bool.not_eq_true, Bool.and_eq_true, decide_eq_true_eq,
      decide_eq_true_eq]
    exact Iff.rfl
  · exact ⟨_, rfl, rfl, rfl⟩
  · refine happens_of_whenCan rfl Iff.rfl fun _ => ⟨rfl, ?_⟩
    have h := readBytes_writeBytes_append s.wmem s.boot.quoteAddr (quoteBytes s) (identitySign (quoteBytes s))
    rw [length_quoteBytes] at h
    rw [State.modBoot_wmem]
    dsimp only
    rw [h, quoteBytes]
  · exact happens_of_whenCan rfl (by simp) fun _ => rfl
  · refine happens_of_whenCan rfl Iff.rfl fun _ => ?_
    cases w with
    | false =>
      rw [if_neg (by simp)]
      exact ⟨rfl, fun _ => ⟨rfl, rfl⟩, nofun⟩
    | true =>
      rw [if_pos rfl, life_notify]
      exact ⟨rfl, nofun, fun _ => ⟨rfl, length_lastRecords _ _, lifeRecord s ((s.life.seq + 1) % 65536),
        getLast?_lastRecords _ _, rfl, rfl, rfl, rfl⟩⟩

/-- Settles O60, by its two parts. -/
theorem hostAndBootEvents : Obligations.HostAndBootEvents := ⟨hostEvents, bootEvents⟩

end Sys2Proof.Machine

end
